-- ==== Sys2Proof/Word.lean ====
section
/-! DEFINITION. The word types of the machine and the sparse store type (R4-R7, R154). -/

namespace Sys2Proof

/-- One byte. -/
abbrev Byte := BitVec 8

/-- One 64-bit doubleword: a scalar register, a parameter, an address while it is computed. -/
abbrev Word := BitVec 64

/-- One 96-bit instruction word (R154). -/
abbrev InstrWord := BitVec 96

/-- A store by natural-number key: keys strictly rising, no entry equal to the store's default.
`Sparse Byte` is a list of `Host.Cell`. -/
abbrev Sparse (α : Type) := List (Nat × α)

/-- A byte store by byte address. -/
abbrev Mem := Sparse Byte

/-- Bits `hi..lo` of a word as a field of `n` bits starting at `lo`. -/
abbrev fieldAt {w : Nat} (x : BitVec w) (lo n : Nat) : BitVec n := x.extractLsb' lo n

end Sys2Proof
end

