-- ==== Sys2Proof/Config.lean ====
section
/-! DEFINITION. What an implementation fixes, and the free values the manual leaves open.
An `opaque` constant has no body: no proof can learn its value (log entries 3, 6, 7, 8, 9). -/

namespace Sys2Proof.Config

/-- The value of a point the manual leaves open, of `w` bits, for the `n`-th such point of a run
(R10, R22, R23, R33, R106, R199). Log entry 3. -/
opaque free (w n : Nat) : BitVec w

/-- SHA-256 (R411, R412, R414): the standard's function, uninterpreted. Log entry 6. -/
opaque sha256 (m : List Byte) : BitVec 256

/-- HSS signature check of RFC 8554 under a public-key hash (R407, R413), uninterpreted. Log entry 6. -/
opaque hssVerify (keyHash : BitVec 256) (m sig : List Byte) : Bool

/-- HSS signature under the device key with a counter value (R412), uninterpreted: a function of the
message and the counter, cut or padded to 3,284 bytes where it is used. Log entry 6. -/
opaque hssSign (m : List Byte) (counter : Nat) : List Byte

/-- The AES-256-XTS key pair the island draws for the `n`-th key it makes (R363, R410): random, so open. Log entry 7. -/
opaque keyPair (n : Nat) : BitVec 512

/-- XTS-AES-256 (IEEE 1619, R363): what a key pair makes of the 16-byte block `j` of the data unit with a tweak, which
its inverse undoes; the cipher itself is uninterpreted. Log entry 7. -/
opaque xts (pair : BitVec 512) (tweak j : Nat) : BitVec 128 ≃ BitVec 128

/-- Members of a partition (R333). -/
inductive Members where
  /-- `n` quads of die `d`, the first of index `q`. -/
  | quads (d q n : Nat)
  /-- Whole dies, by bit. -/
  | dies (set : BitVec 4)
  deriving DecidableEq, Repr, Inhabited

/-- A slot profile with its published figures (R133, R334, R350, R351). -/
structure Profile where
  /-- Entries of the channel tables (512 · channel + index) that carry host traffic. -/
  hostChan : List Nat
  /-- Entries of the Fadric tables (1,024 · direction + index) that carry host traffic. -/
  hostFad : List Nat
  mrate : Nat
  mlat : Nat
  prate : Nat
  plat : Nat
  frate : Nat
  pbar : Nat
  deriving DecidableEq, Repr

/-- An ASID binding (R356). -/
structure Binding where
  asid : BitVec 16
  root : Nat
  tkey : BitVec 11
  pod : Bool
  deriving DecidableEq, Repr

/-- A partition's descriptor with the windows and bindings kept beside it (R334, R356, R409). -/
structure Descriptor where
  members : Members
  asid : BitVec 16
  tokbase : Nat
  swblk : Nat
  sen : Bool
  profiles : List Profile
  /-- Channel-table entries of the partition (512 · channel + index). -/
  chanEntries : List Nat
  /-- Fadric-table entries of the partition (1,024 · direction + index). -/
  fadEntries : List Nat
  /-- Physical windows: base and size in 64 KiB units. -/
  windows : List (Nat × Nat)
  bindings : List Binding
  /-- The mailbox home's physical block and its key slot. -/
  home : Option (Nat × BitVec 11)
  deriving DecidableEq, Repr, Inhabited

/-- The partition number and descriptor that bytes 8-4,095 of a PARTSET request hold, and none where they
hold no good descriptor: R410 names the content and no layout, so the reading is uninterpreted. -/
opaque descriptorOf (request : List Byte) : Option (Nat × Descriptor)

/-- The digest of the boot resource map and grade that extends mh3 (R411), of a layout the manual does not
give: uninterpreted. -/
opaque resourceMap (cores chans : List Nat) (grade : Nat) : List Byte

/-- The block of another package that a VBN of the tenant of partition `p` names under that package's own tables
(R118): open here. Log entry 8. -/
opaque remotePbn (p pkg vbn : Nat) : Nat

/-- The key index of that block's leaf. Log entry 8. -/
opaque remoteKey (p pkg vbn : Nat) : BitVec 11

/-- How many cores the tenant of partition `p` holds on another package of the pod, none for 0 (R273): the pod's
configuration, which the manual leaves to each pod. Log entry 8. -/
opaque podCores (p pkg : Nat) : Nat

/-- Cores of the package: 4 dies of 128 (R11). -/
def cores : Nat := 512

/-- Bytes of a block (R112). -/
def blockBytes : Nat := 4096

/-- Bytes of a near store (R17). -/
def nearBytes : Nat := 1048576

/-- Bytes of a die-store share (R17). -/
def shareBytes : Nat := 524288

/-- Entries of a dispatch queue (R15). -/
def queueDepth : Nat := 16

/-- Outgoing blocks an exchange buffer holds (R121). -/
def xchBufferBlocks : Nat := 32

/-- Entries of an inflow queue (R271). -/
def inflowDepth : Nat := 8

/-- Bytes of a landing buffer (R69, R271). -/
def landingBytes : Nat := 65536

/-- Entries of a recovery buffer (R127). -/
def recoveryBlocks : Nat := 192

/-- Bytes of a receiver hold (R320). -/
def holdBytes : Nat := 262144

/-- Credits a bucket holds (R133). -/
def creditMax : Nat := 16

/-- Launches a partition may hold submitted and not completed (R338). -/
def launchMax : Nat := 64

/-- The greatest difference of two dies' TICK values (R71). -/
def tickSkew : Nat := 8192

end Sys2Proof.Config
end

