-- ==== Sys2Proof/Syntax.lean ====
section
/-! DEFINITION. The syntax: the formats of the four streams' words (R162-R166), the data that pick one
instance of an event of the opcode table, and the one inductive `Instr`, one constructor per row. -/

namespace Sys2Proof

/-- The four streams of a core (R14, R155). -/
inductive Stream where
  | seq | m | v | x
  deriving DecidableEq, Repr

/-- A guard `?pN` or `?!pN` (R29, R162 bits 81:78). -/
structure Guard where
  neg : Bool
  p : BitVec 3
  deriving DecidableEq, Repr

/-- What every sequencer word carries besides its format: GAP and the guard (R162). -/
structure Head where
  gap : BitVec 5
  guard : Option Guard
  deriving DecidableEq, Repr

/-- Format SR (R162). -/
structure SR where
  dst : BitVec 5
  sa : BitVec 5
  sb : BitVec 5
  deriving DecidableEq, Repr

/-- Format SI (R162). -/
structure SI where
  dst : BitVec 5
  sa : BitVec 5
  imm : Word
  deriving DecidableEq, Repr

/-- Format SP with a register operand, `cmp` (R162). -/
structure SPr where
  pd : BitVec 3
  cond : BitVec 3
  sa : BitVec 5
  sb : BitVec 5
  deriving DecidableEq, Repr

/-- Format SP with an immediate, `cmpi` (R162). -/
structure SPi where
  pd : BitVec 3
  cond : BitVec 3
  sa : BitVec 5
  imm : Word
  deriving DecidableEq, Repr

/-- Format PL (R162). -/
structure PL where
  pd : BitVec 3
  pa : BitVec 3
  pb : BitVec 3
  deriving DecidableEq, Repr

/-- Format SB (R162). -/
structure SB where
  tgt : BitVec 14
  deriving DecidableEq, Repr

/-- Format SL with a register count, `loop` (R162). -/
structure SLr where
  lc : BitVec 2
  last : BitVec 14
  sa : BitVec 5
  deriving DecidableEq, Repr

/-- Format SL with an immediate count, `loopi` (R162). -/
structure SLi where
  lc : BitVec 2
  last : BitVec 14
  cnt : BitVec 32
  deriving DecidableEq, Repr

/-- Format SD (R162). -/
structure SD where
  eng : BitVec 2
  secno : BitVec 12
  ka : BitVec 5
  kb : BitVec 5
  kc : BitVec 5
  kd : BitVec 5
  deriving DecidableEq, Repr

/-- Format SW (R162). -/
structure SW where
  cnt : BitVec 16
  deriving DecidableEq, Repr

/-- Format SQ (R162). -/
structure SQ where
  reg : BitVec 5
  scope : BitVec 3
  deriving DecidableEq, Repr

/-- Format SM (R162). -/
structure SM where
  reg : BitVec 5
  base : BitVec 5
  off : BitVec 24
  w : BitVec 2
  lvl : Bool
  ordq : BitVec 2
  scope : BitVec 3
  cls : BitVec 4
  arr : BitVec 16
  deriving DecidableEq, Repr

/-- Format SS (R162). -/
structure SS where
  sh : BitVec 4
  sel : BitVec 5
  reg : BitVec 5
  deriving DecidableEq, Repr

/-- Format SN (R162). -/
structure SN where
  bar : BitVec 9
  scope : BitVec 3
  sa : BitVec 5
  dst : BitVec 5
  fn : BitVec 3
  deriving DecidableEq, Repr

/-- Format SX (R162). -/
structure SX where
  reg : BitVec 5
  sysreg : BitVec 12
  deriving DecidableEq, Repr

/-- Format F, `fence` in every map (R166). -/
structure FF where
  mask : BitVec 16
  scope : BitVec 3
  deriving DecidableEq, Repr

/-- Format VA (R163). -/
structure VA where
  rm : BitVec 2
  ty : BitVec 4
  dst : BitVec 7
  sa : BitVec 7
  sb : BitVec 7
  sc : BitVec 7
  sh : BitVec 4
  me : Bool
  msk : BitVec 3
  ax : BitVec 2
  imm : BitVec 32
  deriving DecidableEq, Repr

/-- Format VM (R163). -/
structure VM where
  ty : BitVec 4
  reg : BitVec 7
  bk : Bool
  ki : BitVec 2
  off : BitVec 24
  sh : BitVec 4
  me : Bool
  msk : BitVec 3
  lvl : Bool
  ordq : BitVec 2
  scope : BitVec 3
  cls : BitVec 4
  arr : BitVec 16
  deriving DecidableEq, Repr

/-- Format MC (R164). -/
structure MC where
  sc : Bool
  at_ : Bool
  wl : Bool
  ns : BitVec 8
  ns2 : BitVec 8
  sh : BitVec 4
  fmt : BitVec 4
  cls : BitVec 4
  deriving DecidableEq, Repr

/-- Format XE (R165). -/
structure XE where
  nsl : BitVec 8
  nk : Bool
  nki : BitVec 2
  fki : BitVec 2
  foff : BitVec 16
  cnt : BitVec 4
  cls : BitVec 4
  arr : BitVec 16
  deriving DecidableEq, Repr

/-- Format XT (R165). -/
structure XT where
  len : BitVec 10
  bk : Bool
  ki : BitVec 2
  off : BitVec 24
  kd : BitVec 2
  cls : BitVec 4
  arr : BitVec 16
  deriving DecidableEq, Repr

/-- Format XA (R165). -/
structure XA where
  aop : BitVec 4
  w : BitVec 2
  ka : BitVec 2
  kv : BitVec 2
  kc : BitVec 2
  bk : Bool
  ki : BitVec 2
  off : BitVec 24
  ordq : BitVec 2
  scope : BitVec 3
  cls : BitVec 4
  arr : BitVec 16
  al : Bool
  deriving DecidableEq, Repr

/-! ### Data of events -/

/-- A host-visible register with no behaviour of its own (R8; R336, R392, R402, R403, R380). -/
inductive HostReg where
  /-- RETRAIN, host offset 0x010 (R400). -/
  | retrain
  /-- SEED of partition `p` (R336). -/
  | seed (p : Nat)
  /-- AGE of partition `p` (R336). -/
  | age (p : Nat)
  /-- EN, bit 8 of offset 0x060 of partition `p` (R336). -/
  | en (p : Nat)
  /-- PEN and HALT of partition `p` (R336, offset 0x088). -/
  | ctl (p : Nat)
  /-- OSEL of partition `p` (R392). -/
  | osel (p : Nat)
  /-- EN and TRIG of BLCTL of the selected core of partition `p` (R392). -/
  | blctl (p : Nat)
  /-- WDOG of the selected core of partition `p` (R392). -/
  | wdog (p : Nat)
  /-- TRCTL: EN, MASK, TRSIZE of partition `p` (R392). -/
  | trctl (p : Nat)
  /-- TRBASE of partition `p` (R392). -/
  | trbase (p : Nat)
  /-- TRTAIL of die `d` of partition `p` (R392). -/
  | trtail (p d : Nat)
  /-- APBASE of partition `p` (R403). -/
  | apbase (p : Nat)
  /-- Breakpoint word index of core `c`, with bit 14 its enable (R380 code 1). -/
  | bpc (c : Nat)
  /-- Queue-entry count of engine `e` of core `c` at which to stop (R380 code 2). -/
  | bpn (c : Nat) (e : Stream)
  /-- DTICK of core `c` (R380 code 3). -/
  | dtick (c : Nat)
  /-- AER status of the host port: bits 0 and 1 written 1 clear the corrected and the uncorrectable status (R376). -/
  | aerStatus
  /-- The Uncorrectable Internal Error severity bit: bit 0, 1 for fatal (R376). -/
  | aerSeverity
  /-- The mask of ERR_COR: bit 0 (R376). -/
  | aerMask
  deriving DecidableEq, Repr

/-- An error event as a unit raises it (R371, R373). `addr` is the struck byte's address; for a register word
(SRC 0x02, 0x03) it is word + 64 · index + 4,096 · class, classes as in `Core.badReg`, and 2^16 + key for a cell; the
record shows an address only where R373 gives one. -/
structure ErrEv where
  kind : BitVec 8
  src : BitVec 8
  part : BitVec 7
  addr : Word
  detail : Word
  ctx : BitVec 32
  asid : BitVec 16
  /-- Whether it is a core's own; the CORE field reads 0x1FF where it is none's, which is also core 511's number. -/
  ofCore : Bool
  core : BitVec 9
  eng : BitVec 2
  sec : BitVec 12
  widx : BitVec 14
  token : BitVec 20
  word6 : Word
  deriving DecidableEq, Repr

/-- A link whose frame failed its CRC (R369, R397). -/
inductive LinkRef where
  /-- Fadric link direction from die `a` to die `b`. -/
  | fadric (a b : Nat)
  /-- OML channel. -/
  | oml (ch : Nat)
  /-- Network port of die `d`. -/
  | network (d : Nat)
  deriving DecidableEq, Repr

/-- What a debugger writes in a stopped core (R379). -/
inductive DbgTarget where
  | sreg (i : BitVec 5)
  | vreg (i : BitVec 6)
  | mask (i : BitVec 3)
  | pred (i : BitVec 3)
  | shape (i : BitVec 4)
  /-- A quill pair: the directions in bits 2,047:0, the norm above them. -/
  | quill (i : BitVec 4)
  /-- A loop counter, first and last word of the current bank: bits 31:0, 45:32, 61:48. -/
  | loop (i : BitVec 2)
  /-- A cell of a tile. -/
  | cell (t : Bool) (m n : BitVec 7)
  /-- VFLG, and a tile's flag word. -/
  | vflg
  | tflg (t : Bool)
  | nearByte (a : BitVec 20)
  deriving DecidableEq, Repr

/-- What self-test finds at boot (R352). -/
structure Findings where
  /-- Physical ids of failed cores. -/
  cores : List Nat
  /-- Channels with one failed lane group. -/
  halfChans : List Nat
  /-- Failed channels. -/
  badChans : List Nat
  /-- Links (die pairs) with failed lanes. -/
  halfLinks : List (Nat × Nat)
  /-- Links (die pairs) with a failed sideband. -/
  badSidebands : List (Nat × Nat)
  deriving DecidableEq, Repr

/-- The two boot images in the flash, each header, body and signature (R407). -/
structure BootImages where
  nibPatch : List Byte
  folio : List Byte
  deriving DecidableEq, Repr

/-- The routes of the mailbox (R409). -/
inductive Route where
  | host
  | part (p : Nat)
  deriving DecidableEq, Repr

/-- What one frame of the pod transport carries (R404). -/
inductive PodBody where
  /-- An `xsend` payload to core `core` of partition `p`, with the numbers of its poisoned words. -/
  | send (p core src tag : Nat) (data : List Byte) (poison : List Nat)
  /-- An `xpush` payload. -/
  | push (p core src : Nat) (data : List Byte) (poison : List Nat)
  /-- An exchange `id` of another package asks for the blocks of VBNs of partition `p` (R118). -/
  | fetch (p id : Nat) (vbns : List Nat)
  /-- The blocks it gets, each with its poisoned words; or the fault it meets: pair, kind, level. -/
  | data (id : Nat) (blocks : List (List Byte × List Nat))
  | fault (id pair : Nat) (kind : BitVec 8) (level : Nat)
  /-- Its outgoing copies come home; or it was abandoned. -/
  | home (id : Nat) (blocks : List (List Byte × List Nat))
  | drop (id : Nat)
  /-- A barrier arrival of another package. -/
  | arrive (p bar c : Nat) (fn : Option (BitVec 3)) (v : Word)
  /-- The completion of a pod barrier generation. -/
  | barDone (p bar : Nat)
  /-- An acknowledgement of every frame below `seq`. -/
  | ack (seq : Nat)
  deriving DecidableEq, Repr

/-- A frame of the pod transport from package `pkg` with its sequence number (R404). -/
structure PodFrame where
  pkg : Nat
  seq : Nat
  body : PodBody
  deriving DecidableEq, Repr

/-- The instructions and events: one constructor per row of the opcode table. Sequencer words carry a
`Head`, engine words their GAP field `g`; events name the core `c`, die `d`, partition `p`, ring `j`,
channel `ch`, or the index that picks the instance. -/
inductive Instr where
  /-- Writes the 64-bit wrapping sum of two scalar registers. (R177) -/
  | add (h : Head) (f : SR)
  /-- Writes the 64-bit wrapping difference of two scalar registers. (R177) -/
  | sub (h : Head) (f : SR)
  /-- Writes the bitwise AND of two scalar registers. (R177) -/
  | andS (h : Head) (f : SR)
  /-- Writes the bitwise OR of two scalar registers. (R177) -/
  | orS (h : Head) (f : SR)
  /-- Writes the bitwise XOR of two scalar registers. (R177) -/
  | xorS (h : Head) (f : SR)
  /-- Shifts a scalar left by the low six bits of another, filling with zeros. (R177) -/
  | shl (h : Head) (f : SR)
  /-- Shifts a scalar right logically by the low six bits of another. (R177) -/
  | shr (h : Head) (f : SR)
  /-- Shifts a scalar right arithmetically by the low six bits of another. (R177) -/
  | sar (h : Head) (f : SR)
  /-- Writes the low 64 bits of a scalar product, with bound 3. (R177) -/
  | mul (h : Head) (f : SR)
  /-- Writes the high 64 bits of an unsigned scalar product. (R177) -/
  | mulhu (h : Head) (f : SR)
  /-- Writes the high 64 bits of a signed scalar product. (R177) -/
  | mulh (h : Head) (f : SR)
  /-- Writes the signed smaller of two scalars. (R177) -/
  | minS (h : Head) (f : SR)
  /-- Writes the signed larger of two scalars. (R177) -/
  | maxS (h : Head) (f : SR)
  /-- Writes the unsigned smaller of two scalars. (R177) -/
  | minu (h : Head) (f : SR)
  /-- Writes the unsigned larger of two scalars. (R177) -/
  | maxu (h : Head) (f : SR)
  /-- Adds a 64-bit immediate to a scalar. (R178) -/
  | addi (h : Head) (f : SI)
  /-- Loads a 64-bit immediate into a scalar register. (R178) -/
  | li (h : Head) (f : SI)
  /-- ANDs a scalar with an immediate. (R178) -/
  | andi (h : Head) (f : SI)
  /-- ORs a scalar with an immediate. (R178) -/
  | ori (h : Head) (f : SI)
  /-- XORs a scalar with an immediate. (R178) -/
  | xori (h : Head) (f : SI)
  /-- Shifts a scalar left by an immediate below 64. (R178) -/
  | shli (h : Head) (f : SI)
  /-- Shifts a scalar right logically by an immediate below 64. (R178) -/
  | shri (h : Head) (f : SI)
  /-- Shifts a scalar right arithmetically by an immediate below 64. (R178) -/
  | sari (h : Head) (f : SI)
  /-- Multiplies a scalar by an immediate, keeping the low 64 bits. (R178) -/
  | muli (h : Head) (f : SI)
  /-- Sets a predicate from a condition on two scalar registers. (R180) -/
  | cmp (h : Head) (f : SPr)
  /-- Sets a predicate from a condition on a scalar and an immediate. (R180) -/
  | cmpi (h : Head) (f : SPi)
  /-- Writes the AND of two predicates. (R181) -/
  | pand (h : Head) (f : PL)
  /-- Writes the OR of two predicates. (R181) -/
  | por (h : Head) (f : PL)
  /-- Writes the XOR of two predicates. (R181) -/
  | pxor (h : Head) (f : PL)
  /-- Writes the inverse of a predicate. (R181) -/
  | pnot (h : Head) (f : PL)
  /-- Branches to a word index with no penalty. (R182) -/
  | br (h : Head) (f : SB)
  /-- Pushes the return index and branches, trapping RSOVF at depth 16. (R182) -/
  | call (h : Head) (f : SB)
  /-- Pops the return index and branches to it, trapping RSUNF at depth 0. (R182) -/
  | ret (h : Head)
  /-- Starts a zero-overhead loop with a count from a scalar register. (R184) -/
  | loopReg (h : Head) (f : SLr)
  /-- Starts a zero-overhead loop with an immediate count. (R184) -/
  | loopi (h : Head) (f : SLi)
  /-- Appends a section and four parameters to an engine queue, trapping BADSEC or QFULL, and may take a replay checkpoint. (R187) -/
  | disp (h : Head) (f : SD)
  /-- Idles the sequencer for n cycles without freezing. (R188) -/
  | waitWord (h : Head) (f : SW)
  /-- Ends the current tile, or the share after the last tile. (R189) -/
  | nextTile (h : Head)
  /-- Ends the core's share at once. (R189) -/
  | endShareWord (h : Head)
  /-- Freezes the core until the scope's tick alignment condition for the target holds. (R190) -/
  | palign (h : Head) (f : SQ)
  /-- Reads the die's TICK into a scalar. (R191) -/
  | rdtick (h : Head) (f : SQ)
  /-- Reads the core's SCYC into a scalar. (R191) -/
  | rdscyc (h : Head) (f : SQ)
  /-- Reads the launch base tick into a scalar. (R191) -/
  | rdlbt (h : Head) (f : SQ)
  /-- Loads 1 to 8 bytes from the near or die store into a scalar. (R193) -/
  | ld (h : Head) (f : SM)
  /-- Stores 1 to 8 bytes of a scalar to the near or die store. (R193) -/
  | st (h : Head) (f : SM)
  /-- Loads a 64-byte shape image from the near store into a shape register. (R195) -/
  | shld (h : Head) (f : SM)
  /-- Writes one shape-register field from a scalar. (R196) -/
  | shset (h : Head) (f : SS)
  /-- Reads one shape-register field into a scalar. (R196) -/
  | shget (h : Head) (f : SS)
  /-- Sets a barrier slot's count and scope and clears its marks. (R198) -/
  | barInit (h : Head) (f : SN)
  /-- Arrives at a named barrier as a release, setting the arrival mark. (R198) -/
  | barArr (h : Head) (f : SN)
  /-- Freezes until the barrier's done mark is set, then exits as an acquire. (R198) -/
  | barWait (h : Head) (f : SN)
  /-- Arrives at a barrier and waits for its generation in one word. (R198) -/
  | barSync (h : Head) (f : SN)
  /-- Arrives with a reduction value, waits, and receives the combined result. (R198) -/
  | barRed (h : Head) (f : SN)
  /-- Raises the recoverable trap TRAP with an operand. (R203) -/
  | trapWord (h : Head) (f : SW)
  /-- Raises the breakpoint trap BRK. (R203) -/
  | brk (h : Head)
  /-- Reads a system register into a supervisor scalar. (R322) -/
  | rdsys (h : Head) (f : SX)
  /-- Writes a system register from a supervisor scalar. (R322) -/
  | wrsys (h : Head) (f : SX)
  /-- Returns from the supervisor to PS at TPC. (R323) -/
  | sret (h : Head)
  /-- Ends the core's share with status FAULT. (R323) -/
  | sretFault (h : Head)
  /-- Returns from a LATE entry to the frozen point with requests still outstanding. (R324) -/
  | lres (h : Head)
  /-- Abandons every late request and returns from a LATE entry. (R324) -/
  | labn (h : Head)
  /-- Releases every held thread queue entry to run in user state. (R325) -/
  | drain (h : Head)
  /-- Swaps current and shadow configuration planes, applying initial state for a fresh launch. (R326) -/
  | pswap (h : Head)
  /-- Invalidates the die's TLB entries for one page under the current ASID. (R327) -/
  | tlbiVa (h : Head) (f : SX)
  /-- Invalidates the die's TLB entries of one ASID. (R327) -/
  | tlbiAsid (h : Head) (f : SX)
  /-- Invalidates every TLB entry of the die. (R327) -/
  | tlbiAll (h : Head)
  /-- Reads one word of an error bank record, setting SEEN on word 0. (R328) -/
  | errrd (h : Head) (f : SX)
  /-- Clears an error bank of the issuing partition. (R328) -/
  | errclr (h : Head) (f : SX)
  /-- Swaps a recovery-buffer entry into a near slot, discarding the slot's block. (R329) -/
  | parkrd (h : Head) (f : SX)
  /-- Deletes a barrier object, releasing its waiters with BARSEQ. (R330) -/
  | barKill (h : Head) (f : SX)
  /-- Orders the stream's earlier accesses of masked classes within the scope before its later ones. (R141) -/
  | fence (e : Stream) (h : Head) (f : FF)
  /-- Does nothing and spends its GAP. (R202) -/
  | nop (e : Stream) (h : Head)
  /-- Adds two tiles element by element. (R212) -/
  | vadd (g : BitVec 5) (f : VA)
  /-- Subtracts two tiles element by element. (R212) -/
  | vsub (g : BitVec 5) (f : VA)
  /-- Multiplies two tiles element by element. (R212) -/
  | vmul (g : BitVec 5) (f : VA)
  /-- Computes a·b + c per element with one rounding. (R212) -/
  | vfma (g : BitVec 5) (f : VA)
  /-- Computes a·b − c per element with one rounding. (R212) -/
  | vfms (g : BitVec 5) (f : VA)
  /-- Computes −(a·b) + c per element with one rounding. (R212) -/
  | vfnma (g : BitVec 5) (f : VA)
  /-- Divides two float tiles element by element. (R212) -/
  | vdiv (g : BitVec 5) (f : VA)
  /-- Takes the square root of each float element. (R212) -/
  | vsqrt (g : BitVec 5) (f : VA)
  /-- Writes the smaller element of two tiles. (R212) -/
  | vmin (g : BitVec 5) (f : VA)
  /-- Writes the larger element of two tiles. (R212) -/
  | vmax (g : BitVec 5) (f : VA)
  /-- Writes the absolute value of each element. (R212) -/
  | vabs (g : BitVec 5) (f : VA)
  /-- Negates each element. (R212) -/
  | vneg (g : BitVec 5) (f : VA)
  /-- Adds integer tiles with signed saturation. (R212) -/
  | vadds (g : BitVec 5) (f : VA)
  /-- Subtracts integer tiles with signed saturation. (R212) -/
  | vsubs (g : BitVec 5) (f : VA)
  /-- Writes the high half of each signed integer product. (R212) -/
  | vmulh (g : BitVec 5) (f : VA)
  /-- Bitwise AND of two tiles. (R214) -/
  | vand (g : BitVec 5) (f : VA)
  /-- Bitwise OR of two tiles. (R214) -/
  | vor (g : BitVec 5) (f : VA)
  /-- Bitwise XOR of two tiles. (R214) -/
  | vxor (g : BitVec 5) (f : VA)
  /-- Bitwise NOT of a tile. (R214) -/
  | vnot (g : BitVec 5) (f : VA)
  /-- Shifts each element left. (R214) -/
  | vshl (g : BitVec 5) (f : VA)
  /-- Shifts each element right logically. (R214) -/
  | vshr (g : BitVec 5) (f : VA)
  /-- Shifts each element right arithmetically. (R214) -/
  | vsar (g : BitVec 5) (f : VA)
  /-- Rotates each element left. (R214) -/
  | vrot (g : BitVec 5) (f : VA)
  /-- Writes half of the carry-less product of each element pair. (R214) -/
  | vclmul (g : BitVec 5) (f : VA)
  /-- Counts set bits of each element. (R214) -/
  | vpopc (g : BitVec 5) (f : VA)
  /-- Counts leading zeros of each element. (R214) -/
  | vclz (g : BitVec 5) (f : VA)
  /-- Selects elements from two tiles by a mask. (R214) -/
  | vsel (g : BitVec 5) (f : VA)
  /-- Writes the indices of set bits of a register as elements. (R214) -/
  | vbidx (g : BitVec 5) (f : VA)
  /-- Writes a bit per byte element equal to an immediate. (R214) -/
  | vbcmp (g : BitVec 5) (f : VA)
  /-- Copies a tile's elements. (R214) -/
  | vmov (g : BitVec 5) (f : VA)
  /-- Fills every element with an immediate. (R214) -/
  | vsplat (g : BitVec 5) (f : VA)
  /-- Compares two tiles element by element into a mask. (R216) -/
  | vcmp (g : BitVec 5) (f : VA)
  /-- ANDs two masks. (R217) -/
  | mand (g : BitVec 5) (f : VA)
  /-- ORs two masks. (R217) -/
  | mor (g : BitVec 5) (f : VA)
  /-- XORs two masks. (R217) -/
  | mxor (g : BitVec 5) (f : VA)
  /-- Inverts a mask. (R217) -/
  | mnot (g : BitVec 5) (f : VA)
  /-- Copies the low 256 bits of a vector source into a mask. (R217) -/
  | mfromv (g : BitVec 5) (f : VA)
  /-- Copies a mask into the low 256 bits of a vector register. (R217) -/
  | mtov (g : BitVec 5) (f : VA)
  /-- Converts each element between element types. (R218) -/
  | vcvt (g : BitVec 5) (f : VA)
  /-- Quantises a tile into MX element codes and scales in a register pair. (R219) -/
  | vmxq (g : BitVec 5) (f : VA)
  /-- Dequantises MX element codes and scales into a float tile. (R220) -/
  | vmxd (g : BitVec 5) (f : VA)
  /-- Reduces a tile by addition along an axis. (R221) -/
  | vredadd (g : BitVec 5) (f : VA)
  /-- Reduces a tile by minimum along an axis. (R221) -/
  | vredmin (g : BitVec 5) (f : VA)
  /-- Reduces a tile by maximum along an axis. (R221) -/
  | vredmax (g : BitVec 5) (f : VA)
  /-- Reduces a tile by AND along an axis. (R221) -/
  | vredand (g : BitVec 5) (f : VA)
  /-- Reduces a tile by OR along an axis. (R221) -/
  | vredor (g : BitVec 5) (f : VA)
  /-- Reduces a tile by XOR along an axis. (R221) -/
  | vredxor (g : BitVec 5) (f : VA)
  /-- Scans a tile by addition along an axis. (R222) -/
  | vscanadd (g : BitVec 5) (f : VA)
  /-- Scans a tile by minimum along an axis. (R222) -/
  | vscanmin (g : BitVec 5) (f : VA)
  /-- Scans a tile by maximum along an axis. (R222) -/
  | vscanmax (g : BitVec 5) (f : VA)
  /-- Scans an integer tile by XOR along an axis. (R222) -/
  | vscanxor (g : BitVec 5) (f : VA)
  /-- Transposes a tile. (R223) -/
  | vtrn (g : BitVec 5) (f : VA)
  /-- Permutes elements by 16-bit indices. (R223) -/
  | vperm (g : BitVec 5) (f : VA)
  /-- Interleaves, deinterleaves or reverses elements. (R223) -/
  | vshuf (g : BitVec 5) (f : VA)
  /-- Slides elements across two source tiles. (R223) -/
  | vslide (g : BitVec 5) (f : VA)
  /-- Packs the mask-selected elements from element 0. (R223) -/
  | vcompress (g : BitVec 5) (f : VA)
  /-- Spreads packed elements to mask-selected positions. (R223) -/
  | vexpand (g : BitVec 5) (f : VA)
  /-- Loads a shaped tile from the near or die store. (R224) -/
  | vld (g : BitVec 5) (f : VM)
  /-- Stores a shaped tile to the near or die store. (R224) -/
  | vst (g : BitVec 5) (f : VM)
  /-- Loads a mask from 32 near bytes. (R226) -/
  | mld (g : BitVec 5) (f : VM)
  /-- Stores a mask to 32 near bytes. (R226) -/
  | mst (g : BitVec 5) (f : VM)
  /-- Clears selected VFLG bits. (R227) -/
  | vfclr (g : BitVec 5) (f : VA)
  /-- Writes VFLG into a vector register. (R227) -/
  | vfrd (g : BitVec 5) (f : VA)
  /-- Converts float elements to L32. (R228) -/
  | vtol (g : BitVec 5) (f : VA)
  /-- Antilogs L32 elements to a float type. (R228) -/
  | vfroml (g : BitVec 5) (f : VA)
  /-- Multiplies L32 elements by adding logs. (R229) -/
  | lmul (g : BitVec 5) (f : VA)
  /-- Divides L32 elements by subtracting logs. (R229) -/
  | ldiv (g : BitVec 5) (f : VA)
  /-- Takes the n-th root of L32 elements. (R229) -/
  | lroot (g : BitVec 5) (f : VA)
  /-- Raises L32 elements to a fixed-point power. (R229) -/
  | lpow (g : BitVec 5) (f : VA)
  /-- Computes the reciprocal square root through the log path. (R230) -/
  | frsqrt (g : BitVec 5) (f : VA)
  /-- Computes the reciprocal through the log path. (R230) -/
  | frcp (g : BitVec 5) (f : VA)
  /-- Computes the square root through the log path. (R230) -/
  | fsqrt (g : BitVec 5) (f : VA)
  /-- Computes 2 to the power x through the log path. (R230) -/
  | fexp2 (g : BitVec 5) (f : VA)
  /-- Computes the base-2 logarithm through the log path. (R230) -/
  | flog2 (g : BitVec 5) (f : VA)
  /-- Computes the sigmoid by a fixed step sequence. (R230) -/
  | fsigm (g : BitVec 5) (f : VA)
  /-- Computes tanh by a fixed step sequence. (R230) -/
  | ftanh (g : BitVec 5) (f : VA)
  /-- Computes SiLU by a fixed step sequence. (R230) -/
  | fsilu (g : BitVec 5) (f : VA)
  /-- Fills a tile from Philox4x32-10 on seed, tile and counter. (R232) -/
  | vrng (g : BitVec 5) (f : VA)
  /-- Advances the vector rotation base. (R233) -/
  | vrotw (g : BitVec 5) (f : VA)
  /-- Converts a 128-element tile to a canonical quill pair. (R242) -/
  | qfrom (g : BitVec 5) (f : VA)
  /-- Writes a quill's value as a float tile. (R243) -/
  | qto (g : BitVec 5) (f : VA)
  /-- Writes the dot product of two quill directions. (R244) -/
  | qcos (g : BitVec 5) (f : VA)
  /-- Writes the dot product of two quill values through the log path. (R245) -/
  | qdot (g : BitVec 5) (f : VA)
  /-- Adds a delta to a quill's log norm. (R246) -/
  | qscl (g : BitVec 5) (f : VA)
  /-- Adds two quill values and renormalises. (R247) -/
  | qadd (g : BitVec 5) (f : VA)
  /-- Subtracts two quill values and renormalises. (R247) -/
  | qsub (g : BitVec 5) (f : VA)
  /-- Interpolates two quill values and renormalises. (R247) -/
  | qlerp (g : BitVec 5) (f : VA)
  /-- Negates a quill's directions. (R246) -/
  | qneg (g : BitVec 5) (f : VA)
  /-- Writes the RMS-normalised direction times per-element gains. (R248) -/
  | qrms (g : BitVec 5) (f : VA)
  /-- Quantises a quill's value into an MXINT8 row and scales. (R249) -/
  | qq8 (g : BitVec 5) (f : VA)
  /-- Writes a quill's norm as an INT32 element. (R250) -/
  | qnget (g : BitVec 5) (f : VA)
  /-- Sets a quill's norm from a vector element, checking well-formedness. (R250) -/
  | qnset (g : BitVec 5) (f : VA)
  /-- Sets one mask bit by a quill's class. (R251) -/
  | qcls (g : BitVec 5) (f : VA)
  /-- Copies a quill pair. (R246) -/
  | qmov (g : BitVec 5) (f : VA)
  /-- Loads a 264-byte quill image and checks it. (R252) -/
  | qld (g : BitVec 5) (f : VM)
  /-- Stores a quill pair as a 264-byte image. (R252) -/
  | qst (g : BitVec 5) (f : VM)
  /-- Loads a weight latch from near-store planes and optional scales. (R259) -/
  | mwld (g : BitVec 5) (f : MC)
  /-- Streams activation rows through a latch into an XA64 tile. (R261) -/
  | macc (g : BitVec 5) (f : MC)
  /-- Clears an accumulator tile and its flags. (R263) -/
  | mclr (g : BitVec 5) (f : MC)
  /-- Converts tile rows through the epilogue and stores them to the near store. (R264) -/
  | mepi (g : BitVec 5) (f : MC)
  /-- Stores a tile's flag word to the near store. (R268) -/
  | mflg (g : BitVec 5) (f : MC)
  /-- Clears a tile's flag word. (R268) -/
  | mfclr (g : BitVec 5) (f : MC)
  /-- Exchanges near slots with die blocks. (R275) -/
  | xchNd (g : BitVec 5) (f : XE)
  /-- Exchanges near slots with main blocks. (R275) -/
  | xchNm (g : BitVec 5) (f : XE)
  /-- Exchanges die blocks with main blocks. (R275) -/
  | xchDm (g : BitVec 5) (f : XE)
  /-- Exchanges near slots with remote package blocks. (R275) -/
  | xchNp (g : BitVec 5) (f : XE)
  /-- Exchanges accumulator blocks with main blocks, supervisor only. (R331) -/
  | xchAm (g : BitVec 5) (f : XE)
  /-- Sends a payload to a receiver's landing buffer. (R277) -/
  | xsend (g : BitVec 5) (f : XT)
  /-- Claims a payload into near bytes at its arrival cycle. (R277) -/
  | xland (g : BitVec 5) (f : XT)
  /-- Sends a payload to a receiver's inflow queue. (R277) -/
  | xpush (g : BitVec 5) (f : XT)
  /-- Performs a returning integer atomic and lands the old value. (R283) -/
  | xatom (g : BitVec 5) (f : XA)
  /-- Performs a non-returning, mergeable integer reduction. (R283) -/
  | xred (g : BitVec 5) (f : XA)
  /-- Initialises a binned cell with an anchor. (R284) -/
  | xbinit (g : BitVec 5) (f : XA)
  /-- Adds a binary32 value to a binned cell. (R284) -/
  | xbadd (g : BitVec 5) (f : XA)
  /-- Lands the binary32 read-out of a binned cell. (R284) -/
  | xbread (g : BitVec 5) (f : XA)
  /-- An engine starts the section at its queue head, checking header and AFTER fields. (R60) -/
  | sectionStart (c : Nat) (e : Stream)
  /-- A section retires once its last word issued and all its results, commits and accesses are done. (R63) -/
  | sectionRetire (c : Nat) (e : Stream)
  /-- A result lands in its destination within its latency bound, raising its flags. (R22) -/
  | resultLanding (c i : Nat)
  /-- A held or remote access performs at its home once every access ordered before it has performed. (R142) -/
  | accessPerform (c id unit : Nat)
  /-- The bank-conflict freeze count expires and the core resumes. (R18) -/
  | bankConflictEnd (c : Nat)
  /-- Far-side data, a payload or an atomic value reaches the landing buffer or waits at its source. (R25) -/
  | farDataArrival (c id : Nat)
  /-- At a landing's arrival cycle the data is written, or the core freezes if it is absent. (R68) -/
  | landingDue (c id : Nat)
  /-- All pairs of an exchange swap in one event at the arrival cycle or on resume. (R121) -/
  | exchangeCommit (c id : Nat)
  /-- An exchange's outgoing copies reach their homes, unlocking them and freeing buffer space. (R121) -/
  | writeBackDone (c id : Nat)
  /-- An OML, Fadric or network path fails, abandoning or parking the traffic on it. (R126) -/
  | pathFailure (c id : Nat)
  /-- An atomic performs at its die bank queue or OML port in one event. (R152) -/
  | atomicPerform (c id : Nat)
  /-- A closed entry of merged reductions applies all its members in one event. (R152) -/
  | mergedEntryApply (i : Nat)
  /-- An xsend payload performs at the receiver's landing buffer. (R277) -/
  | payloadDelivery (c id : Nat)
  /-- An xpush payload enters the receiver's inflow queue when an entry is free. (R279) -/
  | inflowPush (c id : Nat)
  /-- The core's credit bucket gains one block credit per MRATE cycles. (R133) -/
  | creditRefill (c : Nat)
  /-- A die sends its TICK as a beacon on every link when TICK is a multiple of 32. (R72) -/
  | beaconSend (d : Nat)
  /-- A die keeps the latest beacon value from another die. (R72) -/
  | beaconReceive (d i : Nat)
  /-- A link delivering no beacon for 512 ticks is failed for the boot. (R396) -/
  | beaconTimeout (d d2 : Nat)
  /-- A die with a core in PALIGN(.pkg) sends a release once TICKMIN reaches the target and sets its exit tick. (R74) -/
  | releaseSend (c : Nat)
  /-- A die receiving a release resumes its cores frozen at that or a lower target. (R74) -/
  | releaseReceive (d i : Nat)
  /-- A die reaching its exit tick resumes its cores frozen in PALIGN. (R74) -/
  | palignExitTick (d p : Nat)
  /-- A core in PALIGN(.quad or .die) resumes when TICK reaches the target. (R74) -/
  | palignLocalResume (c : Nat)
  /-- A barrier object receives an arrival and counts it towards the generation. (R197) -/
  | barrierArrival (c id : Nat)
  /-- A completion reaching a core sets the done mark and ends its barrier wait. (R198) -/
  | barrierDone (c b : Nat)
  /-- A run of counted freeze ticks reaches FRZLIM and the core raises LATE. (R70) -/
  | frzlimExpiry (c : Nat)
  /-- At a boundary with a recorded trap the core drains and enters the supervisor at SBASE. (R311) -/
  | trapEntry (c : Nat)
  /-- The core enters the supervisor with CAUSE LATE, leaving late requests outstanding. (R312) -/
  | lateEntry (c : Nat)
  /-- POISON or PIPE in a replayable window restores the checkpoint and re-issues. (R316) -/
  | replay (c : Nat)
  /-- A set PREQ.REQ is taken at the next drain point as PREEMPT. (R318) -/
  | preemptEntry (c : Nat)
  /-- PRELIM ticks after REQ with no drain point force PREEMPT at the next boundary. (R318) -/
  | prelimExpiry (c : Nat)
  /-- A core's share ends after its sections run out and exchanges commit, then its parameter block swaps out. (R58) -/
  | shareEnd (c : Nat)
  /-- A FAULT in one core's share stops every other core of the launch. (R58) -/
  | launchStop (c : Nat)
  /-- The walker writes preloads and starts the control stream for the core's next tile. (R55) -/
  | tileEntry (c : Nat)
  /-- A logical core swaps its parameter block into near slot 255 before its first tile. (R53) -/
  | parameterSwapIn (c : Nat)
  /-- A core swaps its parameter block home after its share ends. (R53) -/
  | parameterSwapOut (c : Nat)
  /-- A launch writes its completion word and token byte once every share ended. (R50) -/
  | launchCompletion (p : Nat)
  /-- The scheduler snapshots the LNR at a ring's head, marks its token and latches the seed. (R338) -/
  | submit (p j : Nat)
  /-- A launch whose prerequisite bytes are no longer pending becomes ready or completes DEPFAIL. (R341) -/
  | launchReady (p i : Nat)
  /-- After AGE ticks ready and not running a launch's effective priority rises by one. (R342) -/
  | agingStep (p i : Nat)
  /-- The scheduler checks, installs a profile for, stages and starts the chosen ready launch. (R348) -/
  | acceptance (p : Nat)
  /-- Loaders broadcast header, plane and state block into member cores' shadow planes. (R345) -/
  | staging (p i : Nat)
  /-- A start token reaches a member core, which begins its parameter swap. (R348) -/
  | startToken (c : Nat)
  /-- A core whose share ended flips its shadow plane current and takes the initial state. (R346) -/
  | hardwareFlip (c : Nat)
  /-- An outranking launch is staged, the switch record written and PREQ.REQ set on member cores. (R343) -/
  | outrankPreempt (p i : Nat)
  /-- The die walker reads four table levels to produce a leaf or a fault. (R357) -/
  | translationWalk (c id i : Nat)
  /-- An unacknowledged pod frame is retransmitted after PLAT/2 cycles. (R404) -/
  | podRetransmit (pkg : Nat)
  /-- A core idle for WDOG ticks raises KIND 0x0F and restarts the count. (R385) -/
  | watchdogExpiry (c : Nat)
  /-- A ring writes a clock mark once every 2^20 ticks without another. (R390) -/
  | clockMark (p d : Nat)
  /-- A trigger stops the core and forms a consistent cut. (R380) -/
  | debugStop (c code : Nat)
  /-- After n stepped cycles the core stops with trigger code 0. (R382) -/
  | stepEnd (c : Nat)
  /-- A channel's lane group triggers in-band retraining and the channel enters HALF. (R399) -/
  | retrainEntry (ch grp : Nat)
  /-- After 10 s waiting under drain-only, acceptance stops for the channel's partitions. (R400) -/
  | retrainWaitExpiry (ch : Nat)
  /-- Nib takes a command block whose STATUS is 0x00 and writes STATUS 0x01. (R409) -/
  | mailboxTake (r : Route)
  /-- A host write through BAR2 is translated and performed per 8 bytes. (R403) -/
  | hostWrite (o : Nat) (data : List Byte) (ep : Bool)
  /-- A host read through BAR2 is translated and returned, with EP for poisoned data. (R403) -/
  | hostRead (o len : Nat)
  /-- A write to a register with no behaviour of its own updates its rw fields. (R8) -/
  | registerWrite (r : HostReg) (v : Word)
  /-- An error event is recorded in its bank, replacing or counting against the held record. (R374) -/
  | errorEvent (d : Nat) (ev : ErrEv)
  /-- A retrained group rejoins and the channel returns to FULL, or stays HALF on failure. (R399) -/
  | retrainExit (ch : Nat) (ok : Bool)
  /-- Writing CTX zeroes registers, empties latches and moves old payloads to the receiver hold. (R320) -/
  | ctxWrite (c : Nat) (v : BitVec 32)
  /-- A write of FRZLIM is clamped to 256 to 2^24. (R70) -/
  | frzlimWrite (c : Nat) (v : Word)
  /-- The host advances a ring's tail to submit entries. (R337) -/
  | rtailWrite (p j : Nat) (v : Word)
  /-- A ring base write is refused with RERR while any ring is not empty. (R336) -/
  | rbaseWrite (p j : Nat) (v : Word)
  /-- A ring size write is refused with RERR when out of range or while a ring is not empty. (R336) -/
  | szWrite (p : Nat) (v : Word)
  /-- Writing 1 to RERR clears it and lets every stopped ring resume. (R336) -/
  | rerrClear (p : Nat)
  /-- A host read of a bank's word 0 sets SEEN. (R375) -/
  | errorBankRead (d b : Nat)
  /-- Writing 1 to VALID through the host window clears the whole record. (R373) -/
  | errorRecordClear (d b : Nat)
  /-- A link frame failing CRC is retried, up to 8 times. (R369) -/
  | frameRetry (l : LinkRef) (ok : Bool)
  /-- A pod transport frame is received and acknowledged in order. (R404) -/
  | podFrameReceive (fr : PodFrame)
  /-- Writing 1 to FROZEN resumes blotter recording. (R384) -/
  | blotterUnfreeze (c : Nat)
  /-- The debugger resumes a stopped core. (R382) -/
  | debugRun (c : Nat)
  /-- The debugger runs a stopped core for n cycles. (R382) -/
  | debugStep (c n : Nat)
  /-- A debugger write to a register or near byte of a settled stopped core. (R379) -/
  | debugWrite (c : Nat) (t : DbgTarget) (v : BitVec 4096)
  /-- The nominal frequency changes on every die at one reference count. (R394) -/
  | frequencyChange (mhz : Nat)
  /-- A timing monitor warning stretches the next cycles and trims the die clock. (R393) -/
  | clockStretch (d : Nat)
  /-- A hotspot at or above 100 °C lowers the nominal by 25 MHz. (R395) -/
  | thermalLower
  /-- A hotspot below 92 °C for 1 s raises the nominal by 25 MHz. (R395) -/
  | thermalRaise
  /-- A hotspot at or above 115 °C stops every clock and holds the part in reset. (R395) -/
  | thermalStop
  /-- Supply good starts Nib's ROM, which increments the failed-start count. (R405) -/
  | powerOn (im : BootImages)
  /-- A cold die finishes self-heating at −10 °C. (R405) -/
  | dieWarm (d : Nat)
  /-- A module reaches 0 °C and its channel moves on to TRAIN. (R398) -/
  | moduleWarm (ch : Nat)
  /-- Boot self-test fixes exclusions and trains links. (R352) -/
  | selfTest (fd : Findings)
  /-- Folio reports ready, MODE becomes 1 and the failed-start count clears. (R405) -/
  | startReady
  /-- A start missing a stage limit fails, recording REASON. (R408) -/
  | startFail (why : BitVec 8)
  /-- Nib replies with the device id, lifecycle, grade, versions and start status. (R410) -/
  | nibInfo
  /-- Nib replies with a fresh nonce for the carrying route. (R410) -/
  | nibNonce
  /-- Nib advances its counter and replies with a signed quote of the measurements. (R412) -/
  | nibQuote
  /-- Nib checks a debug token and, if good, runs moult. (R413) -/
  | nibUnlock
  /-- Nib extends mh5 or mh6 with a host digest. (R411) -/
  | nibExtend
  /-- Nib installs or redraws a partition descriptor and extends mh4. (R410) -/
  | nibPartset
  /-- Nib makes a fresh key pair in a slot and binds it to a partition. (R410) -/
  | nibKeygen
  /-- Nib empties a key slot. (R410) -/
  | nibKeyclr
  /-- In chrysalis mode Nib verifies an image and writes it to the boot flash. (R410) -/
  | nibRecover
  /-- Nib clears the failed-start count. (R410) -/
  | nibClrfail
  /-- The supply is lost; the part stops and, if before stage 7, the failed start stays counted with reason 0x09. (R408) -/
  | powerLoss
  /-- A reset of the part restarts the start-up stages, leaving chrysalis mode after RECOVER and CLRFAIL. (R408) -/
  | partReset
  /-- A function-level reset of the host port's physical function, across which error banks, blotters, recovery buffer and module memory keep their contents. (R377) -/
  | functionLevelReset
  /-- The PCIe host port's link goes down and recovers, with error banks and other named state kept. (R377) -/
  | hostLinkRecovery
  /-- In stage 6, once every die reads at least 0 °C, the nominal is raised from 1,000 to 1,500 MHz and mh3 is extended. (R405) -/
  | dieReadsZeroCelsius
  deriving DecidableEq, Repr

end Sys2Proof
end

