-- ==== Sys2Proof/WellFormed.lean ====
section
/-! DEFINITION. Which words are legal: every condition of R157-R161, R170, R171 and of the entries that
a word must meet at decode. A word that fails one raises ILLOP. Conditions that need the machine's state
(an END at or before the loop word's own index, R186; `vslide` with n above E, R223) are checked where the
word issues. -/

namespace Sys2Proof

/-! ### Operand codes (R158) -/

/-- A code accepted in a vector source field: v0-v63, `vin`, k0-k3. -/
def srcOk (c : BitVec 7) : Bool := c.toNat < 0x40 || c.toNat == 0x40 || (0x48 ≤ c.toNat && c.toNat ≤ 0x4B)

/-- A code accepted in a vector destination. -/
def regOk (c : BitVec 7) : Bool := c.toNat < 0x40

/-- An even destination register, whose pair is v[D], v[D + 1] (R219, R249). -/
def evenOk (c : BitVec 7) : Bool := c.toNat < 0x3F && c.toNat % 2 == 0

/-- A mask code in a vector field. -/
def maskOk (c : BitVec 7) : Bool := c.toNat < 8

/-- A quill or norm code in a vector field. -/
def quillOk (c : BitVec 7) : Bool := c.toNat < 16

/-- How a vector field of a VA word is used (R211, R241). -/
inductive Use where
  /-- Must be zero. -/
  | none
  /-- Vector destination. -/
  | dst
  /-- Even vector destination. -/
  | even
  /-- Vector source. -/
  | src
  /-- Mask. -/
  | mask
  /-- Quill or norm. -/
  | quill
  deriving DecidableEq, Repr

/-- The codes a use accepts. -/
def Use.ok : Use → BitVec 7 → Bool
  | .none, c => c == 0
  | .dst, c => regOk c
  | .even, c => evenOk c
  | .src, c => srcOk c
  | .mask, c => maskOk c
  | .quill, c => quillOk c

/-- How ME and MK are used (R208, R211). -/
inductive MaskUse where
  /-- ME and MK zero. -/
  | no
  /-- Write or exclusion mask: MK zero when ME = 0. -/
  | opt
  /-- ME = 1 required. -/
  | must
  deriving DecidableEq, Repr

/-- The ME, MK pairs a mask use accepts. -/
def MaskUse.ok : MaskUse → Bool → BitVec 3 → Bool
  | .no, me, k => !me && k == 0
  | .opt, me, k => me || k == 0
  | .must, me, _ => me

/-! ### Types (R160) -/

/-- Float types `.f32`, `.f16`, `.bf16`. -/
def floatTy (t : BitVec 4) : Bool := t == 3 || t == 4 || t == 5

/-- Integer types `.i8`, `.i16`, `.i32`. -/
def intTy (t : BitVec 4) : Bool := t == 0 || t == 1 || t == 2

/-- Integer types and `.b32`. -/
def rawTy (t : BitVec 4) : Bool := intTy t || t == 0xA

/-- The types of R218: every element type but `.b32`. -/
def cvtTy (t : BitVec 4) : Bool := t.toNat ≤ 9

/-- Narrow element types of R87. -/
def narrowTy (t : BitVec 4) : Bool := t == 6 || t == 7 || t == 8

/-- Element types of width at least 8. -/
def wideTy (t : BitVec 4) : Bool := t.toNat ≤ 7 || t == 0xA

/-- Element types of R206, which a tile of elements may have. -/
def elemTy (t : BitVec 4) : Bool := t.toNat ≤ 0xA

/-- Element width in bits of a type code (R206). -/
def widthOf (t : BitVec 4) : Nat :=
  match t.toNat with
  | 0 | 6 | 7 => 8
  | 1 | 4 | 5 => 16
  | 8 | 9 => 4
  | _ => 32

/-! ### Bank rule (R159) -/

/-- The three source codes name three distinct registers of one bank. -/
def threeOfOneBank (a b c : BitVec 7) : Bool :=
  regOk a && regOk b && regOk c && a != b && b != c && a != c &&
    a.toNat % 4 == b.toNat % 4 && b.toNat % 4 == c.toNat % 4

/-! ### VA words (R163, R211, R241) -/

/-- The fields a VA word uses. -/
structure VAUse where
  /-- RM may be nonzero. -/
  rm : Bool := false
  /-- The type is accepted. -/
  ty : Bool := true
  dst : Use := .dst
  sa : Use := .src
  sb : Use := .none
  sc : Use := .none
  /-- SH names a shape register. -/
  sh : Bool := true
  me : MaskUse := .opt
  /-- AX may be 0 to 2. -/
  ax : Bool := false
  /-- The immediate is accepted. -/
  imm : Bool

/-- Whether a VA word uses its fields as its entry says (R157, R211, R241). -/
def VA.ok (f : VA) (u : VAUse) : Bool :=
  (u.rm || f.rm == 0) && u.ty && u.dst.ok f.dst && u.sa.ok f.sa && u.sb.ok f.sb && u.sc.ok f.sc &&
    (u.sh || f.sh == 0) && u.me.ok f.me f.msk && (if u.ax then f.ax != 3 else f.ax == 0) && u.imm &&
    !(u.sa == .src && u.sb == .src && u.sc == .src && threeOfOneBank f.sa f.sb f.sc)

/-- Arithmetic words that round (R212): RM is free with a float type. -/
def VA.arith (f : VA) (ints floats : Bool) (sb sc : Use) : Bool :=
  f.ok { rm := floatTy f.ty, ty := (floats && floatTy f.ty) || (ints && intTy f.ty), sb := sb, sc := sc,
                          imm := f.imm == 0 }

/-- Arithmetic words that never round: `vmin`, `vmax`, `vabs`, `vneg` (R163, R212). -/
def VA.exact (f : VA) (ints floats : Bool) (sb : Use) : Bool :=
  f.ok { ty := (floats && floatTy f.ty) || (ints && intTy f.ty), sb := sb, imm := f.imm == 0 }

/-- Bitwise words over raw elements (R214, R215). -/
def VA.bitwise (f : VA) (sb : Use) (imm : Bool) : Bool := f.ok { ty := rawTy f.ty, sb := sb, imm := imm }

/-- Mask words (R217). -/
def VA.maskWord (f : VA) (d a b : Use) : Bool :=
  f.ok { ty := f.ty == 0, dst := d, sa := a, sb := b, sh := false, me := .no, imm := f.imm == 0 }

/-- Reductions (R221): `rnd` when the operation rounds. -/
def VA.reduce (f : VA) (floats bits rnd : Bool) : Bool :=
  f.ok { rm := rnd && floatTy f.ty, ty := intTy f.ty || (floats && floatTy f.ty) || (bits && f.ty == 0xA),
                          ax := true, imm := f.imm == 0 }

/-- Scans (R222). -/
def VA.scan (f : VA) (floats bits rnd : Bool) : Bool :=
  f.ok { rm := rnd && floatTy f.ty, ty := intTy f.ty || (floats && floatTy f.ty) || (bits && f.ty == 0xA),
                          ax := true, imm := f.imm.toNat ≤ 1 }

/-- Permutes (R223). -/
def VA.permute (f : VA) (sb : Use) (me : MaskUse) (imm : Bool) : Bool :=
  f.ok { ty := wideTy f.ty, sb := sb, me := me, imm := imm }

/-- Log-path words (R228-R230). -/
def VA.logWord (f : VA) (rm ty : Bool) (sb : Use) (imm : Bool) : Bool :=
  f.ok { rm := rm, ty := ty, sb := sb, imm := imm }

/-- Quill words (R241). -/
def VA.quillWord (f : VA) (rm ty : Bool) (d a b : Use) (sh imm : Bool) : Bool :=
  f.ok { rm := rm, ty := ty, dst := d, sa := a, sb := b, sh := sh, me := .no, imm := imm }

/-! ### Ordering fields (R161) -/

/-- ORDQ is one of the accepted values; SCOPE is zero exactly for a plain access and never above 5. -/
def ordOk (ordq : BitVec 2) (scope : BitVec 3) (acq rel : Bool) : Bool :=
  (ordq == 0 && scope == 0) ||
    (ordq != 0 && 1 ≤ scope.toNat && scope.toNat ≤ 5 &&
      ((ordq == 1 && acq) || (ordq == 2 && rel) || (ordq == 3 && acq && rel)))

/-- ARR is nonzero exactly on a word that lands at its arrival cycle. -/
def arrOk (lands : Bool) (arr : BitVec 16) : Bool := if lands then arr != 0 else arr == 0

/-- VM loads and stores of elements (R224, R225). -/
def VM.tile (f : VM) (load : Bool) : Bool :=
  elemTy f.ty && regOk f.reg && (f.bk || f.ki == 0) && (f.me || f.msk == 0) &&
    ordOk f.ordq f.scope load (!load) && arrOk (load && f.lvl) f.arr

/-- VM mask loads and stores (R226). -/
def VM.maskWord (f : VM) : Bool :=
  f.ty == 0 && maskOk f.reg && (f.bk || f.ki == 0) && f.sh == 0 && !f.me && f.msk == 0 && !f.lvl &&
    f.ordq == 0 && f.scope == 0 && f.arr == 0

/-- VM quill loads and stores (R252). -/
def VM.quillWord (f : VM) (load : Bool) : Bool :=
  f.ty == 0 && quillOk f.reg && (f.bk || f.ki == 0) && f.sh == 0 && !f.me && f.msk == 0 &&
    ordOk f.ordq f.scope load (!load) && arrOk (load && f.lvl) f.arr

/-! ### Sequencer words -/

/-- `ld` and `st` (R161, R162, R194). -/
def SM.scalar (f : SM) (load : Bool) : Bool :=
  ordOk f.ordq f.scope load (!load) && arrOk (load && f.lvl) f.arr

/-- `shld` (R195). -/
def SM.shape (f : SM) : Bool :=
  f.reg.toNat < 16 && f.w == 3 && !f.lvl && f.ordq == 0 && f.scope == 0 && f.arr == 0

/-- A barrier scope: quad, die, package or pod (R198, R199). -/
def barScope (s : BitVec 3) : Bool := 2 ≤ s.toNat && s.toNat ≤ 5

/-- The system register numbers of R305. -/
def sysregOk (n : BitVec 12) : Bool :=
  let k := n.toNat
  k ≤ 0x00C || (0x040 ≤ k && k ≤ 0x066) || (0x068 ≤ k && k ≤ 0x07F) || (0x200 ≤ k && k ≤ 0x47F)

/-- No guard (R175, R321). -/
def Head.plain (h : Head) : Bool := h.guard == none

/-- Shift immediates (R179). -/
def SI.shift (f : SI) : Bool := f.imm.toNat < 64

/-- The MX block forms among the block-format codes (R160). -/
def mxTy (t : BitVec 4) : Bool := t == 6 || t == 7 || t == 0xF

/-- Activation formats of `macc` (R257, R260). -/
def afmtTy (t : BitVec 4) : Bool := t == 0 || t == 1 || t == 5 || mxTy t

/-- Output formats of `mepi` (R257, R266). -/
def ofmtTy (t : BitVec 4) : Bool := t == 3 || t == 4 || t == 5 || t == 0 || mxTy t

/-! ### Exchange words -/

/-- Exchanges with a near side (R165, R276): `lim` is the last block of the near side. -/
def XE.near (f : XE) (lim : Nat) : Bool :=
  !f.nk && f.nki == 0 && f.nsl.toNat + f.cnt.toNat ≤ lim && f.arr != 0

/-- `xch.dm` (R165, R276). -/
def XE.die (f : XE) : Bool := f.nk && f.nsl == 0 && f.arr != 0

/-- Message words (R277, R281). -/
def XT.ok (f : XT) (land : Bool) : Bool :=
  1 ≤ f.len.toNat && f.len.toNat ≤ 512 && (f.bk || f.ki == 0) && arrOk land f.arr

/-- Atomic words that return a value (R282, R286). -/
def XA.returning (f : XA) : Bool := (f.bk || f.ki == 0) && f.arr != 0

/-- Atomic words that return nothing leave BK, KI, OFF and ARR zero (R282). -/
def XA.silent (f : XA) : Bool := !f.bk && f.ki == 0 && f.off == 0 && f.arr == 0

/-- Binned words carry AOP = W = 0 (R169, R282). -/
def XA.binned (f : XA) : Bool := f.aop == 0 && f.w == 0 && f.kc == 0

/-- The stream a constructor's words belong to; none for an event. -/
def Instr.stream? (i : Instr) : Option Stream :=
  match i with
  | .add _ _ => some .seq
  | .sub _ _ => some .seq
  | .andS _ _ => some .seq
  | .orS _ _ => some .seq
  | .xorS _ _ => some .seq
  | .shl _ _ => some .seq
  | .shr _ _ => some .seq
  | .sar _ _ => some .seq
  | .mul _ _ => some .seq
  | .mulhu _ _ => some .seq
  | .mulh _ _ => some .seq
  | .minS _ _ => some .seq
  | .maxS _ _ => some .seq
  | .minu _ _ => some .seq
  | .maxu _ _ => some .seq
  | .addi _ _ => some .seq
  | .li _ _ => some .seq
  | .andi _ _ => some .seq
  | .ori _ _ => some .seq
  | .xori _ _ => some .seq
  | .shli _ _ => some .seq
  | .shri _ _ => some .seq
  | .sari _ _ => some .seq
  | .muli _ _ => some .seq
  | .cmp _ _ => some .seq
  | .cmpi _ _ => some .seq
  | .pand _ _ => some .seq
  | .por _ _ => some .seq
  | .pxor _ _ => some .seq
  | .pnot _ _ => some .seq
  | .br _ _ => some .seq
  | .call _ _ => some .seq
  | .ret _ => some .seq
  | .loopReg _ _ => some .seq
  | .loopi _ _ => some .seq
  | .disp _ _ => some .seq
  | .waitWord _ _ => some .seq
  | .nextTile _ => some .seq
  | .endShareWord _ => some .seq
  | .palign _ _ => some .seq
  | .rdtick _ _ => some .seq
  | .rdscyc _ _ => some .seq
  | .rdlbt _ _ => some .seq
  | .ld _ _ => some .seq
  | .st _ _ => some .seq
  | .shld _ _ => some .seq
  | .shset _ _ => some .seq
  | .shget _ _ => some .seq
  | .barInit _ _ => some .seq
  | .barArr _ _ => some .seq
  | .barWait _ _ => some .seq
  | .barSync _ _ => some .seq
  | .barRed _ _ => some .seq
  | .trapWord _ _ => some .seq
  | .brk _ => some .seq
  | .rdsys _ _ => some .seq
  | .wrsys _ _ => some .seq
  | .sret _ => some .seq
  | .sretFault _ => some .seq
  | .lres _ => some .seq
  | .labn _ => some .seq
  | .drain _ => some .seq
  | .pswap _ => some .seq
  | .tlbiVa _ _ => some .seq
  | .tlbiAsid _ _ => some .seq
  | .tlbiAll _ => some .seq
  | .errrd _ _ => some .seq
  | .errclr _ _ => some .seq
  | .parkrd _ _ => some .seq
  | .barKill _ _ => some .seq
  | .fence e _ _ => some e
  | .nop e _ => some e
  | .vadd _ _ => some .v
  | .vsub _ _ => some .v
  | .vmul _ _ => some .v
  | .vfma _ _ => some .v
  | .vfms _ _ => some .v
  | .vfnma _ _ => some .v
  | .vdiv _ _ => some .v
  | .vsqrt _ _ => some .v
  | .vmin _ _ => some .v
  | .vmax _ _ => some .v
  | .vabs _ _ => some .v
  | .vneg _ _ => some .v
  | .vadds _ _ => some .v
  | .vsubs _ _ => some .v
  | .vmulh _ _ => some .v
  | .vand _ _ => some .v
  | .vor _ _ => some .v
  | .vxor _ _ => some .v
  | .vnot _ _ => some .v
  | .vshl _ _ => some .v
  | .vshr _ _ => some .v
  | .vsar _ _ => some .v
  | .vrot _ _ => some .v
  | .vclmul _ _ => some .v
  | .vpopc _ _ => some .v
  | .vclz _ _ => some .v
  | .vsel _ _ => some .v
  | .vbidx _ _ => some .v
  | .vbcmp _ _ => some .v
  | .vmov _ _ => some .v
  | .vsplat _ _ => some .v
  | .vcmp _ _ => some .v
  | .mand _ _ => some .v
  | .mor _ _ => some .v
  | .mxor _ _ => some .v
  | .mnot _ _ => some .v
  | .mfromv _ _ => some .v
  | .mtov _ _ => some .v
  | .vcvt _ _ => some .v
  | .vmxq _ _ => some .v
  | .vmxd _ _ => some .v
  | .vredadd _ _ => some .v
  | .vredmin _ _ => some .v
  | .vredmax _ _ => some .v
  | .vredand _ _ => some .v
  | .vredor _ _ => some .v
  | .vredxor _ _ => some .v
  | .vscanadd _ _ => some .v
  | .vscanmin _ _ => some .v
  | .vscanmax _ _ => some .v
  | .vscanxor _ _ => some .v
  | .vtrn _ _ => some .v
  | .vperm _ _ => some .v
  | .vshuf _ _ => some .v
  | .vslide _ _ => some .v
  | .vcompress _ _ => some .v
  | .vexpand _ _ => some .v
  | .vld _ _ => some .v
  | .vst _ _ => some .v
  | .mld _ _ => some .v
  | .mst _ _ => some .v
  | .vfclr _ _ => some .v
  | .vfrd _ _ => some .v
  | .vtol _ _ => some .v
  | .vfroml _ _ => some .v
  | .lmul _ _ => some .v
  | .ldiv _ _ => some .v
  | .lroot _ _ => some .v
  | .lpow _ _ => some .v
  | .frsqrt _ _ => some .v
  | .frcp _ _ => some .v
  | .fsqrt _ _ => some .v
  | .fexp2 _ _ => some .v
  | .flog2 _ _ => some .v
  | .fsigm _ _ => some .v
  | .ftanh _ _ => some .v
  | .fsilu _ _ => some .v
  | .vrng _ _ => some .v
  | .vrotw _ _ => some .v
  | .qfrom _ _ => some .v
  | .qto _ _ => some .v
  | .qcos _ _ => some .v
  | .qdot _ _ => some .v
  | .qscl _ _ => some .v
  | .qadd _ _ => some .v
  | .qsub _ _ => some .v
  | .qlerp _ _ => some .v
  | .qneg _ _ => some .v
  | .qrms _ _ => some .v
  | .qq8 _ _ => some .v
  | .qnget _ _ => some .v
  | .qnset _ _ => some .v
  | .qcls _ _ => some .v
  | .qmov _ _ => some .v
  | .qld _ _ => some .v
  | .qst _ _ => some .v
  | .mwld _ _ => some .m
  | .macc _ _ => some .m
  | .mclr _ _ => some .m
  | .mepi _ _ => some .m
  | .mflg _ _ => some .m
  | .mfclr _ _ => some .m
  | .xchNd _ _ => some .x
  | .xchNm _ _ => some .x
  | .xchDm _ _ => some .x
  | .xchNp _ _ => some .x
  | .xchAm _ _ => some .x
  | .xsend _ _ => some .x
  | .xland _ _ => some .x
  | .xpush _ _ => some .x
  | .xatom _ _ => some .x
  | .xred _ _ => some .x
  | .xbinit _ _ => some .x
  | .xbadd _ _ => some .x
  | .xbread _ _ => some .x
  | .sectionStart _ _ => none
  | .sectionRetire _ _ => none
  | .resultLanding _ _ => none
  | .accessPerform _ _ _ => none
  | .bankConflictEnd _ => none
  | .farDataArrival _ _ => none
  | .landingDue _ _ => none
  | .exchangeCommit _ _ => none
  | .writeBackDone _ _ => none
  | .pathFailure _ _ => none
  | .atomicPerform _ _ => none
  | .mergedEntryApply _ => none
  | .payloadDelivery _ _ => none
  | .inflowPush _ _ => none
  | .creditRefill _ => none
  | .beaconSend _ => none
  | .beaconReceive _ _ => none
  | .beaconTimeout _ _ => none
  | .releaseSend _ => none
  | .releaseReceive _ _ => none
  | .palignExitTick _ _ => none
  | .palignLocalResume _ => none
  | .barrierArrival _ _ => none
  | .barrierDone _ _ => none
  | .frzlimExpiry _ => none
  | .trapEntry _ => none
  | .lateEntry _ => none
  | .replay _ => none
  | .preemptEntry _ => none
  | .prelimExpiry _ => none
  | .ctxWrite _ _ => none
  | .frzlimWrite _ _ => none
  | .shareEnd _ => none
  | .launchStop _ => none
  | .tileEntry _ => none
  | .parameterSwapIn _ => none
  | .parameterSwapOut _ => none
  | .launchCompletion _ => none
  | .rtailWrite _ _ _ => none
  | .rbaseWrite _ _ _ => none
  | .szWrite _ _ => none
  | .rerrClear _ => none
  | .submit _ _ => none
  | .launchReady _ _ => none
  | .agingStep _ _ => none
  | .acceptance _ => none
  | .staging _ _ => none
  | .startToken _ => none
  | .hardwareFlip _ => none
  | .outrankPreempt _ _ => none
  | .translationWalk _ _ _ => none
  | .hostWrite _ _ _ => none
  | .hostRead _ _ => none
  | .registerWrite _ _ => none
  | .errorEvent _ _ => none
  | .errorBankRead _ _ => none
  | .errorRecordClear _ _ => none
  | .frameRetry _ _ => none
  | .podRetransmit _ => none
  | .podFrameReceive _ => none
  | .watchdogExpiry _ => none
  | .blotterUnfreeze _ => none
  | .clockMark _ _ => none
  | .debugStop _ _ => none
  | .debugRun _ => none
  | .debugStep _ _ => none
  | .stepEnd _ => none
  | .debugWrite _ _ _ => none
  | .frequencyChange _ => none
  | .clockStretch _ => none
  | .thermalLower => none
  | .thermalRaise => none
  | .thermalStop => none
  | .retrainEntry _ _ => none
  | .retrainExit _ _ => none
  | .retrainWaitExpiry _ => none
  | .powerOn _ => none
  | .dieWarm _ => none
  | .moduleWarm _ => none
  | .selfTest _ => none
  | .startReady => none
  | .startFail _ => none
  | .mailboxTake _ => none
  | .nibInfo => none
  | .nibNonce => none
  | .nibQuote => none
  | .nibUnlock => none
  | .nibExtend => none
  | .nibPartset => none
  | .nibKeygen => none
  | .nibKeyclr => none
  | .nibRecover => none
  | .nibClrfail => none
  | .powerLoss => none
  | .partReset => none
  | .functionLevelReset => none
  | .hostLinkRecovery => none
  | .dieReadsZeroCelsius => none

/-- Whether an instruction is one its encoding accepts (R157-R161, R169-R171 and the entries). Events of
the table have no encoding and are accepted. -/
def wf (i : Instr) : Bool :=
  match i with
  | .add _ _ => true
  | .sub _ _ => true
  | .andS _ _ => true
  | .orS _ _ => true
  | .xorS _ _ => true
  | .shl _ _ => true
  | .shr _ _ => true
  | .sar _ _ => true
  | .mul _ _ => true
  | .mulhu _ _ => true
  | .mulh _ _ => true
  | .minS _ _ => true
  | .maxS _ _ => true
  | .minu _ _ => true
  | .maxu _ _ => true
  | .addi _ _ => true
  | .li _ f => f.sa == 0
  | .andi _ _ => true
  | .ori _ _ => true
  | .xori _ _ => true
  | .shli _ f => f.shift
  | .shri _ f => f.shift
  | .sari _ f => f.shift
  | .muli _ _ => true
  | .cmp _ f => f.cond.toNat < 6
  | .cmpi _ f => f.cond.toNat < 6
  | .pand _ _ => true
  | .por _ _ => true
  | .pxor _ _ => true
  | .pnot _ f => f.pb == 0
  | .br _ _ => true
  | .call _ _ => true
  | .ret _ => true
  | .loopReg _ _ => true
  | .loopi _ _ => true
  | .disp _ f => f.eng != 3 && f.secno != 0xFFF
  | .waitWord _ _ => true
  | .nextTile h => h.gap == 0
  | .endShareWord h => h.gap == 0
  | .palign h f => 2 ≤ f.scope.toNat && f.scope.toNat ≤ 4 && h.plain
  | .rdtick _ f => f.scope == 0
  | .rdscyc _ f => f.scope == 0
  | .rdlbt _ f => f.scope == 0
  | .ld _ f => f.scalar true
  | .st _ f => f.scalar false
  | .shld _ f => f.shape
  | .shset _ f => f.sel.toNat < 17
  | .shget _ f => f.sel.toNat < 17
  | .barInit _ f => barScope f.scope && f.dst == 0 && f.fn == 0
  | .barArr _ f => barScope f.scope && f.sa == 0 && f.dst == 0 && f.fn == 0
  | .barWait h f => barScope f.scope && f.sa == 0 && f.dst == 0 && f.fn == 0 && h.plain
  | .barSync h f => barScope f.scope && f.sa == 0 && f.dst == 0 && f.fn == 0 && h.plain
  | .barRed h f => barScope f.scope && f.fn.toNat < 6 && h.plain
  | .trapWord _ _ => true
  | .brk _ => true
  | .rdsys _ f => sysregOk f.sysreg
  | .wrsys _ f => sysregOk f.sysreg
  | .sret h => h.plain
  | .sretFault h => h.plain
  | .lres h => h.plain
  | .labn h => h.plain
  | .drain _ => true
  | .pswap _ => true
  | .tlbiVa _ f => f.sysreg == 0
  | .tlbiAsid _ f => f.sysreg == 0
  | .tlbiAll _ => true
  | .errrd _ f => f.sysreg.toNat % 128 == 0
  | .errclr _ f => f.sysreg == 0
  | .parkrd _ f => f.sysreg.toNat % 128 == 0
  | .barKill _ f => f.sysreg == 0
  | .fence e h f => 1 ≤ f.scope.toNat && f.scope.toNat ≤ 5 && (e == .seq || h.plain)
  | .nop e h => e == .seq || h.plain
  | .vadd _ f => f.arith true true .src .none
  | .vsub _ f => f.arith true true .src .none
  | .vmul _ f => f.arith true true .src .none
  | .vfma _ f => f.arith true true .src .src
  | .vfms _ f => f.arith true true .src .src
  | .vfnma _ f => f.arith true true .src .src
  | .vdiv _ f => f.arith false true .src .none
  | .vsqrt _ f => f.arith false true .none .none
  | .vmin _ f => f.exact true true .src
  | .vmax _ f => f.exact true true .src
  | .vabs _ f => f.exact true true .none
  | .vneg _ f => f.exact true true .none
  | .vadds _ f => f.exact true false .src
  | .vsubs _ f => f.exact true false .src
  | .vmulh _ f => f.exact true false .src
  | .vand _ f => f.bitwise .src (f.imm == 0)
  | .vor _ f => f.bitwise .src (f.imm == 0)
  | .vxor _ f => f.bitwise .src (f.imm == 0)
  | .vnot _ f => f.bitwise .none (f.imm == 0)
  | .vshl _ f => f.bitwise .src (f.imm == 0)
  | .vshr _ f => f.bitwise .src (f.imm == 0)
  | .vsar _ f => f.bitwise .src (f.imm == 0)
  | .vrot _ f => f.bitwise .src (f.imm == 0)
  | .vclmul _ f => f.bitwise .src (f.imm.toNat ≤ 1)
  | .vpopc _ f => f.bitwise .none (f.imm == 0)
  | .vclz _ f => f.bitwise .none (f.imm == 0)
  | .vsel _ f => f.ok { ty := rawTy f.ty, sb := .src, me := .must, imm := f.imm == 0 }
  | .vbidx _ f => f.ok { ty := f.ty == 1 || f.ty == 2, me := .no, imm := true }
  | .vbcmp _ f => f.ok { ty := f.ty == 0, me := .no, imm := f.imm.toNat < 256 }
  | .vmov _ f => f.ok { ty := elemTy f.ty && f.ty != 9, imm := f.imm == 0 }
  | .vsplat _ f => f.ok { ty := elemTy f.ty && f.ty != 9, sa := .none, imm := f.imm.toNat < 2 ^ widthOf f.ty }
  | .vcmp _ f => f.ok {
      ty := floatTy f.ty || intTy f.ty, dst := .mask, sb := .src,
      imm := f.imm.toNat < (if floatTy f.ty then 4 else 6) }
  | .mand _ f => f.maskWord .mask .mask .mask
  | .mor _ f => f.maskWord .mask .mask .mask
  | .mxor _ f => f.maskWord .mask .mask .mask
  | .mnot _ f => f.maskWord .mask .mask .none
  | .mfromv _ f => f.maskWord .mask .src .none
  | .mtov _ f => f.maskWord .dst .mask .none
  | .vcvt _ f => f.ok {
      rm := floatTy f.ty || (!narrowTy f.ty && (floatTy (fieldAt f.imm 0 4) || narrowTy (fieldAt f.imm 0 4))),
      ty := cvtTy f.ty, imm := f.imm.toNat ≤ 9 && f.imm.toNat != f.ty.toNat }
  | .vmxq _ f => f.ok { ty := floatTy f.ty, dst := .even, me := .no, imm := f.imm == 0 }
  | .vmxd _ f => f.ok { rm := true, ty := floatTy f.ty, sb := .src, me := .no, imm := f.imm == 0 }
  | .vredadd _ f => f.reduce true false true
  | .vredmin _ f => f.reduce true false false
  | .vredmax _ f => f.reduce true false false
  | .vredand _ f => f.reduce false true false
  | .vredor _ f => f.reduce false true false
  | .vredxor _ f => f.reduce false true false
  | .vscanadd _ f => f.scan true false true
  | .vscanmin _ f => f.scan true false false
  | .vscanmax _ f => f.scan true false false
  | .vscanxor _ f => f.scan false true false
  | .vtrn _ f => f.permute .none .no (f.imm == 0)
  | .vperm _ f => f.permute .src .opt (f.imm == 0)
  | .vshuf _ f => f.permute (if f.imm == 4 then .none else .src) .opt (f.imm.toNat ≤ 4)
  | .vslide _ f => f.permute .src .opt (f.imm.toNat ≤ 4096)
  | .vcompress _ f => f.permute .none .must (f.imm == 0)
  | .vexpand _ f => f.permute .none .must (f.imm == 0)
  | .vld _ f => f.tile true
  | .vst _ f => f.tile false
  | .mld _ f => f.maskWord
  | .mst _ f => f.maskWord
  | .vfclr _ f => f.ok { ty := f.ty == 0, dst := .none, sa := .none, sh := false, me := .no, imm := f.imm.toNat < 64 }
  | .vfrd _ f => f.ok { ty := f.ty == 0, sa := .none, sh := false, me := .no, imm := f.imm == 0 }
  | .vtol _ f => f.logWord false (floatTy f.ty) .none (f.imm == 0)
  | .vfroml _ f => f.logWord true (floatTy f.ty) .none (f.imm == 0)
  | .lmul _ f => f.logWord false (f.ty == 0xA) .src (f.imm == 0)
  | .ldiv _ f => f.logWord false (f.ty == 0xA) .src (f.imm == 0)
  | .lroot _ f => f.logWord false (f.ty == 0xA) .none (2 ≤ f.imm.toNat && f.imm.toNat ≤ 16)
  | .lpow _ f => f.logWord false (f.ty == 0xA) .none (f.imm.toNat < 65536)
  | .frsqrt _ f => f.logWord true (floatTy f.ty) .none (f.imm == 0)
  | .frcp _ f => f.logWord true (floatTy f.ty) .none (f.imm == 0)
  | .fsqrt _ f => f.logWord true (floatTy f.ty) .none (f.imm == 0)
  | .fexp2 _ f => f.logWord true (floatTy f.ty) .none (f.imm == 0)
  | .flog2 _ f => f.logWord true (floatTy f.ty) .none (f.imm == 0)
  | .fsigm _ f => f.logWord true (floatTy f.ty) .none (f.imm == 0)
  | .ftanh _ f => f.logWord true (floatTy f.ty) .none (f.imm == 0)
  | .fsilu _ f => f.logWord true (floatTy f.ty) .none (f.imm == 0)
  | .vrng _ f => f.ok { ty := f.ty.toNat ≤ 5 || f.ty == 0xA, sa := .none, imm := true }
  | .vrotw _ f => f.ok { ty := f.ty == 0, dst := .none, sa := .none, sh := false, me := .no, imm := f.imm.toNat < 8 }
  | .qfrom _ f => f.quillWord false (floatTy f.ty) .quill .src .none true (f.imm == 0)
  | .qto _ f => f.quillWord true (floatTy f.ty) .dst .quill .none true (f.imm == 0)
  | .qcos _ f => f.quillWord true (f.ty == 3) .dst .quill .quill false (f.imm == 0)
  | .qdot _ f => f.quillWord true (f.ty == 3) .dst .quill .quill false (f.imm == 0)
  | .qscl _ f => f.quillWord false (f.ty == 0) .quill .quill (if f.imm.msb then .src else .none) false
        (fieldAt f.imm 24 7 == 0)
  | .qadd _ f => f.quillWord false (f.ty == 0) .quill .quill .quill false (f.imm == 0)
  | .qsub _ f => f.quillWord false (f.ty == 0) .quill .quill .quill false (f.imm == 0)
  | .qlerp _ f => f.quillWord false (f.ty == 0) .quill .quill .quill false (f.imm.toNat ≤ 65536)
  | .qneg _ f => f.quillWord false (f.ty == 0) .quill .quill .none false (f.imm == 0)
  | .qrms _ f => f.quillWord true (f.ty == 3 || f.ty == 5) .dst .quill .src true (f.imm == 0)
  | .qq8 _ f => f.quillWord false (f.ty == 0xF) .even .quill .none false (f.imm == 0)
  | .qnget _ f => f.quillWord false (f.ty == 0) .dst .quill .none false (f.imm == 0)
  | .qnset _ f => f.quillWord false (f.ty == 0) .quill .src .none false (f.imm == 0)
  | .qcls _ f => f.quillWord false (f.ty == 0) .mask .quill .none false (f.imm.toNat < 1024)
  | .qmov _ f => f.quillWord false (f.ty == 0) .quill .quill .none false (f.imm == 0)
  | .qld _ f => f.quillWord true
  | .qst _ f => f.quillWord false
  | .mwld _ f => !f.at_ && f.fmt == 0 && (f.sc || f.ns2 == 0)
  | .macc _ f => !f.sc && afmtTy f.fmt && (mxTy f.fmt || f.ns2 == 0)
  | .mclr _ f => !f.sc && !f.wl && f.ns == 0 && f.ns2 == 0 && f.sh == 0 && f.fmt == 0 && f.cls == 0
  | .mepi _ f => !f.sc && !f.wl && ofmtTy f.fmt && (mxTy f.fmt || f.ns2 == 0)
  | .mflg _ f => !f.sc && !f.wl && f.ns2 == 0 && f.sh == 0 && f.fmt == 0
  | .mfclr _ f => !f.sc && !f.wl && f.ns == 0 && f.ns2 == 0 && f.sh == 0 && f.fmt == 0 && f.cls == 0
  | .xchNd _ f => f.near 255
  | .xchNm _ f => f.near 255
  | .xchDm _ f => f.die
  | .xchNp _ f => f.near 255
  | .xchAm _ f => f.near 63
  | .xsend _ f => f.ok false
  | .xland _ f => f.ok true
  | .xpush _ f => f.ok false
  | .xatom _ f => f.aop.toNat ≤ 9 && 2 ≤ f.w.toNat && (f.aop == 9 || f.kc == 0) && ordOk f.ordq f.scope true true && f.returning
  | .xred _ f => f.aop.toNat ≤ 7 && 2 ≤ f.w.toNat && f.kc == 0 && ordOk f.ordq f.scope false true && f.silent
  | .xbinit _ f => f.binned && ordOk f.ordq f.scope false true && f.silent
  | .xbadd _ f => f.binned && ordOk f.ordq f.scope false true && f.silent
  | .xbread _ f => f.binned && f.kv == 0 && ordOk f.ordq f.scope true false && f.returning
  | .sectionStart _ _ => true
  | .sectionRetire _ _ => true
  | .resultLanding _ _ => true
  | .accessPerform _ _ _ => true
  | .bankConflictEnd _ => true
  | .farDataArrival _ _ => true
  | .landingDue _ _ => true
  | .exchangeCommit _ _ => true
  | .writeBackDone _ _ => true
  | .pathFailure _ _ => true
  | .atomicPerform _ _ => true
  | .mergedEntryApply _ => true
  | .payloadDelivery _ _ => true
  | .inflowPush _ _ => true
  | .creditRefill _ => true
  | .beaconSend _ => true
  | .beaconReceive _ _ => true
  | .beaconTimeout _ _ => true
  | .releaseSend _ => true
  | .releaseReceive _ _ => true
  | .palignExitTick _ _ => true
  | .palignLocalResume _ => true
  | .barrierArrival _ _ => true
  | .barrierDone _ _ => true
  | .frzlimExpiry _ => true
  | .trapEntry _ => true
  | .lateEntry _ => true
  | .replay _ => true
  | .preemptEntry _ => true
  | .prelimExpiry _ => true
  | .ctxWrite _ _ => true
  | .frzlimWrite _ _ => true
  | .shareEnd _ => true
  | .launchStop _ => true
  | .tileEntry _ => true
  | .parameterSwapIn _ => true
  | .parameterSwapOut _ => true
  | .launchCompletion _ => true
  | .rtailWrite _ _ _ => true
  | .rbaseWrite _ _ _ => true
  | .szWrite _ _ => true
  | .rerrClear _ => true
  | .submit _ _ => true
  | .launchReady _ _ => true
  | .agingStep _ _ => true
  | .acceptance _ => true
  | .staging _ _ => true
  | .startToken _ => true
  | .hardwareFlip _ => true
  | .outrankPreempt _ _ => true
  | .translationWalk _ _ _ => true
  | .hostWrite _ _ _ => true
  | .hostRead _ _ => true
  | .registerWrite _ _ => true
  | .errorEvent _ _ => true
  | .errorBankRead _ _ => true
  | .errorRecordClear _ _ => true
  | .frameRetry _ _ => true
  | .podRetransmit _ => true
  | .podFrameReceive _ => true
  | .watchdogExpiry _ => true
  | .blotterUnfreeze _ => true
  | .clockMark _ _ => true
  | .debugStop _ _ => true
  | .debugRun _ => true
  | .debugStep _ _ => true
  | .stepEnd _ => true
  | .debugWrite _ _ _ => true
  | .frequencyChange _ => true
  | .clockStretch _ => true
  | .thermalLower => true
  | .thermalRaise => true
  | .thermalStop => true
  | .retrainEntry _ _ => true
  | .retrainExit _ _ => true
  | .retrainWaitExpiry _ => true
  | .powerOn _ => true
  | .dieWarm _ => true
  | .moduleWarm _ => true
  | .selfTest _ => true
  | .startReady => true
  | .startFail _ => true
  | .mailboxTake _ => true
  | .nibInfo => true
  | .nibNonce => true
  | .nibQuote => true
  | .nibUnlock => true
  | .nibExtend => true
  | .nibPartset => true
  | .nibKeygen => true
  | .nibKeyclr => true
  | .nibRecover => true
  | .nibClrfail => true
  | .powerLoss => true
  | .partReset => true
  | .functionLevelReset => true
  | .hostLinkRecovery => true
  | .dieReadsZeroCelsius => true

end Sys2Proof
end

