-- ==== Sys2Proof/Decode.lean ====
section
/-! DEFINITION. The encoding of every word (R154, R162-R166, R169): reading a word, total on any bits, and
writing one. A word is an instruction exactly when its OP is assigned, its fields pass `wf`, and no bit
outside its fields is set (R157, R171). -/

namespace Sys2Proof

/-- A field's value at bit `lo` of a word. -/
def place {n : Nat} (lo : Nat) (x : BitVec n) : InstrWord := x.setWidth 96 <<< lo

/-- The guard field, bits 82:78: GE, GN, GP (R162). -/
def guardBits : Option Guard → BitVec 5
  | none => 0
  | some g => 1#1 ++ BitVec.ofBool g.neg ++ g.p

/-- OP, GAP and guard of a sequencer word. -/
def opWord (op : BitVec 8) (h : Head) : InstrWord := place 88 op ||| place 83 h.gap ||| place 78 (guardBits h.guard)

/-- OP and GAP of an engine word. -/
def engWord (op : BitVec 8) (g : BitVec 5) : InstrWord := place 88 op ||| place 83 g

/-- GAP and guard of a word (R162). -/
def Head.parse (w : InstrWord) : Head :=
  { gap := fieldAt w 83 5,
    guard := if w.getLsbD 82 then some { neg := w.getLsbD 81, p := fieldAt w 78 3 } else none }

/-- The fields of format SR in their places. -/
def SR.enc (f : SR) : InstrWord :=
  place 73 f.dst |||
    place 68 f.sa |||
    place 63 f.sb

/-- The fields of format SR read from a word. -/
def SR.parse (w : InstrWord) : SR :=
  { dst := fieldAt w 73 5,
    sa := fieldAt w 68 5,
    sb := fieldAt w 63 5 }

/-- The fields of format SI in their places. -/
def SI.enc (f : SI) : InstrWord :=
  place 73 f.dst |||
    place 68 f.sa |||
    place 4 f.imm

/-- The fields of format SI read from a word. -/
def SI.parse (w : InstrWord) : SI :=
  { dst := fieldAt w 73 5,
    sa := fieldAt w 68 5,
    imm := fieldAt w 4 64 }

/-- The fields of format SPr in their places. -/
def SPr.enc (f : SPr) : InstrWord :=
  place 75 f.pd |||
    place 72 f.cond |||
    place 67 f.sa |||
    place 62 f.sb

/-- The fields of format SPr read from a word. -/
def SPr.parse (w : InstrWord) : SPr :=
  { pd := fieldAt w 75 3,
    cond := fieldAt w 72 3,
    sa := fieldAt w 67 5,
    sb := fieldAt w 62 5 }

/-- The fields of format SPi in their places. -/
def SPi.enc (f : SPi) : InstrWord :=
  place 75 f.pd |||
    place 72 f.cond |||
    place 67 f.sa |||
    place 3 f.imm

/-- The fields of format SPi read from a word. -/
def SPi.parse (w : InstrWord) : SPi :=
  { pd := fieldAt w 75 3,
    cond := fieldAt w 72 3,
    sa := fieldAt w 67 5,
    imm := fieldAt w 3 64 }

/-- The fields of format PL in their places. -/
def PL.enc (f : PL) : InstrWord :=
  place 75 f.pd |||
    place 72 f.pa |||
    place 69 f.pb

/-- The fields of format PL read from a word. -/
def PL.parse (w : InstrWord) : PL :=
  { pd := fieldAt w 75 3,
    pa := fieldAt w 72 3,
    pb := fieldAt w 69 3 }

/-- The fields of format SB in their places. -/
def SB.enc (f : SB) : InstrWord :=
  place 59 f.tgt

/-- The fields of format SB read from a word. -/
def SB.parse (w : InstrWord) : SB :=
  { tgt := fieldAt w 59 14 }

/-- The fields of format SLr in their places. -/
def SLr.enc (f : SLr) : InstrWord :=
  place 76 f.lc |||
    place 62 f.last |||
    place 57 f.sa

/-- The fields of format SLr read from a word. -/
def SLr.parse (w : InstrWord) : SLr :=
  { lc := fieldAt w 76 2,
    last := fieldAt w 62 14,
    sa := fieldAt w 57 5 }

/-- The fields of format SLi in their places. -/
def SLi.enc (f : SLi) : InstrWord :=
  place 76 f.lc |||
    place 62 f.last |||
    place 30 f.cnt

/-- The fields of format SLi read from a word. -/
def SLi.parse (w : InstrWord) : SLi :=
  { lc := fieldAt w 76 2,
    last := fieldAt w 62 14,
    cnt := fieldAt w 30 32 }

/-- The fields of format SD in their places. -/
def SD.enc (f : SD) : InstrWord :=
  place 76 f.eng |||
    place 64 f.secno |||
    place 59 f.ka |||
    place 54 f.kb |||
    place 49 f.kc |||
    place 44 f.kd

/-- The fields of format SD read from a word. -/
def SD.parse (w : InstrWord) : SD :=
  { eng := fieldAt w 76 2,
    secno := fieldAt w 64 12,
    ka := fieldAt w 59 5,
    kb := fieldAt w 54 5,
    kc := fieldAt w 49 5,
    kd := fieldAt w 44 5 }

/-- The fields of format SW in their places. -/
def SW.enc (f : SW) : InstrWord :=
  place 62 f.cnt

/-- The fields of format SW read from a word. -/
def SW.parse (w : InstrWord) : SW :=
  { cnt := fieldAt w 62 16 }

/-- The fields of format SQ in their places. -/
def SQ.enc (f : SQ) : InstrWord :=
  place 73 f.reg |||
    place 70 f.scope

/-- The fields of format SQ read from a word. -/
def SQ.parse (w : InstrWord) : SQ :=
  { reg := fieldAt w 73 5,
    scope := fieldAt w 70 3 }

/-- The fields of format SM in their places. -/
def SM.enc (f : SM) : InstrWord :=
  place 73 f.reg |||
    place 68 f.base |||
    place 44 f.off |||
    place 42 f.w |||
    place 41 (BitVec.ofBool f.lvl) |||
    place 39 f.ordq |||
    place 36 f.scope |||
    place 32 f.cls |||
    place 16 f.arr

/-- The fields of format SM read from a word. -/
def SM.parse (w : InstrWord) : SM :=
  { reg := fieldAt w 73 5,
    base := fieldAt w 68 5,
    off := fieldAt w 44 24,
    w := fieldAt w 42 2,
    lvl := w.getLsbD 41,
    ordq := fieldAt w 39 2,
    scope := fieldAt w 36 3,
    cls := fieldAt w 32 4,
    arr := fieldAt w 16 16 }

/-- The fields of format SS in their places. -/
def SS.enc (f : SS) : InstrWord :=
  place 74 f.sh |||
    place 69 f.sel |||
    place 64 f.reg

/-- The fields of format SS read from a word. -/
def SS.parse (w : InstrWord) : SS :=
  { sh := fieldAt w 74 4,
    sel := fieldAt w 69 5,
    reg := fieldAt w 64 5 }

/-- The fields of format SN in their places. -/
def SN.enc (f : SN) : InstrWord :=
  place 69 f.bar |||
    place 66 f.scope |||
    place 61 f.sa |||
    place 56 f.dst |||
    place 53 f.fn

/-- The fields of format SN read from a word. -/
def SN.parse (w : InstrWord) : SN :=
  { bar := fieldAt w 69 9,
    scope := fieldAt w 66 3,
    sa := fieldAt w 61 5,
    dst := fieldAt w 56 5,
    fn := fieldAt w 53 3 }

/-- The fields of format SX in their places. -/
def SX.enc (f : SX) : InstrWord :=
  place 73 f.reg |||
    place 61 f.sysreg

/-- The fields of format SX read from a word. -/
def SX.parse (w : InstrWord) : SX :=
  { reg := fieldAt w 73 5,
    sysreg := fieldAt w 61 12 }

/-- The fields of format FF in their places. -/
def FF.enc (f : FF) : InstrWord :=
  place 62 f.mask |||
    place 59 f.scope

/-- The fields of format FF read from a word. -/
def FF.parse (w : InstrWord) : FF :=
  { mask := fieldAt w 62 16,
    scope := fieldAt w 59 3 }

/-- The fields of format VA in their places. -/
def VA.enc (f : VA) : InstrWord :=
  place 81 f.rm |||
    place 77 f.ty |||
    place 70 f.dst |||
    place 63 f.sa |||
    place 56 f.sb |||
    place 49 f.sc |||
    place 45 f.sh |||
    place 44 (BitVec.ofBool f.me) |||
    place 41 f.msk |||
    place 39 f.ax |||
    place 7 f.imm

/-- The fields of format VA read from a word. -/
def VA.parse (w : InstrWord) : VA :=
  { rm := fieldAt w 81 2,
    ty := fieldAt w 77 4,
    dst := fieldAt w 70 7,
    sa := fieldAt w 63 7,
    sb := fieldAt w 56 7,
    sc := fieldAt w 49 7,
    sh := fieldAt w 45 4,
    me := w.getLsbD 44,
    msk := fieldAt w 41 3,
    ax := fieldAt w 39 2,
    imm := fieldAt w 7 32 }

/-- The fields of format VM in their places. -/
def VM.enc (f : VM) : InstrWord :=
  place 77 f.ty |||
    place 70 f.reg |||
    place 69 (BitVec.ofBool f.bk) |||
    place 67 f.ki |||
    place 43 f.off |||
    place 39 f.sh |||
    place 38 (BitVec.ofBool f.me) |||
    place 35 f.msk |||
    place 34 (BitVec.ofBool f.lvl) |||
    place 32 f.ordq |||
    place 29 f.scope |||
    place 25 f.cls |||
    place 9 f.arr

/-- The fields of format VM read from a word. -/
def VM.parse (w : InstrWord) : VM :=
  { ty := fieldAt w 77 4,
    reg := fieldAt w 70 7,
    bk := w.getLsbD 69,
    ki := fieldAt w 67 2,
    off := fieldAt w 43 24,
    sh := fieldAt w 39 4,
    me := w.getLsbD 38,
    msk := fieldAt w 35 3,
    lvl := w.getLsbD 34,
    ordq := fieldAt w 32 2,
    scope := fieldAt w 29 3,
    cls := fieldAt w 25 4,
    arr := fieldAt w 9 16 }

/-- The fields of format MC in their places. -/
def MC.enc (f : MC) : InstrWord :=
  place 77 (BitVec.ofBool f.sc) |||
    place 76 (BitVec.ofBool f.at_) |||
    place 75 (BitVec.ofBool f.wl) |||
    place 67 f.ns |||
    place 59 f.ns2 |||
    place 55 f.sh |||
    place 51 f.fmt |||
    place 47 f.cls

/-- The fields of format MC read from a word. -/
def MC.parse (w : InstrWord) : MC :=
  { sc := w.getLsbD 77,
    at_ := w.getLsbD 76,
    wl := w.getLsbD 75,
    ns := fieldAt w 67 8,
    ns2 := fieldAt w 59 8,
    sh := fieldAt w 55 4,
    fmt := fieldAt w 51 4,
    cls := fieldAt w 47 4 }

/-- The fields of format XE in their places. -/
def XE.enc (f : XE) : InstrWord :=
  place 75 f.nsl |||
    place 74 (BitVec.ofBool f.nk) |||
    place 72 f.nki |||
    place 70 f.fki |||
    place 54 f.foff |||
    place 50 f.cnt |||
    place 46 f.cls |||
    place 30 f.arr

/-- The fields of format XE read from a word. -/
def XE.parse (w : InstrWord) : XE :=
  { nsl := fieldAt w 75 8,
    nk := w.getLsbD 74,
    nki := fieldAt w 72 2,
    fki := fieldAt w 70 2,
    foff := fieldAt w 54 16,
    cnt := fieldAt w 50 4,
    cls := fieldAt w 46 4,
    arr := fieldAt w 30 16 }

/-- The fields of format XT in their places. -/
def XT.enc (f : XT) : InstrWord :=
  place 73 f.len |||
    place 72 (BitVec.ofBool f.bk) |||
    place 70 f.ki |||
    place 46 f.off |||
    place 44 f.kd |||
    place 40 f.cls |||
    place 24 f.arr

/-- The fields of format XT read from a word. -/
def XT.parse (w : InstrWord) : XT :=
  { len := fieldAt w 73 10,
    bk := w.getLsbD 72,
    ki := fieldAt w 70 2,
    off := fieldAt w 46 24,
    kd := fieldAt w 44 2,
    cls := fieldAt w 40 4,
    arr := fieldAt w 24 16 }

/-- The fields of format XA in their places. -/
def XA.enc (f : XA) : InstrWord :=
  place 79 f.aop |||
    place 77 f.w |||
    place 75 f.ka |||
    place 73 f.kv |||
    place 71 f.kc |||
    place 70 (BitVec.ofBool f.bk) |||
    place 68 f.ki |||
    place 44 f.off |||
    place 42 f.ordq |||
    place 39 f.scope |||
    place 35 f.cls |||
    place 19 f.arr |||
    place 18 (BitVec.ofBool f.al)

/-- The fields of format XA read from a word. -/
def XA.parse (w : InstrWord) : XA :=
  { aop := fieldAt w 79 4,
    w := fieldAt w 77 2,
    ka := fieldAt w 75 2,
    kv := fieldAt w 73 2,
    kc := fieldAt w 71 2,
    bk := w.getLsbD 70,
    ki := fieldAt w 68 2,
    off := fieldAt w 44 24,
    ordq := fieldAt w 42 2,
    scope := fieldAt w 39 3,
    cls := fieldAt w 35 4,
    arr := fieldAt w 19 16,
    al := w.getLsbD 18 }

/-- The sequencer map (R169): the instruction an OP names, with every field as it stands. -/
def parseSeq (w : InstrWord) : Option Instr :=
  match fieldAt w 88 8 with
  | 0x01#8 => some (.add (Head.parse w) (SR.parse w))
  | 0x02#8 => some (.sub (Head.parse w) (SR.parse w))
  | 0x03#8 => some (.andS (Head.parse w) (SR.parse w))
  | 0x04#8 => some (.orS (Head.parse w) (SR.parse w))
  | 0x05#8 => some (.xorS (Head.parse w) (SR.parse w))
  | 0x06#8 => some (.shl (Head.parse w) (SR.parse w))
  | 0x07#8 => some (.shr (Head.parse w) (SR.parse w))
  | 0x08#8 => some (.sar (Head.parse w) (SR.parse w))
  | 0x09#8 => some (.mul (Head.parse w) (SR.parse w))
  | 0x0A#8 => some (.mulhu (Head.parse w) (SR.parse w))
  | 0x0B#8 => some (.mulh (Head.parse w) (SR.parse w))
  | 0x0C#8 => some (.minS (Head.parse w) (SR.parse w))
  | 0x0D#8 => some (.maxS (Head.parse w) (SR.parse w))
  | 0x0E#8 => some (.minu (Head.parse w) (SR.parse w))
  | 0x0F#8 => some (.maxu (Head.parse w) (SR.parse w))
  | 0x11#8 => some (.addi (Head.parse w) (SI.parse w))
  | 0x12#8 => some (.li (Head.parse w) (SI.parse w))
  | 0x13#8 => some (.andi (Head.parse w) (SI.parse w))
  | 0x14#8 => some (.ori (Head.parse w) (SI.parse w))
  | 0x15#8 => some (.xori (Head.parse w) (SI.parse w))
  | 0x16#8 => some (.shli (Head.parse w) (SI.parse w))
  | 0x17#8 => some (.shri (Head.parse w) (SI.parse w))
  | 0x18#8 => some (.sari (Head.parse w) (SI.parse w))
  | 0x19#8 => some (.muli (Head.parse w) (SI.parse w))
  | 0x20#8 => some (.cmp (Head.parse w) (SPr.parse w))
  | 0x21#8 => some (.cmpi (Head.parse w) (SPi.parse w))
  | 0x22#8 => some (.pand (Head.parse w) (PL.parse w))
  | 0x23#8 => some (.por (Head.parse w) (PL.parse w))
  | 0x24#8 => some (.pxor (Head.parse w) (PL.parse w))
  | 0x25#8 => some (.pnot (Head.parse w) (PL.parse w))
  | 0x30#8 => some (.br (Head.parse w) (SB.parse w))
  | 0x31#8 => some (.call (Head.parse w) (SB.parse w))
  | 0x32#8 => some (.ret (Head.parse w))
  | 0x34#8 => some (.loopReg (Head.parse w) (SLr.parse w))
  | 0x35#8 => some (.loopi (Head.parse w) (SLi.parse w))
  | 0x40#8 => some (.disp (Head.parse w) (SD.parse w))
  | 0x41#8 => some (.waitWord (Head.parse w) (SW.parse w))
  | 0x42#8 => some (.nextTile (Head.parse w))
  | 0x43#8 => some (.endShareWord (Head.parse w))
  | 0x44#8 => some (.palign (Head.parse w) (SQ.parse w))
  | 0x45#8 => some (.rdtick (Head.parse w) (SQ.parse w))
  | 0x46#8 => some (.rdscyc (Head.parse w) (SQ.parse w))
  | 0x47#8 => some (.rdlbt (Head.parse w) (SQ.parse w))
  | 0x50#8 => some (.ld (Head.parse w) (SM.parse w))
  | 0x51#8 => some (.st (Head.parse w) (SM.parse w))
  | 0x53#8 => some (.shld (Head.parse w) (SM.parse w))
  | 0x54#8 => some (.shset (Head.parse w) (SS.parse w))
  | 0x55#8 => some (.shget (Head.parse w) (SS.parse w))
  | 0x60#8 => some (.barInit (Head.parse w) (SN.parse w))
  | 0x61#8 => some (.barArr (Head.parse w) (SN.parse w))
  | 0x62#8 => some (.barWait (Head.parse w) (SN.parse w))
  | 0x63#8 => some (.barSync (Head.parse w) (SN.parse w))
  | 0x64#8 => some (.barRed (Head.parse w) (SN.parse w))
  | 0x70#8 => some (.trapWord (Head.parse w) (SW.parse w))
  | 0x71#8 => some (.brk (Head.parse w))
  | 0xE0#8 => some (.rdsys (Head.parse w) (SX.parse w))
  | 0xE1#8 => some (.wrsys (Head.parse w) (SX.parse w))
  | 0xE2#8 => if w.getLsbD 61 then some (.sretFault (Head.parse w)) else some (.sret (Head.parse w))
  | 0xE3#8 => some (.lres (Head.parse w))
  | 0xE4#8 => some (.labn (Head.parse w))
  | 0xE5#8 => some (.drain (Head.parse w))
  | 0xE6#8 => some (.pswap (Head.parse w))
  | 0xE7#8 => some (.tlbiVa (Head.parse w) (SX.parse w))
  | 0xE8#8 => some (.tlbiAsid (Head.parse w) (SX.parse w))
  | 0xE9#8 => some (.tlbiAll (Head.parse w))
  | 0xEA#8 => some (.errrd (Head.parse w) (SX.parse w))
  | 0xEB#8 => some (.errclr (Head.parse w) (SX.parse w))
  | 0xEC#8 => some (.parkrd (Head.parse w) (SX.parse w))
  | 0xED#8 => some (.barKill (Head.parse w) (SX.parse w))
  | 0xFD#8 => some (.fence .seq (Head.parse w) (FF.parse w))
  | 0xFE#8 => some (.nop .seq (Head.parse w))
  | _ => none

/-- The matrix map (R169): the instruction an OP names, with every field as it stands. -/
def parseM (w : InstrWord) : Option Instr :=
  match fieldAt w 88 8 with
  | 0x10#8 => some (.mwld (fieldAt w 83 5) (MC.parse w))
  | 0x20#8 => some (.macc (fieldAt w 83 5) (MC.parse w))
  | 0x30#8 => some (.mclr (fieldAt w 83 5) (MC.parse w))
  | 0x40#8 => some (.mepi (fieldAt w 83 5) (MC.parse w))
  | 0x50#8 => some (.mflg (fieldAt w 83 5) (MC.parse w))
  | 0x51#8 => some (.mfclr (fieldAt w 83 5) (MC.parse w))
  | 0xFD#8 => some (.fence .m (Head.parse w) (FF.parse w))
  | 0xFE#8 => some (.nop .m (Head.parse w))
  | _ => none

/-- The vector map (R169): the instruction an OP names, with every field as it stands. -/
def parseV (w : InstrWord) : Option Instr :=
  match fieldAt w 88 8 with
  | 0x01#8 => some (.vadd (fieldAt w 83 5) (VA.parse w))
  | 0x02#8 => some (.vsub (fieldAt w 83 5) (VA.parse w))
  | 0x03#8 => some (.vmul (fieldAt w 83 5) (VA.parse w))
  | 0x04#8 => some (.vfma (fieldAt w 83 5) (VA.parse w))
  | 0x05#8 => some (.vfms (fieldAt w 83 5) (VA.parse w))
  | 0x06#8 => some (.vfnma (fieldAt w 83 5) (VA.parse w))
  | 0x07#8 => some (.vdiv (fieldAt w 83 5) (VA.parse w))
  | 0x08#8 => some (.vsqrt (fieldAt w 83 5) (VA.parse w))
  | 0x09#8 => some (.vmin (fieldAt w 83 5) (VA.parse w))
  | 0x0A#8 => some (.vmax (fieldAt w 83 5) (VA.parse w))
  | 0x0B#8 => some (.vabs (fieldAt w 83 5) (VA.parse w))
  | 0x0C#8 => some (.vneg (fieldAt w 83 5) (VA.parse w))
  | 0x0D#8 => some (.vadds (fieldAt w 83 5) (VA.parse w))
  | 0x0E#8 => some (.vsubs (fieldAt w 83 5) (VA.parse w))
  | 0x0F#8 => some (.vmulh (fieldAt w 83 5) (VA.parse w))
  | 0x10#8 => some (.vand (fieldAt w 83 5) (VA.parse w))
  | 0x11#8 => some (.vor (fieldAt w 83 5) (VA.parse w))
  | 0x12#8 => some (.vxor (fieldAt w 83 5) (VA.parse w))
  | 0x13#8 => some (.vnot (fieldAt w 83 5) (VA.parse w))
  | 0x14#8 => some (.vshl (fieldAt w 83 5) (VA.parse w))
  | 0x15#8 => some (.vshr (fieldAt w 83 5) (VA.parse w))
  | 0x16#8 => some (.vsar (fieldAt w 83 5) (VA.parse w))
  | 0x17#8 => some (.vrot (fieldAt w 83 5) (VA.parse w))
  | 0x18#8 => some (.vclmul (fieldAt w 83 5) (VA.parse w))
  | 0x19#8 => some (.vpopc (fieldAt w 83 5) (VA.parse w))
  | 0x1A#8 => some (.vclz (fieldAt w 83 5) (VA.parse w))
  | 0x1B#8 => some (.vsel (fieldAt w 83 5) (VA.parse w))
  | 0x1C#8 => some (.vbidx (fieldAt w 83 5) (VA.parse w))
  | 0x1D#8 => some (.vbcmp (fieldAt w 83 5) (VA.parse w))
  | 0x1E#8 => some (.vmov (fieldAt w 83 5) (VA.parse w))
  | 0x1F#8 => some (.vsplat (fieldAt w 83 5) (VA.parse w))
  | 0x20#8 => some (.vcmp (fieldAt w 83 5) (VA.parse w))
  | 0x21#8 => some (.mand (fieldAt w 83 5) (VA.parse w))
  | 0x22#8 => some (.mor (fieldAt w 83 5) (VA.parse w))
  | 0x23#8 => some (.mxor (fieldAt w 83 5) (VA.parse w))
  | 0x24#8 => some (.mnot (fieldAt w 83 5) (VA.parse w))
  | 0x25#8 => some (.mfromv (fieldAt w 83 5) (VA.parse w))
  | 0x26#8 => some (.mtov (fieldAt w 83 5) (VA.parse w))
  | 0x30#8 => some (.vcvt (fieldAt w 83 5) (VA.parse w))
  | 0x38#8 => some (.vmxq (fieldAt w 83 5) (VA.parse w))
  | 0x39#8 => some (.vmxd (fieldAt w 83 5) (VA.parse w))
  | 0x40#8 => some (.vredadd (fieldAt w 83 5) (VA.parse w))
  | 0x41#8 => some (.vredmin (fieldAt w 83 5) (VA.parse w))
  | 0x42#8 => some (.vredmax (fieldAt w 83 5) (VA.parse w))
  | 0x43#8 => some (.vredand (fieldAt w 83 5) (VA.parse w))
  | 0x44#8 => some (.vredor (fieldAt w 83 5) (VA.parse w))
  | 0x45#8 => some (.vredxor (fieldAt w 83 5) (VA.parse w))
  | 0x46#8 => some (.vscanadd (fieldAt w 83 5) (VA.parse w))
  | 0x47#8 => some (.vscanmin (fieldAt w 83 5) (VA.parse w))
  | 0x48#8 => some (.vscanmax (fieldAt w 83 5) (VA.parse w))
  | 0x49#8 => some (.vscanxor (fieldAt w 83 5) (VA.parse w))
  | 0x50#8 => some (.vtrn (fieldAt w 83 5) (VA.parse w))
  | 0x51#8 => some (.vperm (fieldAt w 83 5) (VA.parse w))
  | 0x52#8 => some (.vshuf (fieldAt w 83 5) (VA.parse w))
  | 0x53#8 => some (.vslide (fieldAt w 83 5) (VA.parse w))
  | 0x54#8 => some (.vcompress (fieldAt w 83 5) (VA.parse w))
  | 0x55#8 => some (.vexpand (fieldAt w 83 5) (VA.parse w))
  | 0x60#8 => some (.vld (fieldAt w 83 5) (VM.parse w))
  | 0x61#8 => some (.vst (fieldAt w 83 5) (VM.parse w))
  | 0x62#8 => some (.mld (fieldAt w 83 5) (VM.parse w))
  | 0x63#8 => some (.mst (fieldAt w 83 5) (VM.parse w))
  | 0x65#8 => some (.vfclr (fieldAt w 83 5) (VA.parse w))
  | 0x66#8 => some (.vfrd (fieldAt w 83 5) (VA.parse w))
  | 0x70#8 => some (.vtol (fieldAt w 83 5) (VA.parse w))
  | 0x71#8 => some (.vfroml (fieldAt w 83 5) (VA.parse w))
  | 0x72#8 => some (.lmul (fieldAt w 83 5) (VA.parse w))
  | 0x73#8 => some (.ldiv (fieldAt w 83 5) (VA.parse w))
  | 0x74#8 => some (.lroot (fieldAt w 83 5) (VA.parse w))
  | 0x75#8 => some (.lpow (fieldAt w 83 5) (VA.parse w))
  | 0x78#8 => some (.frsqrt (fieldAt w 83 5) (VA.parse w))
  | 0x79#8 => some (.frcp (fieldAt w 83 5) (VA.parse w))
  | 0x7A#8 => some (.fsqrt (fieldAt w 83 5) (VA.parse w))
  | 0x7B#8 => some (.fexp2 (fieldAt w 83 5) (VA.parse w))
  | 0x7C#8 => some (.flog2 (fieldAt w 83 5) (VA.parse w))
  | 0x7D#8 => some (.fsigm (fieldAt w 83 5) (VA.parse w))
  | 0x7E#8 => some (.ftanh (fieldAt w 83 5) (VA.parse w))
  | 0x7F#8 => some (.fsilu (fieldAt w 83 5) (VA.parse w))
  | 0x80#8 => some (.vrng (fieldAt w 83 5) (VA.parse w))
  | 0x81#8 => some (.vrotw (fieldAt w 83 5) (VA.parse w))
  | 0x90#8 => some (.qfrom (fieldAt w 83 5) (VA.parse w))
  | 0x91#8 => some (.qto (fieldAt w 83 5) (VA.parse w))
  | 0x92#8 => some (.qcos (fieldAt w 83 5) (VA.parse w))
  | 0x93#8 => some (.qdot (fieldAt w 83 5) (VA.parse w))
  | 0x94#8 => some (.qscl (fieldAt w 83 5) (VA.parse w))
  | 0x95#8 => some (.qadd (fieldAt w 83 5) (VA.parse w))
  | 0x96#8 => some (.qsub (fieldAt w 83 5) (VA.parse w))
  | 0x97#8 => some (.qlerp (fieldAt w 83 5) (VA.parse w))
  | 0x98#8 => some (.qneg (fieldAt w 83 5) (VA.parse w))
  | 0x99#8 => some (.qrms (fieldAt w 83 5) (VA.parse w))
  | 0x9A#8 => some (.qq8 (fieldAt w 83 5) (VA.parse w))
  | 0x9B#8 => some (.qnget (fieldAt w 83 5) (VA.parse w))
  | 0x9C#8 => some (.qnset (fieldAt w 83 5) (VA.parse w))
  | 0x9D#8 => some (.qcls (fieldAt w 83 5) (VA.parse w))
  | 0x9E#8 => some (.qmov (fieldAt w 83 5) (VA.parse w))
  | 0xA0#8 => some (.qld (fieldAt w 83 5) (VM.parse w))
  | 0xA1#8 => some (.qst (fieldAt w 83 5) (VM.parse w))
  | 0xFD#8 => some (.fence .v (Head.parse w) (FF.parse w))
  | 0xFE#8 => some (.nop .v (Head.parse w))
  | _ => none

/-- The exchange map (R169): the instruction an OP names, with every field as it stands. -/
def parseX (w : InstrWord) : Option Instr :=
  match fieldAt w 88 8 with
  | 0x10#8 => some (.xchNd (fieldAt w 83 5) (XE.parse w))
  | 0x11#8 => some (.xchNm (fieldAt w 83 5) (XE.parse w))
  | 0x12#8 => some (.xchDm (fieldAt w 83 5) (XE.parse w))
  | 0x13#8 => some (.xchNp (fieldAt w 83 5) (XE.parse w))
  | 0x14#8 => some (.xchAm (fieldAt w 83 5) (XE.parse w))
  | 0x20#8 => some (.xsend (fieldAt w 83 5) (XT.parse w))
  | 0x21#8 => some (.xland (fieldAt w 83 5) (XT.parse w))
  | 0x22#8 => some (.xpush (fieldAt w 83 5) (XT.parse w))
  | 0x30#8 => some (.xatom (fieldAt w 83 5) (XA.parse w))
  | 0x31#8 => some (.xred (fieldAt w 83 5) (XA.parse w))
  | 0x38#8 => some (.xbinit (fieldAt w 83 5) (XA.parse w))
  | 0x39#8 => some (.xbadd (fieldAt w 83 5) (XA.parse w))
  | 0x3A#8 => some (.xbread (fieldAt w 83 5) (XA.parse w))
  | 0xFD#8 => some (.fence .x (Head.parse w) (FF.parse w))
  | 0xFE#8 => some (.nop .x (Head.parse w))
  | _ => none

/-- The instruction an OP of a stream's map names, before any check of its fields. -/
def rawParse (e : Stream) (w : InstrWord) : Option Instr :=
  match e with
  | .seq => parseSeq w
  | .m => parseM w
  | .v => parseV w
  | .x => parseX w

/-- The word of an instruction; zero for an event, which has no encoding. -/
def encode (i : Instr) : InstrWord :=
  match i with
  | .add h f => opWord 0x01 h ||| f.enc
  | .sub h f => opWord 0x02 h ||| f.enc
  | .andS h f => opWord 0x03 h ||| f.enc
  | .orS h f => opWord 0x04 h ||| f.enc
  | .xorS h f => opWord 0x05 h ||| f.enc
  | .shl h f => opWord 0x06 h ||| f.enc
  | .shr h f => opWord 0x07 h ||| f.enc
  | .sar h f => opWord 0x08 h ||| f.enc
  | .mul h f => opWord 0x09 h ||| f.enc
  | .mulhu h f => opWord 0x0A h ||| f.enc
  | .mulh h f => opWord 0x0B h ||| f.enc
  | .minS h f => opWord 0x0C h ||| f.enc
  | .maxS h f => opWord 0x0D h ||| f.enc
  | .minu h f => opWord 0x0E h ||| f.enc
  | .maxu h f => opWord 0x0F h ||| f.enc
  | .addi h f => opWord 0x11 h ||| f.enc
  | .li h f => opWord 0x12 h ||| f.enc
  | .andi h f => opWord 0x13 h ||| f.enc
  | .ori h f => opWord 0x14 h ||| f.enc
  | .xori h f => opWord 0x15 h ||| f.enc
  | .shli h f => opWord 0x16 h ||| f.enc
  | .shri h f => opWord 0x17 h ||| f.enc
  | .sari h f => opWord 0x18 h ||| f.enc
  | .muli h f => opWord 0x19 h ||| f.enc
  | .cmp h f => opWord 0x20 h ||| f.enc
  | .cmpi h f => opWord 0x21 h ||| f.enc
  | .pand h f => opWord 0x22 h ||| f.enc
  | .por h f => opWord 0x23 h ||| f.enc
  | .pxor h f => opWord 0x24 h ||| f.enc
  | .pnot h f => opWord 0x25 h ||| f.enc
  | .br h f => opWord 0x30 h ||| f.enc
  | .call h f => opWord 0x31 h ||| f.enc
  | .ret h => opWord 0x32 h
  | .loopReg h f => opWord 0x34 h ||| f.enc
  | .loopi h f => opWord 0x35 h ||| f.enc
  | .disp h f => opWord 0x40 h ||| f.enc
  | .waitWord h f => opWord 0x41 h ||| f.enc
  | .nextTile h => opWord 0x42 h
  | .endShareWord h => opWord 0x43 h
  | .palign h f => opWord 0x44 h ||| f.enc
  | .rdtick h f => opWord 0x45 h ||| f.enc
  | .rdscyc h f => opWord 0x46 h ||| f.enc
  | .rdlbt h f => opWord 0x47 h ||| f.enc
  | .ld h f => opWord 0x50 h ||| f.enc
  | .st h f => opWord 0x51 h ||| f.enc
  | .shld h f => opWord 0x53 h ||| f.enc
  | .shset h f => opWord 0x54 h ||| f.enc
  | .shget h f => opWord 0x55 h ||| f.enc
  | .barInit h f => opWord 0x60 h ||| f.enc
  | .barArr h f => opWord 0x61 h ||| f.enc
  | .barWait h f => opWord 0x62 h ||| f.enc
  | .barSync h f => opWord 0x63 h ||| f.enc
  | .barRed h f => opWord 0x64 h ||| f.enc
  | .trapWord h f => opWord 0x70 h ||| f.enc
  | .brk h => opWord 0x71 h
  | .rdsys h f => opWord 0xE0 h ||| f.enc
  | .wrsys h f => opWord 0xE1 h ||| f.enc
  | .sret h => opWord 0xE2 h
  | .sretFault h => opWord 0xE2 h ||| place 61 1#1
  | .lres h => opWord 0xE3 h
  | .labn h => opWord 0xE4 h
  | .drain h => opWord 0xE5 h
  | .pswap h => opWord 0xE6 h
  | .tlbiVa h f => opWord 0xE7 h ||| f.enc
  | .tlbiAsid h f => opWord 0xE8 h ||| f.enc
  | .tlbiAll h => opWord 0xE9 h
  | .errrd h f => opWord 0xEA h ||| f.enc
  | .errclr h f => opWord 0xEB h ||| f.enc
  | .parkrd h f => opWord 0xEC h ||| f.enc
  | .barKill h f => opWord 0xED h ||| f.enc
  | .fence _ h f => opWord 0xFD h ||| f.enc
  | .nop _ h => opWord 0xFE h
  | .vadd g f => engWord 0x01 g ||| f.enc
  | .vsub g f => engWord 0x02 g ||| f.enc
  | .vmul g f => engWord 0x03 g ||| f.enc
  | .vfma g f => engWord 0x04 g ||| f.enc
  | .vfms g f => engWord 0x05 g ||| f.enc
  | .vfnma g f => engWord 0x06 g ||| f.enc
  | .vdiv g f => engWord 0x07 g ||| f.enc
  | .vsqrt g f => engWord 0x08 g ||| f.enc
  | .vmin g f => engWord 0x09 g ||| f.enc
  | .vmax g f => engWord 0x0A g ||| f.enc
  | .vabs g f => engWord 0x0B g ||| f.enc
  | .vneg g f => engWord 0x0C g ||| f.enc
  | .vadds g f => engWord 0x0D g ||| f.enc
  | .vsubs g f => engWord 0x0E g ||| f.enc
  | .vmulh g f => engWord 0x0F g ||| f.enc
  | .vand g f => engWord 0x10 g ||| f.enc
  | .vor g f => engWord 0x11 g ||| f.enc
  | .vxor g f => engWord 0x12 g ||| f.enc
  | .vnot g f => engWord 0x13 g ||| f.enc
  | .vshl g f => engWord 0x14 g ||| f.enc
  | .vshr g f => engWord 0x15 g ||| f.enc
  | .vsar g f => engWord 0x16 g ||| f.enc
  | .vrot g f => engWord 0x17 g ||| f.enc
  | .vclmul g f => engWord 0x18 g ||| f.enc
  | .vpopc g f => engWord 0x19 g ||| f.enc
  | .vclz g f => engWord 0x1A g ||| f.enc
  | .vsel g f => engWord 0x1B g ||| f.enc
  | .vbidx g f => engWord 0x1C g ||| f.enc
  | .vbcmp g f => engWord 0x1D g ||| f.enc
  | .vmov g f => engWord 0x1E g ||| f.enc
  | .vsplat g f => engWord 0x1F g ||| f.enc
  | .vcmp g f => engWord 0x20 g ||| f.enc
  | .mand g f => engWord 0x21 g ||| f.enc
  | .mor g f => engWord 0x22 g ||| f.enc
  | .mxor g f => engWord 0x23 g ||| f.enc
  | .mnot g f => engWord 0x24 g ||| f.enc
  | .mfromv g f => engWord 0x25 g ||| f.enc
  | .mtov g f => engWord 0x26 g ||| f.enc
  | .vcvt g f => engWord 0x30 g ||| f.enc
  | .vmxq g f => engWord 0x38 g ||| f.enc
  | .vmxd g f => engWord 0x39 g ||| f.enc
  | .vredadd g f => engWord 0x40 g ||| f.enc
  | .vredmin g f => engWord 0x41 g ||| f.enc
  | .vredmax g f => engWord 0x42 g ||| f.enc
  | .vredand g f => engWord 0x43 g ||| f.enc
  | .vredor g f => engWord 0x44 g ||| f.enc
  | .vredxor g f => engWord 0x45 g ||| f.enc
  | .vscanadd g f => engWord 0x46 g ||| f.enc
  | .vscanmin g f => engWord 0x47 g ||| f.enc
  | .vscanmax g f => engWord 0x48 g ||| f.enc
  | .vscanxor g f => engWord 0x49 g ||| f.enc
  | .vtrn g f => engWord 0x50 g ||| f.enc
  | .vperm g f => engWord 0x51 g ||| f.enc
  | .vshuf g f => engWord 0x52 g ||| f.enc
  | .vslide g f => engWord 0x53 g ||| f.enc
  | .vcompress g f => engWord 0x54 g ||| f.enc
  | .vexpand g f => engWord 0x55 g ||| f.enc
  | .vld g f => engWord 0x60 g ||| f.enc
  | .vst g f => engWord 0x61 g ||| f.enc
  | .mld g f => engWord 0x62 g ||| f.enc
  | .mst g f => engWord 0x63 g ||| f.enc
  | .vfclr g f => engWord 0x65 g ||| f.enc
  | .vfrd g f => engWord 0x66 g ||| f.enc
  | .vtol g f => engWord 0x70 g ||| f.enc
  | .vfroml g f => engWord 0x71 g ||| f.enc
  | .lmul g f => engWord 0x72 g ||| f.enc
  | .ldiv g f => engWord 0x73 g ||| f.enc
  | .lroot g f => engWord 0x74 g ||| f.enc
  | .lpow g f => engWord 0x75 g ||| f.enc
  | .frsqrt g f => engWord 0x78 g ||| f.enc
  | .frcp g f => engWord 0x79 g ||| f.enc
  | .fsqrt g f => engWord 0x7A g ||| f.enc
  | .fexp2 g f => engWord 0x7B g ||| f.enc
  | .flog2 g f => engWord 0x7C g ||| f.enc
  | .fsigm g f => engWord 0x7D g ||| f.enc
  | .ftanh g f => engWord 0x7E g ||| f.enc
  | .fsilu g f => engWord 0x7F g ||| f.enc
  | .vrng g f => engWord 0x80 g ||| f.enc
  | .vrotw g f => engWord 0x81 g ||| f.enc
  | .qfrom g f => engWord 0x90 g ||| f.enc
  | .qto g f => engWord 0x91 g ||| f.enc
  | .qcos g f => engWord 0x92 g ||| f.enc
  | .qdot g f => engWord 0x93 g ||| f.enc
  | .qscl g f => engWord 0x94 g ||| f.enc
  | .qadd g f => engWord 0x95 g ||| f.enc
  | .qsub g f => engWord 0x96 g ||| f.enc
  | .qlerp g f => engWord 0x97 g ||| f.enc
  | .qneg g f => engWord 0x98 g ||| f.enc
  | .qrms g f => engWord 0x99 g ||| f.enc
  | .qq8 g f => engWord 0x9A g ||| f.enc
  | .qnget g f => engWord 0x9B g ||| f.enc
  | .qnset g f => engWord 0x9C g ||| f.enc
  | .qcls g f => engWord 0x9D g ||| f.enc
  | .qmov g f => engWord 0x9E g ||| f.enc
  | .qld g f => engWord 0xA0 g ||| f.enc
  | .qst g f => engWord 0xA1 g ||| f.enc
  | .mwld g f => engWord 0x10 g ||| f.enc
  | .macc g f => engWord 0x20 g ||| f.enc
  | .mclr g f => engWord 0x30 g ||| f.enc
  | .mepi g f => engWord 0x40 g ||| f.enc
  | .mflg g f => engWord 0x50 g ||| f.enc
  | .mfclr g f => engWord 0x51 g ||| f.enc
  | .xchNd g f => engWord 0x10 g ||| f.enc
  | .xchNm g f => engWord 0x11 g ||| f.enc
  | .xchDm g f => engWord 0x12 g ||| f.enc
  | .xchNp g f => engWord 0x13 g ||| f.enc
  | .xchAm g f => engWord 0x14 g ||| f.enc
  | .xsend g f => engWord 0x20 g ||| f.enc
  | .xland g f => engWord 0x21 g ||| f.enc
  | .xpush g f => engWord 0x22 g ||| f.enc
  | .xatom g f => engWord 0x30 g ||| f.enc
  | .xred g f => engWord 0x31 g ||| f.enc
  | .xbinit g f => engWord 0x38 g ||| f.enc
  | .xbadd g f => engWord 0x39 g ||| f.enc
  | .xbread g f => engWord 0x3A g ||| f.enc
  | .sectionStart _ _ => 0
  | .sectionRetire _ _ => 0
  | .resultLanding _ _ => 0
  | .accessPerform _ _ _ => 0
  | .bankConflictEnd _ => 0
  | .farDataArrival _ _ => 0
  | .landingDue _ _ => 0
  | .exchangeCommit _ _ => 0
  | .writeBackDone _ _ => 0
  | .pathFailure _ _ => 0
  | .atomicPerform _ _ => 0
  | .mergedEntryApply _ => 0
  | .payloadDelivery _ _ => 0
  | .inflowPush _ _ => 0
  | .creditRefill _ => 0
  | .beaconSend _ => 0
  | .beaconReceive _ _ => 0
  | .beaconTimeout _ _ => 0
  | .releaseSend _ => 0
  | .releaseReceive _ _ => 0
  | .palignExitTick _ _ => 0
  | .palignLocalResume _ => 0
  | .barrierArrival _ _ => 0
  | .barrierDone _ _ => 0
  | .frzlimExpiry _ => 0
  | .trapEntry _ => 0
  | .lateEntry _ => 0
  | .replay _ => 0
  | .preemptEntry _ => 0
  | .prelimExpiry _ => 0
  | .ctxWrite _ _ => 0
  | .frzlimWrite _ _ => 0
  | .shareEnd _ => 0
  | .launchStop _ => 0
  | .tileEntry _ => 0
  | .parameterSwapIn _ => 0
  | .parameterSwapOut _ => 0
  | .launchCompletion _ => 0
  | .rtailWrite _ _ _ => 0
  | .rbaseWrite _ _ _ => 0
  | .szWrite _ _ => 0
  | .rerrClear _ => 0
  | .submit _ _ => 0
  | .launchReady _ _ => 0
  | .agingStep _ _ => 0
  | .acceptance _ => 0
  | .staging _ _ => 0
  | .startToken _ => 0
  | .hardwareFlip _ => 0
  | .outrankPreempt _ _ => 0
  | .translationWalk _ _ _ => 0
  | .hostWrite _ _ _ => 0
  | .hostRead _ _ => 0
  | .registerWrite _ _ => 0
  | .errorEvent _ _ => 0
  | .errorBankRead _ _ => 0
  | .errorRecordClear _ _ => 0
  | .frameRetry _ _ => 0
  | .podRetransmit _ => 0
  | .podFrameReceive _ => 0
  | .watchdogExpiry _ => 0
  | .blotterUnfreeze _ => 0
  | .clockMark _ _ => 0
  | .debugStop _ _ => 0
  | .debugRun _ => 0
  | .debugStep _ _ => 0
  | .stepEnd _ => 0
  | .debugWrite _ _ _ => 0
  | .frequencyChange _ => 0
  | .clockStretch _ => 0
  | .thermalLower => 0
  | .thermalRaise => 0
  | .thermalStop => 0
  | .retrainEntry _ _ => 0
  | .retrainExit _ _ => 0
  | .retrainWaitExpiry _ => 0
  | .powerOn _ => 0
  | .dieWarm _ => 0
  | .moduleWarm _ => 0
  | .selfTest _ => 0
  | .startReady => 0
  | .startFail _ => 0
  | .mailboxTake _ => 0
  | .nibInfo => 0
  | .nibNonce => 0
  | .nibQuote => 0
  | .nibUnlock => 0
  | .nibExtend => 0
  | .nibPartset => 0
  | .nibKeygen => 0
  | .nibKeyclr => 0
  | .nibRecover => 0
  | .nibClrfail => 0
  | .powerLoss => 0
  | .partReset => 0
  | .functionLevelReset => 0
  | .hostLinkRecovery => 0
  | .dieReadsZeroCelsius => 0

/-- The instruction a word of a stream is; none where it raises ILLOP (R157, R171). -/
def decode (e : Stream) (w : InstrWord) : Option Instr :=
  match rawParse e w with
  | some i => if wf i && encode i == w then some i else none
  | none => none

/-- Bytes of a word in memory order, byte i holding bits 8i + 7 to 8i (R154). -/
def wordBytes (w : InstrWord) : List Byte := (List.range 12).map (fun i => fieldAt w (8 * i) 8)

/-- The number a list of bytes is, the first byte least significant (R154). -/
def natOfBytes : List Byte → Nat
  | [] => 0
  | b :: bs => b.toNat + 256 * natOfBytes bs

/-- The little-endian bytes of a number. -/
def bytesOfNat : Nat → Nat → List Byte
  | 0, _ => []
  | n + 1, x => BitVec.ofNat 8 x :: bytesOfNat n (x / 256)

/-- The word held in the first 12 bytes of a list, if there are 12. -/
def wordOfBytes (bs : List Byte) : Option InstrWord :=
  if 12 ≤ bs.length then some (BitVec.ofNat 96 (natOfBytes (bs.take 12))) else none

/-- The instruction at the front of a stream's bytes with the bytes after it; none where it is refused. -/
def decodeBytes (e : Stream) (bs : List Byte) : Option (Instr × List Byte) :=
  match wordOfBytes bs with
  | some w =>
    match decode e w with
    | some i => some (i, bs.drop 12)
    | none => none
  | none => none

/-- The stream a table word is read in: its bits above the word's 96 name it (0 sequencer, 1 M, 2 V, 3 X).
The table's rows carry no bits; a row of 96 bits or fewer is read as a control-stream word. -/
def tableStream (nbits w : Nat) : Stream :=
  if nbits ≤ 96 then .seq
  else
    match (w / 2 ^ 96) % 4 with
    | 0 => .seq
    | 1 => .m
    | 2 => .v
    | _ => .x

/-- The word a table word stands for: its low 96 bits, the bits above `nbits` zero. -/
def tableWord (nbits w : Nat) : InstrWord := BitVec.ofNat 96 (w % 2 ^ nbits)

/-- The instruction the decoder reads from a word numbered as the opcode table numbers it. -/
def decodeTableWord (nbits w : Nat) : Option Instr :=
  (decodeBytes (tableStream nbits w) (wordBytes (tableWord nbits w))).map Prod.fst

/-! ### Section headers (R42, R156) -/

/-- The fields of a section header. -/
structure Header where
  tag : BitVec 4
  secno : BitVec 12
  len : BitVec 12
  after1 : BitVec 12
  after2 : BitVec 12
  tile : Bool
  rot : Bool
  drain : Bool
  rest : BitVec 9
  deriving DecidableEq, Repr

/-- The header held in 64 bits (R42). -/
def Header.parse (w : Word) : Header :=
  { tag := fieldAt w 60 4, secno := fieldAt w 48 12, len := fieldAt w 36 12, after1 := fieldAt w 24 12,
    after2 := fieldAt w 12 12, tile := w.getLsbD 11, rot := w.getLsbD 10, drain := w.getLsbD 9,
    rest := fieldAt w 0 9 }

/-- The header is faulty in a stream (R156). -/
def Header.faulty (e : Stream) (h : Header) : Bool :=
  h.tag != 0b1010 || h.len == 0 || h.secno == 0xFFF || h.rest != 0 || (h.rot && e != .v)

end Sys2Proof
end

