-- ==== Sys2Proof/Machine/State.lean ====
section
/-! DEFINITION. The state of the package: every core, die, channel, partition, Nib and the host port, as plain
data; the reasons a step can stop; and the machine right after reset. -/

namespace Sys2Proof.Machine

/-! ### Stored words -/

/-- Bytes by address, with the numbers of the 8-byte words marked poisoned, rising (R4, R366, R367). A byte
that is not listed reads zero. -/
structure Store where
  bytes : Mem
  poison : List Nat
  deriving DecidableEq, Repr

/-- Nothing listed. -/
def Store.empty : Store := ⟨[], []⟩

/-! ### Sequencer -/

/-- One bank of the sequencer's registers (R173, R302). -/
structure Bank where
  s : Vector Word 32
  p : BitVec 8
  lc : Vector (BitVec 32) 4
  lstart : Vector (BitVec 14) 4
  lend : Vector (BitVec 14) 4
  stack : Vector (BitVec 14) 16
  depth : BitVec 5
  deriving DecidableEq, Repr

/-- A barrier slot (R197, R305). -/
structure BSlot where
  c : BitVec 20
  scope : BitVec 3
  arrived : Bool
  done : Bool
  deriving DecidableEq, Repr

/-- What a completion brought a core, kept by launch until the wait is left (R197-R200): the generation's result, and
whether its participants leave with BARSEQ. No register holds it, so a switch of contexts leaves it in place. -/
structure BarResult where
  launch : Nat
  sup : Bool
  bar : BitVec 9
  val : Option Word
  bad : Bool
  deriving DecidableEq, Repr

/-- A recorded trap (R289, R307, R309). `resume` is the index `sret` returns to when the trap is one a
sequencer word raised; none where it is the boundary's next word. -/
structure TrapRec where
  cause : BitVec 8
  sub : BitVec 8
  eng : Stream
  secno : BitVec 12
  widx : BitVec 14
  addr : Word
  resume : Option (BitVec 14)
  /-- Raised by the supervisor or by a section it dispatched (R304, R325). -/
  sup : Bool
  deriving DecidableEq, Repr

/-- A barrier wait (R198): the barrier, its scope, and the destination of a `bar.red`. -/
structure BarWait where
  bar : BitVec 9
  scope : BitVec 3
  dst : Option (BitVec 5)
  deriving DecidableEq, Repr

/-- What holds the core (R24). A late landing is read off the pending accesses. -/
structure Freeze where
  /-- A bank-conflict freeze holds, with its ticks left (R18). -/
  bankOn : Bool
  bank : Nat
  /-- The last tick was frozen by a late landing: the core resumes on the tick after the data came (R68). -/
  lateOn : Bool
  /-- PALIGN's scope and target (R190). -/
  align : Option (BitVec 3 × Word)
  /-- A barrier wait. -/
  bar : Option BarWait
  /-- PALIGN or the barrier wait began in this cycle and holds from the next. -/
  start : Bool
  /-- GAP of the freezing word, spent when the freeze ends. -/
  gap : BitVec 5
  /-- Consecutive ticks frozen by a counted cause (R70). -/
  run : Nat
  /-- Ticks of the freeze under way, for its trace record (R389). -/
  ticks : Nat
  deriving DecidableEq, Repr

/-- The point a LATE entry froze at, to which `lres` and `labn` return (R312, R324). -/
structure LateFrame where
  pc : BitVec 14
  wait : Nat
  ended : Bool
  freeze : Freeze
  /-- Accesses still under way below this identity, and the sections that ran, stand still until the return. -/
  nid : Nat
  runs : Vector Bool 3
  deriving DecidableEq, Repr

/-- A checkpoint (R314). -/
structure Ckpt where
  thr : Bank
  word : BitVec 14
  scyc : Word
  rb : BitVec 5
  vflg : BitVec 32
  tflg : Vector Word 2
  /-- The engines' most recent DISPs, which the re-issued words check AFTER against (log entry 19). -/
  last : Vector (Option (Nat × BitVec 12)) 3
  /-- The tile, for a window that crosses a `next` (log entry 19). -/
  tile : Nat
  deriving DecidableEq, Repr

/-- What the words of a replay window have read, cleared and written (R315, R316). -/
structure Window where
  /-- Near slots a word of the window read. -/
  nearRead : List Nat
  /-- Vector, mask, shape, quill registers and latches read, each by class and index. -/
  regRead : List (Nat × Nat)
  /-- Tiles an `mclr` of the window cleared. -/
  cleared : List Bool
  /-- Tiles a word of the window wrote. -/
  wrote : List Bool
  /-- Latches an `mwld` of the window loaded. -/
  loaded : List Bool
  deriving DecidableEq, Repr

/-- Sequencer and privileged state (R173, R302-R306, R314-R318). -/
structure Seq where
  /-- SSTAT.S, PS, SEN, RW (R306). -/
  sup : Bool
  ps : Bool
  sen : Bool
  rw : Bool
  /-- Thread bank and supervisor bank (R302). -/
  thr : Bank
  svr : Bank
  pc : BitVec 14
  /-- The thread's SCYC (R305). -/
  scyc : Word
  /-- Barrier slots 0-511; an unlisted slot is all zero. -/
  bslots : Sparse BSlot
  /-- Completions not yet used. -/
  results : List BarResult
  tinfo : Word
  taddr : Word
  tpc : BitVec 14
  /-- The resume index is the end of the share (R311). -/
  tpcEnd : Bool
  sbase : BitVec 14
  frzlim : Word
  /-- PREQ.REQ and PREQ.FORCE; PRELIM and the ticks since REQ (R305, R318). -/
  req : Bool
  force : Bool
  prelim : BitVec 32
  reqTicks : Nat
  tlate : BitVec 6
  asid : BitVec 16
  ctx : BitVec 32
  /-- REPL (R305). -/
  rpl : Bool
  count : BitVec 8
  total : BitVec 16
  late : Option LateFrame
  /-- Recorded traps, one per section and one of the control stream in each state (R289, R310). -/
  traps : List TrapRec
  /-- The core drains before a trap entry, a replay or a stop (R311). -/
  draining : Bool
  /-- PREEMPT fell due at a boundary and the core runs its sections out: whether that was no drain point (R318), and SCYC
  there, which the return finds again (R294, R323; log entry 65). -/
  pre : Option (Bool × Word)
  /-- LATE is raised: the results in flight land before its entry (R312). -/
  lateDue : Bool
  /-- Cycles until the next boundary (R78). -/
  wait : Nat
  /-- The word at PC performs only its wait half (R313). -/
  half : Bool
  /-- The control stream has ended its share (R57, R58). -/
  ended : Bool
  frz : Freeze
  ckpt : Option Ckpt
  win : Window
  /-- A pending `pswap` applied initial state, so the next `sret` ignores TPC (R347). -/
  fresh : Bool
  /-- Cycles left of the `sret` that returned, in which SCYC still stands (R305, R323). -/
  back : Nat
  /-- A check beside the next word's step is to fail (R368). The model's own. -/
  pipe : Bool
  deriving DecidableEq, Repr

/-! ### Engines -/

/-- An entry of a dispatch queue (R15, R59, R61, R144, R303, R311). -/
structure QEntry where
  secno : BitVec 12
  k : Vector Word 4
  sup : Bool
  /-- Held under HOLD until `drain` (R308, R325). -/
  held : Bool
  /-- The section tile (R205). -/
  tile : BitVec 40
  /-- Control-stream accesses pending at the DISP (R144). -/
  pre : List Nat
  /-- The most recent DISP to M, V, X before this one: its ordinal and section (R61). -/
  last : Vector (Option (Nat × BitVec 12)) 3
  /-- Written in this cycle (R60). -/
  fresh : Bool
  /-- An AFTER or header check failed at the head (R62, R156). -/
  failed : Bool
  deriving DecidableEq, Repr

/-- A running section. -/
structure Running where
  entry : QEntry
  hdr : Header
  /-- Byte offset in the plane of the section's first word. -/
  base : Nat
  /-- Index of the next word. -/
  next : Nat
  /-- Cycles until the next word, or until the last word's GAP has run out (R43, R64). -/
  wait : Nat
  /-- Stopped by a trap: no later word issues (R116, R289). -/
  stopped : Bool
  deriving DecidableEq, Repr

/-- One engine's dispatch state. -/
structure Engine where
  queue : List QEntry
  run : Option Running
  /-- Cycles until the GAP of the last section's last word has run out (R64). -/
  gap : Nat
  /-- Sections dispatched, and retired, since the launch began. -/
  disp : Nat
  retired : Nat
  /-- Entries retired of the launch whose share is in place (R381). -/
  ret : Nat
  /-- Ordinal and section of the most recent DISP. -/
  last : Option (Nat × BitVec 12)
  /-- Fences in force: mask, scope, and the accesses before them (R141). -/
  fences : List (BitVec 16 × Nat × List Nat)
  /-- Queue entries started since launch start, for the debug trigger of R380. -/
  started : Nat
  /-- A check beside the next word's step is to fail (R368). The model's own. -/
  pipe : Bool
  deriving DecidableEq, Repr

/-! ### Vector and matrix state -/

/-- A quill pair: directions and LN24 norm (R104, R105, R236). -/
structure Quill where
  dir : BitVec 2048
  norm : BitVec 24
  deriving DecidableEq, Repr

/-- A weight latch (R254); `planes` holds plane j's bit for W(k, n) at bit 128n + k. -/
structure Latch where
  full : Bool
  fmt : BitVec 4
  planes : List (BitVec 16384)
  trans : Bool
  sc : Bool
  /-- Scale of K-block b of column n at index 4n + b. -/
  scales : List Byte
  deriving DecidableEq, Repr

/-- Vector engine registers and shape registers (R205, R236, R167). -/
structure Vec where
  v : Vector (BitVec 4096) 64
  rb : BitVec 5
  m : Vector (BitVec 256) 8
  flg : BitVec 32
  sh : Vector (BitVec 512) 16
  q : Vector Quill 16
  deriving DecidableEq, Repr

/-- What a slot-by-slot read of the near store keeps between its beats: the slots already touched, and the blocks
of those an exchange has committed into since (R124). -/
structure Beats where
  seen : List Nat
  snap : List (Nat × Store)
  deriving DecidableEq, Repr

/-- A `mwld` reading its planes, then its scales, one beat a cycle (R259): `beat` is the next. -/
structure WLoad where
  wl : Bool
  sup : Bool
  ord : Nat
  widx : BitVec 14
  secno : BitVec 12
  fmt : BitVec 4
  trans : Bool
  sc : Bool
  base : Nat
  sbase : Nat
  planes : Nat
  beat : Nat
  got : List Byte
  at_ : Beats
  deriving DecidableEq, Repr

/-- A `macc` feeding the array (R262): row `row`, of which `got` and the scales `scs` are read, goes on in `wait`
cycles. -/
structure Feed where
  tile : Bool
  wl : Bool
  sup : Bool
  ord : Nat
  widx : BitVec 14
  secno : BitVec 12
  fmt : BitVec 4
  base : Nat
  rs : Int
  scale : Nat
  rows : Nat
  passes : Nat
  alsb : BitVec 10
  row : Nat
  wait : Nat
  got : List Byte
  scs : List Byte
  at_ : Beats
  deriving DecidableEq, Repr

/-- A `mepi` holding its tile and destination slots until its last write (R267). -/
structure Hold where
  tile : Bool
  ord : Nat
  widx : BitVec 14
  slots : List Nat
  deriving DecidableEq, Repr

/-- Matrix engine state (R254-R256, R262, R270). Cell (m, n) of tile t is at key 16,384 t + 128 m + n; an
unlisted cell is zero. Pairs are indexed by tile or latch. -/
structure Mat where
  cells : Sparse Word
  flg : Vector Word 2
  wl : Vector Latch 2
  /-- Cycles until the feed is free. -/
  feed : Nat
  /-- Cycles left of each latch's `mwld` window and of its use by a feed. -/
  load : Vector Nat 2
  used : Vector Nat 2
  /-- Cycles left of each tile's `macc` window and `mclr` window. -/
  macc : Vector Nat 2
  clr : Vector Nat 2
  loads : List WLoad
  feeds : List Feed
  /-- The beats of this cycle are still to be read. -/
  armed : Bool
  holds : List Hold
  /-- Cells held poisoned (R367), by key, rising. -/
  bad : List Nat
  deriving DecidableEq, Repr

/-- A write of the bits `mask` of a physical vector register with the bits of `val`, in elements of `w` bits. -/
structure VWrite where
  reg : BitVec 6
  w : Nat
  mask : BitVec 4096
  val : BitVec 4096
  deriving DecidableEq, Repr

/-- What a result writes when it lands. -/
inductive Land where
  /-- A scalar of the thread bank or of the supervisor bank. -/
  | sreg (sup : Bool) (i : BitVec 5) (v : Word)
  /-- Vector registers, in one event. -/
  | vec (ws : List VWrite)
  /-- The bits `w` of a mask. -/
  | mask (i : BitVec 3) (w v : BitVec 256)
  /-- The bits `w` of a shape register. -/
  | shape (i : BitVec 4) (w v : BitVec 512)
  | quill (i : BitVec 4) (q : Quill)
  /-- Near bytes of an epilogue or a flag store. -/
  | near (bytes : Mem)
  /-- Clears flags of VFLG (R227). -/
  | vflgClear (bits : BitVec 32)
  /-- Clears a tile and its flags (R263). -/
  | tileClear (t : Bool)
  /-- Clears a tile's flags (R268). -/
  | tflgClear (t : Bool)
  /-- Sets flags of a tile. -/
  | tflgSet (t : Bool) (bits : Word)
  | latch (w : Bool) (l : Latch)
  /-- A `macc` row's contributions, four per column, to row `m` of a tile (R261). -/
  | row (t : Bool) (m : Nat) (cs : List (List Int)) (inv ovf : Bool)
  /-- TLB invalidations (R327). -/
  | tlbVa (asid : BitVec 16) (va : BitVec 52)
  | tlbAsid (asid : BitVec 16)
  | tlbAll
  | errclr (bank : BitVec 4)
  /-- `parkrd` (R329). -/
  | park (entry slot : BitVec 8) (sup : Bool) (dst : BitVec 5)
  /-- `bar.kill` (R330). -/
  | kill (bar : BitVec 9) (scope : BitVec 3)
  deriving DecidableEq, Repr

/-- A result in flight (R22, R65). -/
structure Result where
  strm : Stream
  ord : Nat
  widx : BitVec 14
  /-- Cycles until its bound. -/
  due : Nat
  /-- Lands only at its bound. -/
  exact : Bool
  /-- What landed at the same places within its window (R23). -/
  raced : List Land
  flags : BitVec 32
  land : Land
  deriving DecidableEq, Repr

/-! ### Accesses that do not perform at issue -/

/-- Where a byte lives (R135): a near store, the die stores by die byte address, main memory by physical byte address,
another package. A main access also names its virtual bytes, under its ASID, for the walker. -/
inductive Space where
  | near | die
  | main (asid : BitVec 16)
  /-- Main memory by physical byte address. -/
  | phys
  | pod (pkg : Nat)
  deriving DecidableEq, Repr

/-- A run of bytes an access touches. -/
structure Foot where
  sp : Space
  addr : Nat
  len : Nat
  deriving DecidableEq, Repr

/-- One event of a load or store (R148). -/
structure Piece where
  addr : Nat
  len : Nat
  /-- The bytes written, or the bytes read once performed. -/
  data : List Byte
  /-- Of a store: which bits of the bytes it writes. -/
  en : List Byte
  done : Bool
  poisoned : Bool
  deriving DecidableEq, Repr

/-- Where a die load's bytes go. -/
inductive LoadDst where
  | sreg (sup : Bool) (i : BitVec 5)
  /-- Elements (index, address) of width `w` bits of a physical register, at `nib` when a high nibble; bits to
  be written besides them are zero. -/
  | vreg (reg : BitVec 6) (w : Nat) (els : List (Nat × Nat × Bool)) (mask : BitVec 4096)
  | quill (i : BitVec 4)
  deriving DecidableEq, Repr

/-- A leaf of the page tables as a request uses it (R355, R360). -/
structure Leaf where
  pbn : Nat
  key : BitVec 11
  at_ : Bool
  w : Bool
  deriving DecidableEq, Repr

/-- How far a translation has come. -/
inductive Xlat where
  /-- Waiting for the walker. -/
  | wait
  | ok (l : Leaf)
  /-- Fault of a kind at a level (R357). -/
  | bad (kind : BitVec 8) (level : Nat)
  deriving DecidableEq, Repr

/-- Exchange forms in the order of R274. -/
inductive Form where
  | nd | nm | dm | np | am
  deriving DecidableEq, Repr

/-- An exchange from its issue to its commit (R121). -/
structure Xch where
  form : Form
  /-- Near-side blocks: near slots, die block addresses, or accumulator blocks. -/
  near : List Nat
  /-- Far-side blocks: die block addresses or VBNs. -/
  far : List Nat
  pkg : Nat
  farVal : Word
  xl : List Xlat
  /-- Outgoing copies, and far-side data once arrived. -/
  out : List Store
  inn : List Store
  arrived : Bool
  /-- The near side is read. -/
  taken : Bool
  deriving DecidableEq, Repr

/-- An atomic (R282-R285). `aop` 10, 11, 12 stand for `xbinit`, `xbadd`, `xbread`. -/
structure Atom where
  aop : Nat
  bytes : Nat
  main : Bool
  addr : Nat
  v : Word
  cv : Word
  xl : Xlat
  /-- The near destination of a returning word. -/
  dst : Option Nat
  /-- Joined an entry, or performed with this old value. -/
  joined : Bool
  old : Option Word
  poisoned : Bool
  deriving DecidableEq, Repr

/-- What a pending access does. -/
inductive AccKind where
  | load (ps : List Piece) (dst : LoadDst)
  | store (ps : List Piece)
  | atom (a : Atom)
  | xch (x : Xch)
  /-- `xsend` (TAG in `tag`) to a core, or over the pod to partition index `dest` of `pkg`. -/
  | send (pkg : Option Nat) (dest tag : Nat) (data : Store) (len : Nat)
  | push (pkg : Option Nat) (dest : Nat) (data : Store) (len : Nat)
  /-- `xland`: from package, sender, tag; LEN bytes to near address. -/
  | land (pkg : Option Nat) (src tag addr len : Nat)
  /-- A barrier arrival. -/
  | arrive (bar : BitVec 9) (scope : BitVec 3) (c : BitVec 20) (fn : Option (BitVec 3)) (v : Word)
  deriving DecidableEq, Repr

/-- An access pending at its memory path (R138, R142). -/
structure Acc where
  id : Nat
  strm : Stream
  ord : Nat
  secno : BitVec 12
  widx : BitVec 14
  cls : BitVec 4
  /-- The smallest scope that holds its homes; 0 where it touches no byte (R136). -/
  reach : Nat
  foot : List Foot
  /-- Scope as an acquire and as a release; 0 for neither. -/
  acq : Nat
  rel : Nat
  /-- Accesses ordered before it that had not performed when it issued. -/
  after : List Nat
  /-- Cycles until its arrival cycle. -/
  due : Option Nat
  /-- Cycles left of the bound within which it performs where nothing holds it (R172). -/
  by_ : Option Nat
  /-- Issued under supervisor state. -/
  sup : Bool
  /-- Blocks of die slots whose first beat came before an exchange's commit (R124). -/
  snap : List (Nat × Store)
  /-- What landed at its destination within its window (R23). -/
  raced : List Land
  kind : AccKind
  deriving DecidableEq, Repr

/-- A block's place in main memory: of this package by PBN, or of another by a place number (R117, R118). -/
structure Home where
  pod : Bool
  pbn : Nat
  deriving DecidableEq, Repr

/-- A home a write-back is to write: key and block, and the beats that have passed the port, which a change of the key
finds written (R365). -/
structure HomeWrite where
  home : Home
  key : BitVec 11
  block : Store
  passed : Nat
  deriving DecidableEq, Repr

/-- A committed exchange writing back (R121). -/
structure WriteBack where
  id : Nat
  homes : List HomeWrite
  /-- Blocks it holds in the exchange buffer. -/
  blocks : Nat
  /-- Of a supervisor section, whose exchange restores a parked home (R378). -/
  sup : Bool
  token : BitVec 20
  deriving DecidableEq, Repr

/-- A payload in a landing buffer or receiver hold (R277, R320). -/
structure Payload where
  /-- The launch it is addressed to. -/
  launch : Nat
  pkg : Option Nat
  src : Nat
  tag : Nat
  len : Nat
  data : Store
  /-- An inflow entry rather than an `xsend` payload. -/
  push : Bool
  deriving DecidableEq, Repr

/-- Exchange engine state (R271). -/
structure XEng where
  landing : List Payload
  inflow : List Payload
  /-- Pushes that met a full inflow queue, in arrival order: core and access of a sender in the package, and what they
  bring (R279). -/
  waiting : List (Option (Nat × Nat) × Payload)
  credits : Nat
  /-- Cycles since the last credit (R133). -/
  credit : Nat
  accs : List Acc
  wbs : List WriteBack
  flight : List Result
  /-- Abandoned `xland` words whose payload is still to come and to be discarded: launch, package, sender, tag (R70). -/
  voids : List (Nat × Option Nat × Nat × Nat)
  /-- The next access identity. -/
  nid : Nat
  deriving DecidableEq, Repr

/-! ### Shares, planes, observation -/

/-- An instruction plane with what its image's header and state block give (R155, R345). -/
structure Plane where
  code : Mem
  len : Nat
  sbase : BitVec 14
  sen : Bool
  shapes : Mem
  /-- 8-byte words held poisoned (R366), rising. -/
  bad : List Nat
  /-- Slot images by slot number. -/
  slots : List (Nat × Store)
  /-- Submission number of the launch it was staged for. -/
  launch : Option Nat
  /-- Apply initial state at the flip (R346, R347). -/
  init : Bool
  deriving DecidableEq, Repr

/-- Where a core stands in its share of a launch (R53-R58, R348). -/
inductive Phase where
  /-- No launch. -/
  | idle
  /-- Flipped; waits for the start token. -/
  | flipped
  /-- Swapping its parameter block in. -/
  | swapIn
  /-- Waits in the implicit PALIGN before its first tile. -/
  | aligning
  /-- Its next tile entry is due. -/
  | entry
  | running
  /-- Share ending: sections run out, exchanges commit. -/
  | ending
  /-- Swapping its parameter block out. -/
  | swapOut
  | done
  deriving DecidableEq, Repr

/-- A core's share. -/
structure Share where
  phase : Phase
  launch : Nat
  /-- The CTX it ran under, once it was switched out (R320). -/
  ctx : Option (BitVec 32)
  part : Nat
  lcore : Nat
  n : Nat
  tile : Nat
  tiles : Nat
  lbt : Word
  seed : Word
  parvbn : Nat
  dims : List Nat
  order : List Nat
  serp : BitVec 8
  token : BitVec 20
  /-- The share ended, or is to end, with FAULT (R58). -/
  fault : Bool
  /-- A launch stop is due (R58). -/
  stop : Bool
  /-- While the share is away: the engines' most recent DISPs of its launch (R61), the entries they started and retired. -/
  last : Vector (Option (Nat × BitVec 12)) 3
  counts : Vector (Nat × Nat) 3
  /-- And the credit bucket as it stood (R133, R319). -/
  credits : Nat
  credit : Nat
  deriving DecidableEq, Repr

/-- An entry of a TLB (R360): the partition it was walked for, page number VA >> 16, level of its leaf, entry word. -/
structure TlbEntry where
  part : Nat
  asid : BitVec 16
  vpage : Nat
  level : Nat
  entry : Word
  deriving DecidableEq, Repr

/-- A loop snapshot (R388, R392). -/
structure Snapshot where
  seq : BitVec 32
  lc : BitVec 2
  lend : BitVec 14
  scyc : Word
  tick : Word
  frz : Vector Word 4
  cmx : Sparse (BitVec 32)
  deriving DecidableEq, Repr

/-- Observation and debug state of a core (R379-R388, R392). -/
structure Obs where
  /-- Frozen ticks: conflict, late landing, barrier, PALIGN (R386). -/
  frz : Vector Word 4
  /-- Conflict matrix at key 16 r + b (R387); an unlisted counter is zero. -/
  cmx : Sparse (BitVec 32)
  snap : Snapshot
  /-- Beats for the coming cycles, this cycle first: requester and address (R18). -/
  beats : List (List (Nat × Nat))
  /-- The beats of the cycle that a bank-conflict freeze serves (R387). -/
  jam : List (Nat × Nat)
  wdog : BitVec 32
  wdogCnt : Nat
  /-- A word issued in this tick. -/
  issued : Bool
  /-- A blotter trigger other than a stop was met in this cycle; the stop for the entry under way was made (R380). -/
  hit : Bool
  entryStop : Bool
  ben : Bool
  bfrozen : Bool
  btrig : BitVec 6
  wptr : BitVec 8
  /-- Blotter records; an unlisted record is zero. -/
  blot : Sparse (BitVec 128)
  /-- TICK of the blotter's last record, and whether a clock mark is due before its next. -/
  blast : Word
  bmark : Bool
  /-- Ticks since the blotter's last clock mark (R390). -/
  bsince : Nat
  stopped : Bool
  code : BitVec 3
  /-- Cycles left to step (R382). -/
  steps : Option Nat
  cut : Vector Word 6
  bpc : Option (BitVec 14)
  bpn : Vector (Option Nat) 3
  dtick : Option Word
  deriving DecidableEq, Repr

/-- One core. -/
structure Core where
  seq : Seq
  em : Engine
  ev : Engine
  ex : Engine
  /-- Fences of the control stream (R141, R201). -/
  fences : List (BitVec 16 × Nat × List Nat)
  vec : Vec
  mat : Mat
  x : XEng
  near : Store
  cur : Plane
  shd : Plane
  share : Share
  /-- Shares of pre-empted launches that are resident (R343, R347). -/
  saved : List Share
  tlb : List TlbEntry
  /-- Register words held poisoned (R366, R367), by class, index and word: 0 vector, 1 mask, 2 shape, 3 quill pair,
  4 latch, 5 thread scalar, 6 supervisor scalar. -/
  badReg : List (Nat × Nat × Nat)
  obs : Obs
  deriving DecidableEq, Repr

/-! ### Dies -/

/-- A message on a Fadric sideband (R72, R74), with the receiver ticks since it was sent. -/
inductive SideMsg where
  | beacon (src : Nat) (v : Word)
  | release (src part : Nat) (v : Word)
  deriving DecidableEq, Repr

/-- A release a die sent, with its exit tick, or received (R74). -/
structure Release where
  part : Nat
  value : Word
  /-- Exit tick of a release sent; none for one received. -/
  exit : Option Word
  deriving DecidableEq, Repr

/-- A block parked in the recovery buffer (R127, R329, R364). -/
structure Parked where
  home : Home
  key : BitVec 11
  block : Store
  deriving DecidableEq, Repr

/-- A held payload of a receiver hold (R320). -/
structure Held where
  /-- The receiving core; its payload names the launch. -/
  core : Nat
  pay : Payload
  deriving DecidableEq, Repr

/-- A partition's trace ring on one die (R389-R391). -/
structure Ring where
  part : Nat
  head : BitVec 32
  tail : BitVec 32
  /-- TICK of the last record or mark, ticks since the last mark, a mark due, records dropped. -/
  last : Word
  mark : Bool
  sinceMark : Nat
  lost : Nat
  /-- Records of the present tick, still to be written in their order (R389): type, LCORE, ENG, SECNO, WIDX, ARG. -/
  pend : List (Nat × Nat × Nat × Nat × Nat × Word)
  deriving DecidableEq, Repr

/-- One die. -/
structure Die where
  tick : Word
  /-- Last beacon value from each die, and ticks without one (R72, R396). -/
  beacon : Vector Word 4
  silent : Vector Nat 4
  /-- This tick's beacon is sent. -/
  beaconed : Bool
  /-- Links to each die failed for the boot (R396). -/
  failed : BitVec 4
  /-- Sideband messages on their way here, each with its age in this die's ticks. -/
  side : List (SideMsg × Nat)
  rels : List Release
  tlb : List TlbEntry
  /-- Walks queued: core, access, pair (R361). -/
  walks : List (Nat × Nat × Nat)
  banks : Vector (Vector Word 8) 16
  /-- Banks that took events in this tick: the bank, what it held before them, and the events (R374). -/
  today : List (Nat × Vector Word 8 × List ErrEv)
  recovery : Sparse Parked
  hold : List Held
  /-- TICK of each retry per link direction, of the last 1,024 ticks (R371). -/
  retries : Vector (List Word) 4
  rings : List Ring
  /-- Hotspot sensor in °C (R395). -/
  hot : Int
  /-- Cycles of the clock left to stretch, and hundredths of a period stretched and trimmed in the present 512 ticks
  (R393). -/
  stretch : Nat
  drift : Int
  warm : Bool
  deriving DecidableEq, Repr

/-! ### Package -/

/-- An OML channel (R398-R400, R402). -/
structure Channel where
  state : BitVec 3
  temp : BitVec 8
  rcnt : BitVec 32
  /-- The group retraining, and a second group waiting. -/
  group : Option Nat
  next : Option Nat
  /-- Waits for its partitions to go idle under drain-only, since a reference count, and 10 s over. -/
  waiting : Bool
  since : BitVec 48
  expired : Bool
  /-- One lane group is out until the next boot (R352, R399). -/
  half : Bool
  deriving DecidableEq, Repr

/-- A barrier arrival an object holds; core 512 stands for one of another package. -/
structure Arrival where
  core : Nat
  /-- The launch and the state it arrived in, for its completion to find (R199). -/
  launch : Nat
  sup : Bool
  c : BitVec 20
  fn : Option (BitVec 3)
  v : Word
  deriving DecidableEq, Repr

/-- A barrier object (R197): partition, barrier, scope and the group's number. -/
structure BarObj where
  part : Nat
  bar : BitVec 9
  scope : BitVec 3
  group : Nat
  got : List Arrival
  deriving DecidableEq, Repr

/-- A completion on its way to a core (R197). -/
structure BarMsg where
  core : Nat
  launch : Nat
  sup : Bool
  bar : BitVec 9
  scope : BitVec 3
  val : Option Word
  bad : Bool
  /-- Ticks of the core's die since the generation's last arrival. -/
  age : Nat
  deriving DecidableEq, Repr

/-- A member of a merged entry: its core, access, address, key and value. -/
structure Member where
  core : Nat
  acc : Nat
  addr : Nat
  key : BitVec 11
  v : Word
  deriving DecidableEq, Repr

/-- An entry of merged reductions of one 128-byte line (R152), in the order the entries were opened. -/
structure Entry where
  main : Bool
  /-- Line number: byte address / 128, die or physical. -/
  line : Nat
  aop : Nat
  bytes : Nat
  members : List Member
  closed : Bool
  deriving DecidableEq, Repr

/-- A locked home (R125), the key it was read under, and the core and access that lock it; core 512 + n stands for
package n (R118). -/
structure Lock where
  home : Home
  key : BitVec 11
  core : Nat
  id : Nat
  deriving DecidableEq, Repr

/-- The loop-nest record as the hardware uses it (R48), with the raw bytes that R49 checks. -/
structure Launch where
  num : Nat
  ring : Nat
  /-- Virtual byte address of the record. -/
  lnrVa : Nat
  raw : List Byte
  seed : Word
  /-- Effective priority, and ticks since its last rise (R342). -/
  prio : Nat
  age : Nat
  ready : Bool
  resident : Bool
  running : Bool
  /-- Acceptance under way (R348). -/
  accepting : Bool
  /-- It is checked and staged, or being so, to pre-empt the running launch (R343). -/
  outrank : Bool
  /-- The image is in the member cores' shadow planes, or, of a launch to resume, in their current ones. -/
  staged : Bool
  /-- VBNs of the sets that hold a resident launch's near, accumulator and register images (R332, R344). -/
  sets : Nat × Nat × Nat
  /-- Start tokens still to reach a core. -/
  tokens : List Nat
  lbt : Word
  /-- Status to complete with, once decided. -/
  status : Option (BitVec 8)
  deriving DecidableEq, Repr

/-- One partition: its descriptor, launch window, launch table and observation window (R334-R348, R392). -/
structure Part where
  desc : Config.Descriptor
  /-- SHA-256 of the PARTSET block that installed it (R412). -/
  digest : BitVec 256
  rbase : Vector (BitVec 52) 4
  rtail : Vector (BitVec 12) 4
  rhead : Vector (BitVec 12) 4
  en : Bool
  sz : BitVec 4
  seed : Word
  age : BitVec 32
  seq : BitVec 48
  rerr : Bool
  rerrj : BitVec 2
  valid : Bool
  rtoken : BitVec 20
  halt : Bool
  pen : Bool
  stopped : BitVec 4
  table : List Launch
  nextNum : Nat
  profile : Nat
  apbase : BitVec 19
  /-- KIND of the switch record last written (R344). -/
  swkind : Nat
  osel : BitVec 9
  tren : Bool
  trmask : BitVec 13
  trsize : BitVec 16
  trbase : BitVec 40
  deriving DecidableEq, Repr

/-- A key slot that is not empty (R363): the key's identity, and the partition it is bound to. -/
structure KeySlot where
  ident : Nat
  part : Option Nat
  deriving DecidableEq, Repr

/-- A command Nib is running (R409): its route, its block as taken. -/
structure Command where
  route : Route
  block : List Byte
  deriving DecidableEq, Repr

/-- Nib, start-up and boot state (R402, R405-R414). -/
structure Nib where
  /-- The host mailbox block; an unlisted byte is zero. -/
  mail : Mem
  cmd : Option Command
  /-- The route whose home holds a block with STATUS 0x00, or whose STATUS was written 0x00. -/
  asked : List Route
  hostNonce : Option (BitVec 256)
  partNonce : Sparse (BitVec 256)
  counter : Word
  mh : Vector (BitVec 256) 8
  boots : Word
  version : Vector (BitVec 32) 2
  pkgId : Nat
  stage : Nat
  mode : BitVec 2
  failcnt : BitVec 2
  reason : BitVec 8
  nom : BitVec 16
  /-- A change of nominal under way: the reference count it takes effect at, and the new nominal (R394). -/
  newNom : Option (BitVec 48 × BitVec 16)
  /-- Reference count at the last lowering of the nominal, and since when every die reads below 92 °C (R395). -/
  lowAt : Option (BitVec 48)
  coolAt : Option (BitVec 48)
  /-- Links, by die pair, and channels that failed in service, which the next self-test excludes (R352, R396). -/
  lostLinks : List (Nat × Nat)
  lostChans : List Nat
  images : BootImages
  romVersion : List Byte
  debugOpen : Bool
  scope : BitVec 3
  /-- An UNLOCK is accepted and moult runs (R414). -/
  moult : Bool
  /-- Held in reset until power is cycled, or without power. -/
  off : Bool
  power : Bool
  deriving DecidableEq, Repr

/-- Fuses (R2, R407, R410, R413). -/
structure Fuses where
  /-- 1 grade A, 2 grade B (R410). -/
  grade : Nat
  /-- Of each die, the quads fused off and the OML ports fused off, by bit; read in grade B. -/
  quads : Vector (BitVec 32) 4
  ports : Vector (BitVec 6) 4
  device : BitVec 128
  lifecycle : BitVec 32
  minVersion : BitVec 32
  imageKey : BitVec 256
  debugKey : BitVec 256
  deriving DecidableEq, Repr

/-- A message of the host port or a completion it returns to the host (R376, R403). -/
inductive HostMsg where
  | errCor | errNonfatal | errFatal
  | data (bytes : List Byte) (ep : Bool)
  | unsupported
  | linkDown | linkUp
  deriving DecidableEq, Repr

/-- Host port state (R376, R400-R402). -/
structure HostPort where
  link : Bool
  /-- Corrected and Uncorrectable Internal Error status; severity; mask of ERR_COR. -/
  cor : Bool
  unc : Bool
  sevFatal : Bool
  maskCor : Bool
  /-- TICK of die 0 at the last message of each class. -/
  sent : Vector (Option Word) 3
  /-- RETRAIN, and the value in force since boot. -/
  retrain : Bool
  retrainBoot : Bool
  deriving DecidableEq, Repr

/-- Sequence numbers of one peer of the pod transport (R404). -/
structure Peer where
  pkg : Nat
  next : Nat
  expect : Nat
  /-- Frames not acknowledged, with the core and access that wait, retransmissions and cycles since. -/
  unacked : List (PodFrame × Nat × Nat × Nat × Nat)
  deriving DecidableEq, Repr

/-- What a step does while the script lasts (log entry 1). -/
inductive Turn where
  /-- An event from outside, or one of the machine's own chosen now. -/
  | ev (i : Instr)
  /-- The machine's own move. -/
  | own
  /-- The machine's own move, with the events that no cycle forces left for later. -/
  | hold
  deriving DecidableEq, Repr

/-- The package. -/
structure State where
  /-- The core in focus and its number. -/
  core : Core
  here : Nat
  /-- Every other core; an unlisted core is as at reset. -/
  others : Sparse Core
  dies : Vector Die 4
  /-- Die-store shares, byte `o` of core `c`'s share at 524,288 c + o (R17, R115). -/
  dieStore : Store
  /-- Main memory by physical byte address, and the key identity that sealed each 16-byte unit. -/
  main : Store
  seals : Sparse Nat
  /-- Main memory of other packages, by place number and byte (R118). -/
  remote : Store
  locks : List Lock
  /-- Homes parked, with the die of the copy (R127). -/
  parked : List (Home × Nat)
  entries : List Entry
  barriers : List BarObj
  barMsgs : List BarMsg
  keys : Sparse KeySlot
  keyGen : Nat
  parts : Sparse Part
  chans : Vector Channel 24
  /-- Channel slot tables at 512 ch + i and Fadric tables at 1,024 dir + i; an unlisted entry is unassigned. -/
  chanTab : Sparse (BitVec 8)
  fadTab : Sparse (BitVec 8)
  fuses : Fuses
  exclCores : List Nat
  exclChans : List Nat
  /-- Half-width links, by die pair (R352). -/
  halfLinks : List (Nat × Nat)
  nib : Nib
  host : HostPort
  peers : List Peer
  /-- The 100 MHz package reference count (R390). -/
  refCount : BitVec 48
  /-- Hundredths of a reference count, in units of the nominal frequency, since it last rose. The model's own. -/
  refPhase : Nat
  /-- Events still to come from outside and choices of timing, oldest first (own moves when it is empty); which dies' clocks tick next; the
  number of the next free value; what the host has received. The model's own. -/
  script : List Turn
  clocks : List (BitVec 4)
  free : Nat
  hostLog : List HostMsg
  deriving DecidableEq, Repr

/-! ### Why a step can stop -/

/-- Faults. -/
inductive Fault where
  /-- Raised by `step` when the part has no power or holds itself in reset and no event is left to come: no
  unit acts (R395, R408). Safe. -/
  | halted
  deriving DecidableEq, Repr

/-- Refusals. -/
inductive Refusal where
  /-- An instruction with no meaning yet; raised by an arm of `exec`. Safe. -/
  | notModelled (mnemonic : String)
  deriving DecidableEq, Repr

/-! ### Reset -/

/-- A zero bank. -/
def Bank.zero : Bank :=
  { s := Vector.replicate 32 0, p := 0, lc := Vector.replicate 4 0, lstart := Vector.replicate 4 0,
    lend := Vector.replicate 4 0, stack := Vector.replicate 16 0, depth := 0 }

/-- No freeze. -/
def Freeze.none : Freeze :=
  { bankOn := false, bank := 0, lateOn := false, align := Option.none, bar := Option.none, start := false, gap := 0, run := 0,
    ticks := 0 }

/-- An empty window record. -/
def Window.empty : Window := { nearRead := [], regRead := [], cleared := [], wrote := [], loaded := [] }

/-- Sequencer state at power-on. FRZLIM and PRELIM have the reset values of R70 and R305. -/
def Seq.reset : Seq :=
  { sup := false, ps := false, sen := false, rw := false, thr := Bank.zero, svr := Bank.zero, pc := 0, scyc := 0,
    bslots := [], results := [], tinfo := 0, taddr := 0, tpc := 0, tpcEnd := false, sbase := 0, frzlim := 65536, req := false,
    force := false, prelim := 0x100000, reqTicks := 0, tlate := 0, asid := 0, ctx := 0, rpl := false, count := 0,
    total := 0, late := none, traps := [],
    draining := false, pre := none, lateDue := false, wait := 0, half := false, ended := false, frz := Freeze.none, ckpt := none,
    win := Window.empty, fresh := false, back := 0, pipe := false }

/-- An engine with nothing dispatched. -/
def Engine.reset : Engine :=
  { queue := [], run := none, gap := 0, disp := 0, retired := 0, ret := 0, last := none, fences := [], started := 0, pipe := false }

/-- The zero vector (R105): norm code 0x80_0000, every direction 0. -/
def Quill.zero : Quill := { dir := 0, norm := 0x800000 }

/-- An empty latch. -/
def Latch.empty : Latch := { full := false, fmt := 0, planes := [], trans := false, sc := false, scales := [] }

/-- Vector state at power-on and at a flip, shapes zero. -/
def Vec.reset : Vec :=
  { v := Vector.replicate 64 0, rb := 0, m := Vector.replicate 8 0, flg := 0, sh := Vector.replicate 16 0,
    q := Vector.replicate 16 Quill.zero }

/-- Matrix state at power-on and at a flip. -/
def Mat.reset : Mat :=
  { cells := [], flg := Vector.replicate 2 0, wl := Vector.replicate 2 Latch.empty, feed := 0,
    load := Vector.replicate 2 0, used := Vector.replicate 2 0, macc := Vector.replicate 2 0,
    clr := Vector.replicate 2 0, loads := [], feeds := [], armed := false, holds := [],
    bad := [] }

/-- Exchange engine at power-on. -/
def XEng.reset : XEng :=
  { landing := [], inflow := [], waiting := [], credits := 16, credit := 0, accs := [], wbs := [], flight := [], voids := [], nid := 0 }

/-- A plane that holds nothing. -/
def Plane.empty : Plane :=
  { code := [], len := 0, sbase := 0, sen := false, shapes := [], bad := [], slots := [], launch := none, init := false }

/-- No share. -/
def Share.idle : Share :=
  { phase := .idle, launch := 0, ctx := none, part := 0, lcore := 0, n := 0, tile := 0, tiles := 0, lbt := 0, seed := 0,
    parvbn := 0, dims := [], order := [], serp := 0, token := 0, fault := false, stop := false,
    last := Vector.replicate 3 none, counts := Vector.replicate 3 (0, 0), credits := 16, credit := 0 }

/-- No snapshot taken. -/
def Snapshot.zero : Snapshot :=
  { seq := 0, lc := 0, lend := 0, scyc := 0, tick := 0, frz := Vector.replicate 4 0, cmx := [] }

/-- Observation state with the reset values of R392. -/
def Obs.reset : Obs :=
  { frz := Vector.replicate 4 0, cmx := [], snap := Snapshot.zero, beats := [], jam := [], wdog := 0x4000000, wdogCnt := 0,
    issued := false, hit := false, entryStop := false, ben := true, bfrozen := false, btrig := 0x3F, wptr := 0, blot := [], blast := 0, bmark := true, bsince := 0,
    stopped := false, code := 0, steps := none, cut := Vector.replicate 6 0, bpc := none,
    bpn := Vector.replicate 3 none, dtick := none }

/-- A core at power-on. -/
def Core.reset : Core :=
  { seq := Seq.reset, em := Engine.reset, ev := Engine.reset, ex := Engine.reset, fences := [], vec := Vec.reset,
    mat := Mat.reset, x := XEng.reset, near := Store.empty, cur := Plane.empty, shd := Plane.empty,
    share := Share.idle, saved := [], tlb := [], badReg := [], obs := Obs.reset }

/-- A die at power-on. -/
def Die.reset : Die :=
  { tick := 0, beacon := Vector.replicate 4 0, silent := Vector.replicate 4 0, beaconed := true, failed := 0, side := [], rels := [],
    tlb := [], walks := [], banks := Vector.replicate 16 (Vector.replicate 8 0), today := [], recovery := [], hold := [],
    retries := Vector.replicate 4 [], rings := [], hot := 25, stretch := 0, drift := 0, warm := true }

/-- A channel that is off. -/
def Channel.off : Channel :=
  { state := 0, temp := 25, rcnt := 0, group := none, next := none, waiting := false, since := 0, expired := false, half := false }

/-- Nib at power-on: stage 1, MODE 0, mh0 to mh7 zero. -/
def Nib.reset : Nib :=
  { mail := [], cmd := none, asked := [], hostNonce := none, partNonce := [], counter := 0,
    mh := Vector.replicate 8 0, boots := 0, version := Vector.replicate 2 0, pkgId := 0, stage := 1, mode := 0,
    failcnt := 0, reason := 0, nom := 0, newNom := none, lowAt := none, coolAt := none, lostLinks := [], lostChans := [], images := { nibPatch := [], folio := [] }, romVersion := [],
    debugOpen := false, scope := 0, moult := false, off := false, power := true }

/-- A grade A part with nothing fused off. -/
def Fuses.reset : Fuses :=
  { grade := 1, quads := Vector.replicate 4 0, ports := Vector.replicate 4 0, device := 0, lifecycle := 2, minVersion := 0, imageKey := 0,
    debugKey := 0 }

/-- The host port at reset. -/
def HostPort.reset : HostPort :=
  { link := true, cor := false, unc := false, sevFatal := false, maskCor := false,
    sent := Vector.replicate 3 none, retrain := false, retrainBoot := false }

/-- The package right after reset. -/
def State.reset : State :=
  { core := Core.reset, here := 0, others := [], dies := Vector.replicate 4 Die.reset,
    dieStore := Store.empty, main := Store.empty, seals := [], remote := Store.empty, locks := [], parked := [],
    entries := [], barriers := [], barMsgs := [], keys := [(0, { ident := 0, part := none })], keyGen := 1,
    parts := [], chans := Vector.replicate 24 Channel.off, chanTab := [], fadTab := [], fuses := Fuses.reset,
    exclCores := [], exclChans := [], halfLinks := [], nib := Nib.reset, host := HostPort.reset, peers := [],
    refCount := 0, refPhase := 0, script := [], clocks := [], free := 0, hostLog := [] }

end Sys2Proof.Machine
end

