-- ==== Sys2Proof/Machine/Mem.lean ====
section
/-! DEFINITION. Sparse stores in canonical form: keys strictly rising and no entry equal to the default.
Byte memories with poison marks, read and written byte by byte, in 8-byte words, and by blocks. -/

namespace Sys2Proof.Machine

/-! ### Sparse stores -/

/-- The value at a key; `d` where it is not listed. -/
def Sparse.get {α : Type} (d : α) : Sparse α → Nat → α
  | [], _ => d
  | (k, v) :: r, n => if k = n then v else if n < k then d else Sparse.get d r n

/-- Writes the value at a key; writing the default removes the entry. -/
def Sparse.set {α : Type} [DecidableEq α] (d : α) : Sparse α → Nat → α → Sparse α
  | [], n, x => if x = d then [] else [(n, x)]
  | (k, v) :: r, n, x =>
    if n < k then (if x = d then (k, v) :: r else (n, x) :: (k, v) :: r)
    else if n = k then (if x = d then r else (k, x) :: r)
    else (k, v) :: Sparse.set d r n x

/-- The value at a key, if listed. -/
def Sparse.find {α : Type} : Sparse α → Nat → Option α
  | [], _ => none
  | (k, v) :: r, n => if k = n then some v else if n < k then none else Sparse.find r n

/-- Lists a value at a key. -/
def Sparse.put {α : Type} : Sparse α → Nat → α → Sparse α
  | [], n, x => [(n, x)]
  | (k, v) :: r, n, x =>
    if n < k then (n, x) :: (k, v) :: r else if n = k then (k, x) :: r else (k, v) :: Sparse.put r n x

/-- Unlists a key. -/
def Sparse.erase {α : Type} (m : Sparse α) (n : Nat) : Sparse α := m.filter (fun e => e.1 != n)

/-- Keys at least `a` and below `a + n`, renumbered from zero. -/
def Sparse.window {α : Type} (m : Sparse α) (a n : Nat) : Sparse α :=
  (m.filter (fun e => decide (a ≤ e.1) && decide (e.1 < a + n))).map (fun e => (e.1 - a, e.2))

/-- Replaces the keys at least `a` and below `a + n` by those of `b`, which counts from zero. -/
def Sparse.splice {α : Type} (m : Sparse α) (a n : Nat) (b : Sparse α) : Sparse α :=
  m.filter (fun e => decide (e.1 < a)) ++
    ((b.filter (fun e => decide (e.1 < n))).map (fun e => (e.1 + a, e.2)) ++
      m.filter (fun e => decide (a + n ≤ e.1)))

/-- The canonical form of a list of entries, the first of a key standing. -/
def Sparse.norm {α : Type} [DecidableEq α] (d : α) (l : Sparse α) : Sparse α :=
  l.foldr (fun e m => Sparse.set d m e.1 e.2) []

/-- Canonical form: keys strictly rising, no entry equal to the default. -/
def Sparse.canon {α : Type} [DecidableEq α] (d : α) : Sparse α → Bool
  | [] => true
  | (k, v) :: r => decide (v ≠ d) && r.all (fun e => decide (k < e.1)) && Sparse.canon d r

/-! ### Rising lists of numbers -/

/-- Puts a number into a rising list. -/
def insertNat (n : Nat) : List Nat → List Nat
  | [] => [n]
  | k :: r => if n < k then n :: k :: r else if n = k then k :: r else k :: insertNat n r

/-- A list is strictly rising. -/
def risingNat : List Nat → Bool
  | [] => true
  | k :: r => r.all (fun m => decide (k < m)) && risingNat r

/-- A rising list of the numbers of a list. -/
def normNat (l : List Nat) : List Nat := l.foldr insertNat []

/-! ### Byte memories -/

/-- The canonical form of a store (MEMORY): its bytes as above, its poison marks rising. -/
def Store.wf (m : Store) : Bool := Sparse.canon 0 m.bytes && risingNat m.poison

/-- One byte. -/
def Store.byte (m : Store) (a : Nat) : Byte := Sparse.get 0 m.bytes a

/-- `n` bytes from `a`. -/
def Store.read (m : Store) (a : Nat) : Nat → List Byte
  | 0 => []
  | n + 1 => m.byte a :: m.read (a + 1) n

/-- Writes one byte; the word's poison mark stays. -/
def Store.setByte (m : Store) (a : Nat) (b : Byte) : Store := { m with bytes := Sparse.set 0 m.bytes a b }

/-- Writes bytes from `a` on. -/
def Store.setBytes (m : Store) (a : Nat) : List Byte → Store
  | [] => m
  | b :: bs => (m.setByte a b).setBytes (a + 1) bs

/-- Words that lie whole within `n` bytes from `a`. -/
def wholeWord (a n w : Nat) : Bool := decide (a ≤ 8 * w) && decide (8 * w + 8 ≤ a + n)

/-- Stores bytes from `a` on; a word written whole loses its poison mark (R367). -/
def Store.write (m : Store) (a : Nat) (bs : List Byte) : Store :=
  { m.setBytes a bs with poison := m.poison.filter (fun w => !wholeWord a bs.length w) }

/-- Stores those bytes from `a` on whose flag is set. -/
def Store.writeSome (m : Store) (a : Nat) : List (Byte × Bool) → Store
  | [] => m
  | (b, e) :: bs => (if e then m.setByte a b else m).writeSome (a + 1) bs

/-- Marks the word that holds byte `a` poisoned. -/
def Store.poisonWord (m : Store) (a : Nat) : Store := { m with poison := insertNat (a / 8) m.poison }

/-- Some word with a byte among `n` bytes from `a` is poisoned. -/
def Store.poisoned (m : Store) (a n : Nat) : Bool :=
  n != 0 && m.poison.any (fun w => decide (a < 8 * w + 8) && decide (8 * w < a + n))

/-- `n` bytes from `a`, both multiples of 8, with their marks, renumbered from zero. -/
def Store.window (m : Store) (a n : Nat) : Store :=
  { bytes := Sparse.window m.bytes a n,
    poison := (m.poison.filter (fun w => decide (a / 8 ≤ w) && decide (w < (a + n) / 8))).map (· - a / 8) }

/-- Replaces `n` bytes from `a`, both multiples of 8, and their marks by those of `b`, brought
into canonical form. -/
def Store.splice (m : Store) (a n : Nat) (b : Store) : Store :=
  { bytes := Sparse.splice m.bytes a n (Sparse.norm 0 b.bytes),
    poison := m.poison.filter (fun w => decide (w < a / 8)) ++
      (((normNat b.poison).filter (fun w => decide (w < n / 8))).map (· + a / 8) ++
        m.poison.filter (fun w => decide ((a + n) / 8 ≤ w))) }

/-- A block of a store by its number (R112). -/
def Store.block (m : Store) (n : Nat) : Store := m.window (4096 * n) 4096

/-- Replaces a block of a store. -/
def Store.setBlock (m : Store) (n : Nat) (b : Store) : Store := m.splice (4096 * n) 4096 b

/-- Every word of a block poisoned (R378). -/
def Store.allPoison (m : Store) : Store := { m with poison := List.range 512 }

/-- The little-endian number in `n` bytes from `a`. -/
def Store.num (m : Store) (a n : Nat) : Nat := natOfBytes (m.read a n)

/-- A 64-bit word at `a`. -/
def Store.word (m : Store) (a : Nat) : Word := BitVec.ofNat 64 (m.num a 8)

/-- Stores a byte list held in a Mem. -/
def Store.ofBytes (bs : List Byte) : Store := Store.empty.setBytes 0 bs

/-! ### Bytes of plain memories -/

/-- `n` bytes of a plain memory. -/
def Mem.read (m : Mem) (a : Nat) : Nat → List Byte
  | 0 => []
  | n + 1 => Sparse.get 0 m a :: Mem.read m (a + 1) n

/-- Writes bytes of a plain memory from `a` on. -/
def Mem.write (m : Mem) (a : Nat) : List Byte → Mem
  | [] => m
  | b :: bs => Mem.write (Sparse.set 0 m a b) (a + 1) bs

/-- Whether two runs of bytes share a byte. -/
def overlap (a n b k : Nat) : Bool := decide (a < b + k) && decide (b < a + n) && n != 0 && k != 0

end Sys2Proof.Machine
end

