-- ==== Sys2Proof/Machine/Num.lean ====
section
/-! DEFINITION. Exact numbers: integer helpers, roundings of integers, integer square roots, and exact floors
of scaled logarithms and powers of two. Real numbers that are not dyadic appear as an integer floor with a
flag that says a remainder is left, which is enough to round them once. -/

namespace Sys2Proof.Machine

/-- The low `w` bits of a number. -/
def lowBits (w x : Nat) : Nat := x % 2 ^ w

/-- The signed value of the low `w` bits (two's complement). -/
def sgn (w x : Nat) : Int := if lowBits w x < 2 ^ (w - 1) then (lowBits w x : Int) else (lowBits w x : Int) - 2 ^ w

/-- The low `w` bits of an integer, two's complement. -/
def wrapInt (w : Nat) (x : Int) : Nat := (x % (2 ^ w : Int)).toNat

/-- An integer held to a range. -/
def clampInt (lo hi x : Int) : Int := if x < lo then lo else if hi < x then hi else x

/-- An integer saturated to `w` signed bits. -/
def satInt (w : Nat) (x : Int) : Int := clampInt (-(2 ^ (w - 1) : Int)) ((2 ^ (w - 1) : Int) - 1) x

/-- An integer times 2^e, rounded toward minus infinity. -/
def shiftInt (x : Int) (e : Int) : Int :=
  if 0 ≤ e then x * (2 : Int) ^ e.toNat else x / (2 : Int) ^ (-e).toNat

/-- Rounds m · 2^e, or a value just above it when `st` is set, to an integer, ties to even; the second result
says the rounding is inexact. -/
def roundNat (m : Nat) (e : Int) (st : Bool) : Nat × Bool :=
  if 0 ≤ e then (m * 2 ^ e.toNat, st)
  else
    let k := (-e).toNat
    let q := m / 2 ^ k
    let r := m % 2 ^ k
    let h := 2 ^ (k - 1)
    let up := decide (h < r) || (r == h && (st || q % 2 == 1))
    (if up then q + 1 else q, r != 0 || st)

/-- Rounds x / y to the nearest integer, ties to even, for y above zero. -/
def roundDiv (x : Int) (y : Nat) : Int :=
  let q := x / (y : Int)
  let r := x % (y : Int)
  if 2 * r > y then q + 1 else if 2 * r = y ∧ q % 2 = 1 then q + 1 else q

/-- The number of bits of a number; 0 for 0. -/
def bitLen (m : Nat) : Nat := if m = 0 then 0 else m.log2 + 1

/-- Newton's iteration for the integer square root from a start at or above it: it falls until it is there. -/
def isqrtLoop (m : Nat) : Nat → Nat → Nat
  | 0, x => x
  | k + 1, x =>
    let y := (x + m / x) / 2
    if y < x then isqrtLoop m k y else x

/-- The integer square root. -/
def isqrt (m : Nat) : Nat := if m = 0 then 0 else isqrtLoop m (bitLen m + 1) (2 ^ (bitLen m / 2 + 1))

/-! ### Scaled logarithms -/

/-- Squares a number held as a 192-bit mantissa with an exponent, `k` times, rounding down. -/
def sqLow : Nat → Nat → Nat → Nat × Nat
  | 0, m, e => (m, e)
  | k + 1, m, e =>
    let p := m * m
    let s := bitLen p - 192
    sqLow k (p / 2 ^ s) (2 * e + s)

/-- The same, rounding up. -/
def sqHigh : Nat → Nat → Nat → Nat × Nat
  | 0, m, e => (m, e)
  | k + 1, m, e =>
    let p := m * m
    let s := bitLen p - 192
    sqHigh k (if s = 0 then p else p / 2 ^ s + 1) (2 * e + s)

/-- floor(2^k · log2 m) for m above zero: enclosed by squaring, decided exactly where the enclosure does not. -/
def logFloor (k m : Nat) : Nat :=
  let s := bitLen m - 192
  let lo := sqLow k (m / 2 ^ s) s
  let hi := sqHigh k (if s = 0 then m else m / 2 ^ s + 1) s
  let a := lo.1.log2 + lo.2
  if a = hi.1.log2 + hi.2 then a else (m ^ 2 ^ k).log2

/-- round(2^k · log2 m) for m above zero. No tie can arise: 2^(k+1) · log2 m is an integer only where m is a
power of two. -/
def logRound (k m : Nat) : Nat := (logFloor (k + 1) m + 1) / 2

/-! ### Powers of two with a fractional exponent -/

/-- Enclosures of 2^(2^-i) · 2^p for i = 1, 2, …, from that of i - 1. -/
def rootTable (p : Nat) : Nat → Nat → Nat → List (Nat × Nat)
  | 0, _, _ => []
  | n + 1, lo, hi =>
    let lo' := isqrt (lo * 2 ^ p)
    let hi' := isqrt (hi * 2 ^ p) + 1
    (lo', hi') :: rootTable p n lo' hi'

/-- Multiplies the enclosures that the bits of f (k bits, from the top) select. -/
def mulRoots (p f : Nat) : Nat → List (Nat × Nat) → Nat → Nat → Nat × Nat
  | 0, _, lo, hi => (lo, hi)
  | _, [], lo, hi => (lo, hi)
  | k + 1, (a, b) :: r, lo, hi =>
    if f / 2 ^ k % 2 = 1 then mulRoots p f k r (lo * a / 2 ^ p) (hi * b / 2 ^ p + 1) else mulRoots p f k r lo hi

/-- An enclosure of 2^(f / 2^k) · 2^p for f below 2^k. -/
def powEncl (p k f : Nat) : Nat × Nat :=
  mulRoots p f k (rootTable p k (2 ^ (p + 1)) (2 ^ (p + 1))) (2 ^ p) (2 ^ p)

/-- The greatest j at least `a` with j^(2^k) ≤ d^(2^k) · 2^f · 2^(p · 2^k), trying `n` numbers up. -/
def powSearch (p k f d : Nat) : Nat → Nat → Nat
  | 0, a => a
  | n + 1, a =>
    if (a + 1) ^ 2 ^ k ≤ d ^ 2 ^ k * 2 ^ f * 2 ^ (p * 2 ^ k) then powSearch p k f d n (a + 1) else a

/-- floor(d · 2^(f / 2^k) · 2^128), and whether a remainder is left. -/
def powFloor (k f d : Nat) : Nat × Bool :=
  if f = 0 ∨ d = 0 then (d * 2 ^ 128, false)
  else
    let e := powEncl 192 k f
    let lo := d * e.1 / 2 ^ 64
    let hi := d * e.2 / 2 ^ 64
    (if lo = hi then lo else powSearch 128 k f d (hi - lo) lo, true)

/-! ### Numbers a + b · ρ with ρ a fractional power of two -/

/-- An enclosure of ρ · 2^p for ρ = 2^(t / 2^16). -/
def rhoEncl (p : Nat) (t : Int) : Int × Int :=
  let f := (t % 65536).toNat
  let w := t / 65536
  let e := powEncl p 16 f
  if 0 ≤ w then ((e.1 : Int) * 2 ^ w.toNat, (e.2 : Int) * 2 ^ w.toNat)
  else ((e.1 : Int) / 2 ^ (-w).toNat, (e.2 : Int) / 2 ^ (-w).toNat + 1)

/-- The least and greatest of c · x over an enclosure of x. -/
def scaleEncl (c : Int) (x : Int × Int) : Int × Int := if 0 ≤ c then (c * x.1, c * x.2) else (c * x.2, c * x.1)

/-- An enclosure of (a + b ρ + c ρ²) · 2^(2p). -/
def quadEncl (p : Nat) (t a b c : Int) : Int × Int :=
  let r := rhoEncl p t
  let u := scaleEncl (b * 2 ^ p) r
  let v := scaleEncl c (r.1 * r.1, r.2 * r.2)
  (a * 2 ^ (2 * p) + u.1 + v.1, a * 2 ^ (2 * p) + u.2 + v.2)

/-- x · 2^w for a rational power, as a pair of integers compared with y: the sign of y + x · 2^w. -/
def signPow (y x w : Int) : Int :=
  if 0 ≤ w then (y + x * 2 ^ w.toNat).sign else (y * 2 ^ (-w).toNat + x).sign

/-- The sign of a + b ρ + c ρ² by enclosures of growing precision. -/
def signSearch (t a b c : Int) : Nat → Nat → Int
  | 0, p => (quadEncl p t a b c).1.sign
  | n + 1, p =>
    let e := quadEncl p t a b c
    if 0 < e.1 then 1 else if e.2 < 0 then -1 else signSearch t a b c n (2 * p)

/-- The sign of a + b ρ + c ρ², ρ = 2^(t / 2^16). The powers 1, ρ, ρ² of two are independent over the
rationals unless ρ or ρ² is rational, so a zero is found exactly. -/
def signQuad (t a b c : Int) : Int :=
  if b = 0 ∧ c = 0 then a.sign
  else if t % 65536 = 0 then
    let w := t / 65536
    if 0 ≤ w then (a + b * 2 ^ w.toNat + c * 2 ^ (2 * w).toNat).sign
    else (a * 2 ^ (-2 * w).toNat + b * 2 ^ (-w).toNat + c).sign
  else if t % 32768 = 0 ∧ b = 0 then signPow a c (t / 32768)
  else signSearch t a b c 10 256

end Sys2Proof.Machine
end

