-- ==== Sys2Proof/Machine/Float.lean ====
section
/-! DEFINITION. The IEEE formats of R81: reading a code as an exact value, rounding once (R82, R83), the
canonical NaN (R84), flags (R85), arithmetic (R212), compares (R216) and conversions (R86). Elements are
numbers below 2^w. -/

namespace Sys2Proof.Machine

/-! ### Flags (R85) -/

/-- Flag bits as VFLG numbers them. -/
def fNX : BitVec 6 := 1
def fUF : BitVec 6 := 2
def fOF : BitVec 6 := 4
def fDZ : BitVec 6 := 8
def fIV : BitVec 6 := 16
def fLS : BitVec 6 := 32

/-- A flag where a condition holds. -/
def flagIf (c : Bool) (f : BitVec 6) : BitVec 6 := if c then f else 0

/-! ### Formats (R81) -/

/-- A binary format: exponent and fraction widths. -/
structure FpFmt where
  eb : Nat
  fb : Nat
  deriving DecidableEq, Repr

def binary32 : FpFmt := ⟨8, 23⟩
def binary16 : FpFmt := ⟨5, 10⟩
def bfloat16 : FpFmt := ⟨8, 7⟩

/-- The format of a float type code (R160). -/
def fpOf (t : BitVec 4) : FpFmt := if t == 3 then binary32 else if t == 4 then binary16 else bfloat16

namespace FpFmt

/-- Exponent bias. -/
def bias (f : FpFmt) : Nat := 2 ^ (f.eb - 1) - 1
/-- Width in bits. -/
def width (f : FpFmt) : Nat := 1 + f.eb + f.fb
/-- The code of infinity without its sign. -/
def infBits (f : FpFmt) : Nat := (2 ^ f.eb - 1) * 2 ^ f.fb
/-- The canonical NaN (R84). -/
def nanBits (f : FpFmt) : Nat := f.infBits + 2 ^ (f.fb - 1)
/-- A sign in its place. -/
def signBit (f : FpFmt) (s : Bool) : Nat := if s then 2 ^ (f.eb + f.fb) else 0

end FpFmt

/-- What a code stands for: a NaN, signaling or not; an infinity; (-1)^s · m · 2^e. -/
inductive Fp where
  | nan (signaling : Bool)
  | inf (s : Bool)
  | fin (s : Bool) (m : Nat) (e : Int)
  deriving DecidableEq, Repr

/-- Reads a code (R81, R84). -/
def readFp (f : FpFmt) (x : Nat) : Fp :=
  let s := x / 2 ^ (f.eb + f.fb) % 2 == 1
  let e := x / 2 ^ f.fb % 2 ^ f.eb
  let m := x % 2 ^ f.fb
  if e = 2 ^ f.eb - 1 then (if m = 0 then .inf s else .nan (m / 2 ^ (f.fb - 1) == 0))
  else if e = 0 then .fin s m (1 - (f.bias : Int) - f.fb)
  else .fin s (2 ^ f.fb + m) ((e : Int) - f.bias - f.fb)

/-- Rounding modes (R82). -/
inductive RMode where
  | rne | rtz | rup | rdn
  deriving DecidableEq, Repr

/-- The mode of an RM field. -/
def rmode (rm : BitVec 2) : RMode := if rm == 0 then .rne else if rm == 1 then .rtz else if rm == 2 then .rup else .rdn

/-- Whether a magnitude with remainder below its last place is rounded up. -/
def roundsUp (r : RMode) (s odd gtHalf eqHalf inexact : Bool) : Bool :=
  match r with
  | .rne => gtHalf || (eqHalf && odd)
  | .rtz => false
  | .rup => inexact && !s
  | .rdn => inexact && s

/-- Rounds m · 2^e (or just above it, with `st`) to a multiple of 2^lsb; the count, and whether inexact. -/
def roundAt (r : RMode) (s : Bool) (m : Nat) (e lsb : Int) (st : Bool) : Nat × Bool :=
  if lsb ≤ e then (m * 2 ^ (e - lsb).toNat, st)
  else
    let k := (lsb - e).toNat
    let q := m / 2 ^ k
    let rem := m % 2 ^ k
    let h := 2 ^ (k - 1)
    let inx := rem != 0 || st
    let gt := decide (h < rem) || (rem == h && st)
    let eq := rem == h && !st
    (if roundsUp r s (q % 2 == 1) gt eq inx then q + 1 else q, inx)

/-- The result of an overflow (R82). -/
def overflowBits (f : FpFmt) (r : RMode) (s : Bool) : Nat :=
  let toInf := match r with
    | .rne => true
    | .rtz => false
    | .rup => !s
    | .rdn => s
  f.signBit s + (if toInf then f.infBits else f.infBits - 1)

/-- Rounds (-1)^s · m · 2^e once into a format (R83). With `st`, the magnitude lies just above m · 2^e, whose
m then has more bits than the format. Tininess is after rounding. -/
def roundFp (f : FpFmt) (r : RMode) (s : Bool) (m : Nat) (e : Int) (st : Bool) : Nat × BitVec 6 :=
  if m = 0 then (f.signBit s, flagIf st (fNX ||| fUF))
  else
    let top := (m.log2 : Int) + e
    let emin := 1 - (f.bias : Int)
    let lsb := max (top - f.fb) (emin - f.fb)
    let q := roundAt r s m e lsb st
    let free := roundAt r s m e (top - f.fb) st
    let tiny := decide (top < emin) && !(top == emin - 1 && free.1 == 2 ^ (f.fb + 1))
    let bits :=
      if q.1 < 2 ^ f.fb then q.1
      else ((lsb + f.fb + f.bias).toNat - 1) * 2 ^ f.fb + q.1
    if f.infBits ≤ bits then (overflowBits f r s, fOF ||| fNX)
    else (f.signBit s + bits, flagIf q.2 fNX ||| flagIf (tiny && q.2) fUF)

/-- Rounds an exact integer · 2^e into a format; zero takes the sign given. -/
def roundInt (f : FpFmt) (r : RMode) (zs : Bool) (x : Int) (e : Int) : Nat × BitVec 6 :=
  if x = 0 then (f.signBit zs, 0) else roundFp f r (decide (x < 0)) x.natAbs e false

/-- A canonical NaN with IV where an operand is signaling or the operation is invalid. -/
def nanResult (f : FpFmt) (iv : Bool) : Nat × BitVec 6 := (f.nanBits, flagIf iv fIV)

/-- A NaN operand that is signaling. -/
def Fp.signals : Fp → Bool
  | .nan g => g
  | _ => false

/-- A NaN. -/
def Fp.isNan : Fp → Bool
  | .nan _ => true
  | _ => false

/-- The sign of a value that is not a NaN. -/
def Fp.neg : Fp → Bool
  | .nan _ => false
  | .inf s => s
  | .fin s _ _ => s

/-- Zero of either sign. -/
def Fp.isZero : Fp → Bool
  | .fin _ m _ => m == 0
  | _ => false

/-- The opposite value. -/
def Fp.opp : Fp → Fp
  | .nan g => .nan g
  | .inf s => .inf (!s)
  | .fin s m e => .fin (!s) m e

/-- The signed integer coefficient of a finite value at exponent `e0`, at most its own. -/
def Fp.coef (x : Fp) (e0 : Int) : Int :=
  match x with
  | .fin s m e => (if s then -1 else 1) * (m : Int) * 2 ^ (e - e0).toNat
  | _ => 0

/-- The sign of an exact zero sum of two values (IEEE 754-2019, R83). -/
def zeroSumSign (r : RMode) (a b : Bool) : Bool := if a == b then a else r == .rdn

/-- a + b, rounded once. -/
def addFp (f : FpFmt) (r : RMode) (a b : Fp) : Nat × BitVec 6 :=
  match a, b with
  | .nan g, b => nanResult f (g || b.signals)
  | a, .nan g => nanResult f (g || a.signals)
  | .inf s, .inf t => if s == t then (f.signBit s + f.infBits, 0) else nanResult f true
  | .inf s, _ => (f.signBit s + f.infBits, 0)
  | _, .inf s => (f.signBit s + f.infBits, 0)
  | .fin s _ e, .fin t _ e' =>
    let e0 := min e e'
    roundInt f r (zeroSumSign r s t) (a.coef e0 + b.coef e0) e0

/-- The exact product of two values; none for 0 · ∞ or a NaN. -/
def mulExact (a b : Fp) : Option Fp :=
  match a, b with
  | .nan _, _ => none
  | _, .nan _ => none
  | .inf s, .inf t => some (.inf (s != t))
  | .inf s, .fin t m _ => if m = 0 then none else some (.inf (s != t))
  | .fin s m _, .inf t => if m = 0 then none else some (.inf (s != t))
  | .fin s m e, .fin t n d => some (.fin (s != t) (m * n) (e + d))

/-- A value rounded into a format. -/
def putFp (f : FpFmt) (r : RMode) (x : Fp) : Nat × BitVec 6 :=
  match x with
  | .nan g => nanResult f g
  | .inf s => (f.signBit s + f.infBits, 0)
  | .fin s m e => roundFp f r s m e false

/-- a · b, rounded once. -/
def mulFp (f : FpFmt) (r : RMode) (a b : Fp) : Nat × BitVec 6 :=
  match mulExact a b with
  | some p => putFp f r p
  | none => nanResult f (a.signals || b.signals || (!a.isNan && !b.isNan))

/-- a · b + c, rounded once. Beside a quiet NaN addend, 0 · ∞ sets no flag: R84 gives a quiet NaN operand the
canonical NaN and no flag (DEDUCED). -/
def fmaFp (f : FpFmt) (r : RMode) (a b c : Fp) : Nat × BitVec 6 :=
  match mulExact a b with
  | some p => addFp f r p c
  | none => nanResult f (a.signals || b.signals || c.signals || (!a.isNan && !b.isNan && !c.isNan))

/-- a / b, rounded once (R213). -/
def divFp (f : FpFmt) (r : RMode) (a b : Fp) : Nat × BitVec 6 :=
  match a, b with
  | .nan g, b => nanResult f (g || b.signals)
  | a, .nan g => nanResult f (g || a.signals)
  | .inf _, .inf _ => nanResult f true
  | .inf s, .fin t _ _ => (f.signBit (s != t) + f.infBits, 0)
  | .fin s _ _, .inf t => (f.signBit (s != t), 0)
  | .fin s m e, .fin t n d =>
    if n = 0 then (if m = 0 then nanResult f true else (f.signBit (s != t) + f.infBits, fDZ))
    else if m = 0 then (f.signBit (s != t), 0)
    else
      let k := 2 * f.fb + 4 + bitLen n
      let p := m * 2 ^ k
      roundFp f r (s != t) (p / n) (e - d - k) (p % n != 0)

/-- √a, rounded once (R213). -/
def sqrtFp (f : FpFmt) (r : RMode) (a : Fp) : Nat × BitVec 6 :=
  match a with
  | .nan g => nanResult f g
  | .inf s => if s then nanResult f true else (f.infBits, 0)
  | .fin s m e =>
    if m = 0 then (f.signBit s, 0)
    else if s then nanResult f true
    else
      let odd := e % 2
      let k := 2 * (f.fb + 4)
      let n := m * 2 ^ (odd.toNat + k)
      let q := isqrt n
      roundFp f r false q ((e - odd - k) / 2) (q * q != n)

/-- a < b for values that are not NaN. -/
def ltFp (a b : Fp) : Bool :=
  match a, b with
  | .inf s, .inf t => s && !t
  | .inf s, _ => s
  | _, .inf t => !t
  | .fin _ _ e, .fin _ _ d => decide (a.coef (min e d) < b.coef (min e d))
  | _, _ => false

/-- a = b for values that are not NaN; −0 equals +0. -/
def eqFp (a b : Fp) : Bool := !a.isNan && !b.isNan && !ltFp a b && !ltFp b a

/-- The smaller (or larger) of two codes, with −0 < +0; a NaN operand gives the canonical NaN, no flag (R212). -/
def minMaxFp (f : FpFmt) (larger : Bool) (x y : Nat) : Nat :=
  let a := readFp f x
  let b := readFp f y
  if a.isNan || b.isNan then f.nanBits
  else
    let less := ltFp a b || (eqFp a b && a.neg && !b.neg)
    if less != larger then x else y

/-- The compare conditions 0 eq, 1 ne, 2 lt, 3 ge (R216): the result and IV. -/
def cmpFp (f : FpFmt) (cond : Nat) (x y : Nat) : Bool × BitVec 6 :=
  let a := readFp f x
  let b := readFp f y
  let n := a.isNan || b.isNan
  let sig := a.signals || b.signals
  match cond with
  | 0 => (!n && eqFp a b, flagIf sig fIV)
  | 1 => (n || !eqFp a b, flagIf sig fIV)
  | 2 => (!n && ltFp a b, flagIf n fIV)
  | _ => (!n && !ltFp a b, flagIf n fIV)

/-- A float value to a `w`-bit signed integer (R86). -/
def fpToInt (w : Nat) (r : RMode) (x : Fp) : Nat × BitVec 6 :=
  match x with
  | .nan _ => (0, fIV)
  | .inf s => (wrapInt w (if s then -(2 ^ (w - 1) : Int) else (2 ^ (w - 1) : Int) - 1), fIV)
  | .fin s m e =>
    let q := roundAt r s m e 0 false
    let v : Int := if s then -(q.1 : Int) else q.1
    let c := satInt w v
    if c = v then (wrapInt w v, flagIf q.2 fNX) else (wrapInt w c, fIV)

end Sys2Proof.Machine
end

