-- ==== Sys2Proof/Machine/Narrow.lean ====
section
/-! DEFINITION. Narrow element formats (R87-R89), MX blocks and their quantiser and dequantiser (R91-R94), the
matrix feeder (R96, R97), XA64 contributions (R99) and binned cells (R106-R108). -/

namespace Sys2Proof.Machine

/-! ### Narrow elements (R87) -/

/-- A narrow format: width, mantissa width, bias. -/
structure NFmt where
  w : Nat
  mb : Nat
  bias : Nat
  deriving DecidableEq, Repr

def e4m3f : NFmt := ⟨8, 3, 7⟩
def e5m2f : NFmt := ⟨8, 2, 15⟩
def e2m1f : NFmt := ⟨4, 1, 1⟩

/-- The narrow format of a type code 6, 7 or 8 (R160). -/
def nfmtOf (t : BitVec 4) : NFmt := if t == 6 then e4m3f else if t == 7 then e5m2f else e2m1f

/-- Reads a narrow code; the sign-only code is +0 (R88). -/
def readNarrow (f : NFmt) (x : Nat) : Fp :=
  let s := x / 2 ^ (f.w - 1) % 2 == 1
  let e := x / 2 ^ f.mb % 2 ^ (f.w - 1 - f.mb)
  let m := x % 2 ^ f.mb
  if e = 0 then .fin (s && m != 0) m (1 - (f.bias : Int) - f.mb)
  else .fin s (2 ^ f.mb + m) ((e : Int) - f.bias - f.mb)

/-- The largest code of a format. -/
def NFmt.top (f : NFmt) : Nat := 2 ^ (f.w - 1) - 1

/-- enc_elem (R89) of ±m · 2^e, or a magnitude just above it with `st`: code and flags OF and NX. -/
def encElem (f : NFmt) (lim : Nat) (s : Bool) (m : Nat) (e : Int) (st : Bool) : Nat × BitVec 6 :=
  if m = 0 then (0, flagIf st fNX)
  else
    let t := (m.log2 : Int) + e
    let lsb := max (t - f.mb) (1 - (f.bias : Int) - f.mb)
    let q := roundAt .rne s m e lsb st
    let code := if q.1 < 2 ^ f.mb then q.1 else ((lsb + f.mb + f.bias).toNat - 1) * 2 ^ f.mb + q.1
    let sb := if s then 2 ^ (f.w - 1) else 0
    if code = 0 then (0, flagIf q.2 fNX)
    else if lim < code then (sb + lim, fOF ||| fNX)
    else (sb + code, flagIf q.2 fNX)

/-- A conversion to a narrow element without block scaling (R89, R218). -/
def cvtNarrow (f : NFmt) (x : Fp) : Nat × BitVec 6 :=
  match x with
  | .nan _ => (0, fIV)
  | .inf s => ((if s then 2 ^ (f.w - 1) else 0) + f.top, fOF)
  | .fin s m e => encElem f f.top s m e false

/-! ### MX blocks (R92, R93) -/

/-- emax of a block format code (R93). -/
def emaxOf (b : BitVec 4) : Int := if b == 6 then 8 else if b == 7 then 15 else if b == 8 then 2 else 0

/-- Largest element code the quantiser emits (R93, R95). -/
def limCode (b : BitVec 4) (exportMode : Bool) : Nat :=
  if b == 6 then (if exportMode then 0x7E else 0x7F)
  else if b == 7 then (if exportMode then 0x7B else 0x7F)
  else if b == 8 then 7 else 127

/-- An exact real magnitude with its sign: ±m · 2^e, or just above it. -/
structure Mag where
  s : Bool
  m : Nat
  e : Int
  st : Bool
  deriving DecidableEq, Repr

/-- floor(log2) of a nonzero magnitude. -/
def Mag.top (x : Mag) : Int := (x.m.log2 : Int) + x.e

/-- One element of the quantiser rule at block exponent X. -/
def quantElem (b : BitVec 4) (exportMode : Bool) (ex : Int) (x : Mag) : Nat × BitVec 6 :=
  if b == 0xF then
    let q := roundNat x.m (x.e + 6 - ex) x.st
    let v := min q.1 127
    (wrapInt 8 (if x.s then -(v : Int) else v), flagIf (decide (127 < q.1)) fOF ||| flagIf (q.2 || decide (127 < q.1)) fNX)
  else encElem (nfmtOf b) (limCode b exportMode) x.s x.m (x.e - ex) x.st

/-- ORs the flags of a list of results. -/
def orFlags (l : List (Nat × BitVec 6)) : BitVec 6 := l.foldl (fun a x => a ||| x.2) 0

/-- The quantiser rule on finite magnitudes (R93): element codes, scale code, flags. -/
def quantMags (b : BitVec 4) (exportMode : Bool) (xs : List Mag) : List Nat × Nat × BitVec 6 :=
  match (xs.filter (fun x => x.m != 0)).map Mag.top with
  | [] => (xs.map (fun _ => 0), 0, 0)
  | t :: ts =>
    let ex := clampInt (-127) 127 (ts.foldl max t - emaxOf b)
    let rs := xs.map (quantElem b exportMode ex)
    (rs.map Prod.fst, (ex + 127).toNat, orFlags rs)

/-- FMAX, the largest binary32 magnitude, as it replaces an infinity (R93). -/
def fmaxMag (s : Bool) : Mag := { s := s, m := 2 ^ 24 - 1, e := 104, st := false }

/-- The quantiser rule on float values (R93). -/
def quantise (b : BitVec 4) (exportMode satMode : Bool) (xs : List Fp) : List Nat × Nat × BitVec 6 :=
  if xs.any Fp.isNan || (!satMode && xs.any (fun x => match x with | .inf _ => true | _ => false)) then
    (xs.map (fun _ => 0), 0xFF, fIV)
  else
    quantMags b exportMode (xs.map (fun x =>
      match x with
      | .fin s m e => { s := s, m := m, e := e, st := false }
      | .inf s => fmaxMag s
      | .nan _ => { s := false, m := 0, e := 0, st := false }))

/-- The exact value of a block element code under a scale code other than 0xFF (R92). The codes 0x7F and 0xFF of E4M3 and
exponent 31 of E5M2 decode as finite values: R95's text says so, and its table speaks of an import that no word has
(DESIGN CHOICE, log entry 68). -/
def blockElem (b : BitVec 4) (code scale : Nat) : Fp :=
  if b == 0xF then
    let v := sgn 8 code
    .fin (decide (v < 0)) v.natAbs ((scale : Int) - 127 - 6)
  else
    match readNarrow (nfmtOf b) code with
    | .fin s m e => .fin s m (e + scale - 127)
    | x => x

/-- The dequantiser rule for one element (R94). -/
def dequant (b : BitVec 4) (f : FpFmt) (r : RMode) (code scale : Nat) : Nat × BitVec 6 :=
  if scale = 0xFF then (f.nanBits, 0) else putFp f r (blockElem b code scale)

/-! ### The feeder (R96, R97) and contributions (R99) -/

/-- floor(log2) of each nonzero value. -/
def tops (xs : List Fp) : List Int :=
  xs.filterMap (fun x => match x with
    | .fin _ m e => if m = 0 then none else some ((m.log2 : Int) + e)
    | _ => none)

/-- R97: integers at a common exponent; none for a block that holds a NaN or an infinity. -/
def feedFloat (xs : List Fp) : Option (List Int × Int) :=
  if xs.any (fun x => match x with | .fin _ _ _ => false | _ => true) then none
  else
    match tops xs with
    | [] => some (xs.map (fun _ => 0), 0)
    | t :: ts =>
      let e := ts.foldl max t
      some (xs.map (fun x => match x with
        | .fin s m d => (if s then -1 else 1) * ((roundNat m (d + 14 - e) false).1 : Int)
        | _ => 0), e - 14)

/-- A K-block of activations (R96): its integers and implicit exponent, or none where it is invalid. -/
def feedBlock (afmt : BitVec 4) (codes : List Nat) (scale : Nat) : Option (List Int × Int) :=
  if afmt == 0 then some (codes.map (sgn 8), 0)
  else if afmt == 1 then some (codes.map (sgn 16), 0)
  else if afmt == 5 then feedFloat (codes.map (readFp bfloat16))
  else if scale = 0xFF then none
  else if afmt == 0xF then some (codes.map (sgn 8), (scale : Int) - 127 - 6)
  else feedFloat (codes.map (fun c => blockElem afmt c scale))

/-- A contribution before it is added (R99): P · 2^sh floored and held to 64 bits, and OVF. -/
def contribution (p sh : Int) : Int × Bool :=
  let c := shiftInt p sh
  (satInt 64 c, satInt 64 c != c)

/-- A contribution added into a cell (R99): the cell and OVF. -/
def accumulate (cell : Word) (c : Int) : Word × Bool :=
  let a := cell.toInt + c
  (BitVec.ofInt 64 (satInt 64 a), satInt 64 a != a)

/-! ### Binned cells (R106-R108): a cell is a 256-bit number -/

/-- A field of a cell. -/
def cellField (c lo n : Nat) : Nat := c / 2 ^ lo % 2 ^ n

/-- Replaces a field of a cell. -/
def setCellField (c lo n v : Nat) : Nat := c - cellField c lo n * 2 ^ lo + lowBits n v * 2 ^ lo

/-- Reserved bits 63:20 of a cell are zero. -/
def cellOk (c : Nat) : Bool := cellField c 20 44 == 0

/-- A fresh cell with an anchor (R284). -/
def cellInit (a : Nat) : Nat := lowBits 16 a

/-- Adds the slices of ±m · 2^e to bins j and on (R107). -/
def binSlices (a : Int) (s : Bool) : Nat → Nat → Nat → Int → Nat → Nat
  | 0, _, _, _, c => c
  | n + 1, j, m, e, c =>
    let d := a - 24 * ((j : Int) + 1) - e
    let slice := if 0 ≤ d then m / 2 ^ d.toNat else m * 2 ^ (-d).toNat
    let rest := if 0 ≤ d then m % 2 ^ d.toNat else 0
    let lo := 64 * (j + 1)
    let bin := sgn 64 (cellField c lo 64) + (if s then -(slice : Int) else slice)
    binSlices a s n (j + 1) rest e (setCellField c lo 64 (wrapInt 64 bin))

/-- Adds a binary32 code to a cell (R107). -/
def cellAdd (c x : Nat) : Nat :=
  match readFp binary32 x with
  | .nan _ => setCellField c 17 1 1
  | .inf false => setCellField c 18 1 1
  | .inf true => setCellField c 19 1 1
  | .fin s m e =>
    let a := sgn 16 (cellField c 0 16)
    if m = 0 then c
    else if a ≤ (m.log2 : Int) + e then setCellField c 16 1 1
    else binSlices a s 3 0 m e c

/-- The binary32 read-out of a cell (R108). -/
def cellRead (c : Nat) : Nat :=
  let flag := fun i => cellField c i 1 == 1
  if flag 17 || flag 16 || (flag 18 && flag 19) then binary32.nanBits
  else if flag 18 then binary32.infBits
  else if flag 19 then binary32.signBit true + binary32.infBits
  else
    let a := sgn 16 (cellField c 0 16)
    let bin := fun j => sgn 64 (cellField c (64 * (j + 1)) 64)
    (roundInt binary32 .rne false (bin 0 * 2 ^ 48 + bin 1 * 2 ^ 24 + bin 2) (a - 72)).1

end Sys2Proof.Machine
end

