-- ==== Sys2Proof/Machine/LogPath.lean ====
section
/-! DEFINITION. L32 and the log path (R101-R103), and the composite functions as their fixed sequences of
steps (R230, R231). -/

namespace Sys2Proof.Machine

/-- An L32 value: zero, invalid, or a sign with LG as an integer in units of 2^-20. -/
inductive L32 where
  | zero
  | invalid
  | fin (s : Bool) (lg : Int)
  deriving DecidableEq, Repr

/-- Reads an L32 code (R101). -/
def readL32 (x : Nat) : L32 :=
  let lg := x % 2 ^ 31
  if lg = 0x40000000 then .zero
  else if lg = 0x3FFFFFFF then .invalid
  else .fin (x / 2 ^ 31 % 2 == 1) (sgn 31 lg)

/-- The code of an L32 value; zero and invalid are written with S = 0. -/
def L32.code : L32 → Nat
  | .zero => 0x40000000
  | .invalid => 0x3FFFFFFF
  | .fin s lg => (if s then 2 ^ 31 else 0) + wrapInt 31 lg

/-- The finite range of LG (R103). -/
def lgMin : Int := -(2 ^ 30) + 1
def lgMax : Int := 2 ^ 30 - 2

/-- A step's LG saturated, with LS (R103). -/
def lgSat (x : Int) : Int × BitVec 6 :=
  let c := clampInt lgMin lgMax x
  (c, flagIf (c != x) fLS)

/-- A finite result of a step. -/
def L32.mk (s : Bool) (x : Int) : L32 × BitVec 6 := (.fin s (lgSat x).1, (lgSat x).2)

/-- Invalid with IV. -/
def L32.bad : L32 × BitVec 6 := (.invalid, fIV)

/-- Conversion from a float value to L32 (R102). -/
def tol (x : Fp) : L32 × BitVec 6 :=
  match x with
  | .nan _ => L32.bad
  | .inf _ => L32.bad
  | .fin s m e => if m = 0 then (.zero, 0) else L32.mk s ((logRound 20 m : Int) + e * 2 ^ 20)

/-- The antilog of a finite LG (R102): (-1)^s · 2^(LG / 2^20), rounded once. -/
def alogFin (f : FpFmt) (r : RMode) (s : Bool) (lg : Int) : Nat × BitVec 6 :=
  let p := powFloor 20 (lg % 2 ^ 20).toNat 1
  roundFp f r s p.1 (lg / 2 ^ 20 - 128) p.2

/-- The antilog (R102). -/
def alog (f : FpFmt) (r : RMode) (x : L32) : Nat × BitVec 6 :=
  match x with
  | .zero => (0, 0)
  | .invalid => (f.nanBits, 0)
  | .fin s lg => alogFin f r s lg

/-- `lmul` (R229). -/
def lmulStep (x y : L32) : L32 × BitVec 6 :=
  match x, y with
  | .invalid, _ => L32.bad
  | _, .invalid => L32.bad
  | .zero, _ => (.zero, 0)
  | _, .zero => (.zero, 0)
  | .fin s a, .fin t b => L32.mk (s != t) (a + b)

/-- `ldiv` (R229). -/
def ldivStep (x y : L32) : L32 × BitVec 6 :=
  match x, y with
  | .invalid, _ => L32.bad
  | _, .invalid => L32.bad
  | _, .zero => L32.bad
  | .zero, _ => (.zero, 0)
  | .fin s a, .fin t b => L32.mk (s != t) (a - b)

/-- `lroot` by n (R229). -/
def lrootStep (x : L32) (n : Nat) : L32 × BitVec 6 :=
  match x with
  | .invalid => L32.bad
  | .zero => (.zero, 0)
  | .fin s a => if s && n % 2 == 0 then L32.bad else L32.mk s (roundDiv a n)

/-- `lpow` by p = k / 256 (R229). -/
def lpowStep (x : L32) (k : Int) : L32 × BitVec 6 :=
  match x with
  | .invalid => L32.bad
  | .zero => if 0 < k then (.zero, 0) else L32.bad
  | .fin s a =>
    if s && k % 256 != 0 then L32.bad else L32.mk (s && k / 256 % 2 == 1) (roundDiv (a * k) 256)

/-! ### Composite functions (R230) -/

/-- q20: a float value to LG, saturated with LS; none for a NaN, which sets IV. An infinity saturates. -/
def q20 (x : Fp) : Option Int × BitVec 6 :=
  match x with
  | .nan _ => (none, fIV)
  | .inf s => (some (if s then lgMin else lgMax), fLS)
  | .fin s m e =>
    let q := (roundNat m (e + 20) false).1
    let v : Int := if s then -(q : Int) else q
    (some (lgSat v).1, (lgSat v).2)

/-- log2 e in Q11.20. -/
def constE : Int := 0x171547

/-- mulc by a constant in Q11.20. -/
def mulc (g c : Int) : Int × BitVec 6 := lgSat (roundDiv (g * c) (2 ^ 20))

/-- The value of a binary32 code with its flags other than IV and LS dropped: an inner step (R231). -/
def innerFlags (f : BitVec 6) : BitVec 6 := f &&& (fIV ||| fLS)

/-- Rounds a · 2^k for a float value. -/
def scaleFp (x : Fp) (k : Int) : Fp :=
  match x with
  | .fin s m e => .fin s m (e + k)
  | y => y

/-- fsigm up to its final antilog: none for +0 because u overflowed, else the L32 to antilog (R230). -/
def sigmArg (x : Fp) : Option L32 × BitVec 6 :=
  match q20 x.opp with
  | (none, fl) => (some .invalid, fl)
  | (some g, fl) =>
    let h := mulc g constE
    let t := alogFin binary32 .rne false h.1
    let u := addFp binary32 .rne (readFp binary32 t.1) (readFp binary32 0x3F800000)
    match readFp binary32 u.1 with
    | .inf _ => (none, fl ||| h.2)
    | v =>
      match tol v with
      | (.fin _ lg, f2) => (some (.fin false (lgSat (-lg)).1), fl ||| h.2 ||| f2 ||| (lgSat (-lg)).2)
      | (l, f2) => (some l, fl ||| h.2 ||| f2)

/-- fsigm of a finite or NaN operand in a format. -/
def sigmFin (f : FpFmt) (r : RMode) (x : Fp) : Nat × BitVec 6 :=
  match sigmArg x with
  | (none, fl) => (0, fl)
  | (some l, fl) => let y := alog f r l; (y.1, y.2 ||| fl)

/-- The composite functions in the order of their codes 0x78 to 0x7F. -/
inductive Comp where
  | rsqrt | rcp | sqrt | exp2 | log2 | sigm | tanh | silu
  deriving DecidableEq, Repr

/-- The value at an infinity (R230). -/
def compInf (f : FpFmt) (c : Comp) (s : Bool) : Nat × BitVec 6 :=
  let one := f.bias * 2 ^ f.fb
  match c, s with
  | .rsqrt, false => (0, 0)
  | .rsqrt, true => (f.nanBits, fIV)
  | .rcp, s => (f.signBit s, 0)
  | .sqrt, false => (f.infBits, 0)
  | .sqrt, true => (f.nanBits, fIV)
  | .exp2, false => (f.infBits, 0)
  | .exp2, true => (0, 0)
  | .log2, false => (f.infBits, 0)
  | .log2, true => (f.nanBits, fIV)
  | .sigm, false => (one, 0)
  | .sigm, true => (0, 0)
  | .tanh, s => (f.signBit s + one, 0)
  | .silu, false => (f.infBits, 0)
  | .silu, true => (f.signBit true, 0)

/-- A composite of a finite or NaN operand (R230). -/
def compFin (f : FpFmt) (r : RMode) (c : Comp) (x : Fp) : Nat × BitVec 6 :=
  match c with
  | .rsqrt =>
    match tol x with
    | (.fin false lg, fl) => let y := alogFin f r false (roundDiv (-lg) 2); (y.1, y.2 ||| fl)
    | (_, fl) => (f.nanBits, fl ||| fIV)
  | .rcp =>
    match tol x with
    | (.fin s lg, fl) =>
      let g := lgSat (-lg)
      let y := alogFin f r s g.1
      (y.1, y.2 ||| fl ||| g.2)
    | (_, fl) => (f.nanBits, fl ||| fIV)
  | .sqrt =>
    match tol x with
    | (.zero, fl) => (0, fl)
    | (.fin false lg, fl) => let y := alogFin f r false (roundDiv lg 2); (y.1, y.2 ||| fl)
    | (_, fl) => (f.nanBits, fl ||| fIV)
  | .exp2 =>
    match q20 x with
    | (some g, fl) => let y := alogFin f r false g; (y.1, y.2 ||| fl)
    | (none, fl) => (f.nanBits, fl)
  | .log2 =>
    match tol x with
    | (.zero, fl) => (f.signBit true + f.infBits, fl ||| fDZ)
    | (.fin false lg, fl) => let y := roundInt f r false lg (-20); (y.1, y.2 ||| fl)
    | (_, fl) => (f.nanBits, fl ||| fIV)
  | .sigm => sigmFin f r x
  | .tanh =>
    let s := sigmFin binary32 .rne (scaleFp x 1)
    match readFp binary32 s.1 with
    | .nan _ => (f.nanBits, innerFlags s.2)
    | v =>
      let y := fmaFp f r (.fin false 2 0) v (.fin true 1 0)
      (y.1, y.2 ||| innerFlags s.2)
  | .silu =>
    let s := sigmFin binary32 .rne x
    match readFp binary32 s.1 with
    | .nan _ => (f.nanBits, innerFlags s.2)
    | v =>
      let y := mulFp f r x v
      (y.1, y.2 ||| innerFlags s.2)

/-- A composite function of a code (R230). -/
def composite (f : FpFmt) (r : RMode) (c : Comp) (code : Nat) : Nat × BitVec 6 :=
  match readFp f code with
  | .inf s => compInf f c s
  | x => compFin f r c x

end Sys2Proof.Machine
end

