-- ==== Sys2Proof/Machine/QuillMath.lean ====
section
/-! DEFINITION. Quill pairs (R104, R105, R238-R251): their values, canonical rounding, the invariant, and the
results of the quill words as functions of pairs. -/

namespace Sys2Proof.Machine

/-- The classes of a norm (R104). -/
inductive QClass where
  | zero | invalid | finite
  deriving DecidableEq, Repr

/-- The class of a norm code. -/
def normClass (n : BitVec 24) : QClass :=
  if n == 0x800000 then .zero else if n == 0x7FFFFF then .invalid else .finite

/-- The class of a pair. -/
def Quill.cls (q : Quill) : QClass := normClass q.norm

/-- The invalid pair. -/
def Quill.invalid : Quill := { dir := 0, norm := 0x7FFFFF }

/-- Direction code i as a signed integer. -/
def Quill.d (q : Quill) (i : Nat) : Int := (fieldAt q.dir (16 * i) 16).toInt

/-- The 128 direction codes. -/
def Quill.ds (q : Quill) : List Int := (List.range 128).map q.d

/-- The norm as a signed integer. -/
def Quill.n (q : Quill) : Int := q.norm.toInt

/-- Packs `w`-bit codes from bit 0 on. -/
def packNat (w : Nat) : List Nat → Nat
  | [] => 0
  | x :: xs => lowBits w x + 2 ^ w * packNat w xs

/-- A pair from its direction codes and norm. -/
def Quill.of (ds : List Int) (n : Int) : Quill :=
  { dir := BitVec.ofNat 2048 (packNat 16 (ds.map (wrapInt 16))), norm := BitVec.ofInt 24 n }

/-- Sum of squares. -/
def sumSq (ds : List Int) : Int := ds.foldl (fun a d => a + d * d) 0

/-- Well-formed as an image (R240). -/
def Quill.ok (q : Quill) : Bool :=
  match q.cls with
  | .finite =>
    q.ds.all (fun d => decide (-16384 ≤ d) && decide (d ≤ 16384)) &&
      decide ((2 ^ 28 : Int) - 2 ^ 18 ≤ sumSq q.ds) && decide (sumSq q.ds ≤ (2 ^ 28 : Int) + 2 ^ 18)
  | _ => q.dir == 0

/-- round(2^15 · log2 (a + b ρ + c ρ²)) for a positive value, ρ = 2^(t / 2^16). -/
def quadLog (t a b c : Int) : Nat → Nat → Int
  | 0, p =>
    let e := quadEncl p t a b c
    (logRound 15 e.1.toNat : Int) - 65536 * p
  | k + 1, p =>
    let e := quadEncl p t a b c
    let lo := (logRound 15 e.1.toNat : Int)
    let hi := (logRound 15 e.2.toNat : Int)
    if 0 < e.1 ∧ lo = hi then lo - 65536 * p else quadLog t a b c k (2 * p)

/-- The greatest k, at least `k0`, with k² T ≤ 2^30 x² for T = a + b ρ + c ρ² and x = u + v ρ; `n` tries. -/
def dirSearch (t a b c u v : Int) : Nat → Nat → Nat
  | 0, k => k
  | n + 1, k =>
    let j : Int := ((k + 1) * (k + 1) : Nat)
    if 0 ≤ signQuad t (2 ^ 30 * u * u - j * a) (2 ^ 31 * u * v - j * b) (2 ^ 30 * v * v - j * c) then
      dirSearch t a b c u v n (k + 1)
    else k

/-- A lower estimate of floor(2^15 |u + v ρ| / √T) at 192 bits. -/
def dirStart (t a b c u v : Int) : Nat :=
  let x := quadEncl 192 t u v 0
  let m := min x.1.natAbs x.2.natAbs
  let lo := if x.1.sign = x.2.sign then m else 0
  let tt := (quadEncl 192 t a b c).2.toNat
  if tt = 0 then 0 else isqrt (2 ^ 30 * lo * lo / (2 ^ 384 * tt))

/-- round_ne(2^14 · x / √T) for x = u + v ρ (R238). -/
def dirOf (t a b c u v : Int) : Int :=
  let k := dirSearch t a b c u v 8 (dirStart t a b c u v)
  let kk : Int := (k * k : Nat)
  let tie := signQuad t (2 ^ 30 * u * u - kk * a) (2 ^ 31 * u * v - kk * b) (2 ^ 30 * v * v - kk * c) = 0
  let q := if k % 2 = 0 then k / 2 else if tie then (if k / 2 % 2 = 0 then k / 2 else k / 2 + 1) else k / 2 + 1
  signQuad t u v 0 * (q : Int)

/-- canon (R238) of the vector with elements (u_i + v_i ρ) · 2^(base / 2^16): the pair and its flags. -/
def canon (t base : Int) (us vs : List Int) : Quill × BitVec 6 :=
  let a := sumSq us
  let b := 2 * (us.zip vs).foldl (fun s x => s + x.1 * x.2) 0
  let c := sumSq vs
  if signQuad t a b c = 0 then (Quill.zero, 0)
  else
    let l := if b = 0 ∧ c = 0 then (logRound 15 a.toNat : Int) else quadLog t a b c 10 256
    let v := base + l
    if 2 ^ 23 - 2 < v then (Quill.invalid, fOF)
    else if v < -(2 ^ 23) + 1 then (Quill.zero, fUF)
    else (Quill.of ((us.zip vs).map (fun x => dirOf t a b c x.1 x.2)) v, 0)

/-- canon of a tile of float values (R242). -/
def canonFp (xs : List Fp) : Quill × BitVec 6 :=
  if xs.any (fun x => match x with | .fin _ _ _ => false | _ => true) then (Quill.invalid, fIV)
  else
    let e0 := (xs.filterMap (fun x => match x with
      | .fin _ m e => if m = 0 then none else some e
      | _ => none)).foldl min 4096
    canon 0 (e0 * 65536) (xs.map (fun x => if x.isZero then 0 else x.coef e0)) (xs.map (fun _ => 0))

/-- Σ coefficients of A and B: `ca` val(A) + `cb` val(B), scaled by 2^sh (R247). A pair whose coefficient is 0
adds nothing: the other pair's value is then rounded alone, whatever the distance of the two norms. -/
def combine (ca cb : Int) (sh : Int) (x y : Quill) : Quill × BitVec 6 :=
  let zeros := (List.range 128).map (fun _ => (0 : Int))
  match x.cls, y.cls with
  | .invalid, _ => (Quill.invalid, 0)
  | _, .invalid => (Quill.invalid, 0)
  | .zero, .zero => (Quill.zero, 0)
  | .finite, .zero => canon 0 (x.n + (sh - 14) * 65536) (x.ds.map (ca * ·)) zeros
  | .zero, .finite => canon 0 (y.n + (sh - 14) * 65536) (y.ds.map (cb * ·)) zeros
  | .finite, .finite =>
    if ca = 0 then canon 0 (y.n + (sh - 14) * 65536) (y.ds.map (cb * ·)) zeros
    else if cb = 0 then canon 0 (x.n + (sh - 14) * 65536) (x.ds.map (ca * ·)) zeros
    else canon (y.n - x.n) (x.n + (sh - 14) * 65536) (x.ds.map (ca * ·)) (y.ds.map (cb * ·))

/-- `qadd`, `qsub`, `qlerp` (R247). -/
def qaddVal (x y : Quill) : Quill × BitVec 6 := combine 1 1 0 x y
def qsubVal (x y : Quill) : Quill × BitVec 6 := combine 1 (-1) 0 x y
def qlerpVal (t : Nat) (x y : Quill) : Quill × BitVec 6 := combine (65536 - (t : Int)) t (-16) x y

/-- `qscl` by δ (R246). -/
def qsclVal (x : Quill) (d : Int) : Quill × BitVec 6 :=
  match x.cls with
  | .finite =>
    let v := x.n + d
    if 2 ^ 23 - 2 < v then (Quill.invalid, fOF)
    else if v < -(2 ^ 23) + 1 then (Quill.zero, fUF)
    else ({ x with norm := BitVec.ofInt 24 v }, 0)
  | _ => (x, 0)

/-- `qneg` (R246). -/
def qnegVal (x : Quill) : Quill :=
  match x.cls with
  | .finite => { x with dir := (Quill.of (x.ds.map (fun d => -d)) 0).dir }
  | _ => x

/-- `qnset` (R250). -/
def qnsetVal (x : Quill) (c : BitVec 24) : Quill × BitVec 6 :=
  match normClass c, x.cls with
  | .zero, _ => (Quill.zero, 0)
  | .invalid, _ => (Quill.invalid, 0)
  | .finite, .finite => if ({ x with norm := c } : Quill).ok then ({ x with norm := c }, 0) else (Quill.invalid, fIV)
  | .finite, _ => (Quill.invalid, fIV)

/-- |val(q)_i| as a magnitude: exact floor with remainder (R238). -/
def quillMag (q : Quill) (d : Int) : Mag :=
  let p := powFloor 16 (q.n % 65536).toNat d.natAbs
  { s := decide (d < 0), m := p.1, e := q.n / 65536 - 14 - 128, st := p.2 }

/-- One element of `qto` (R243). -/
def qtoElem (f : FpFmt) (r : RMode) (q : Quill) (d : Int) : Nat × BitVec 6 :=
  match q.cls with
  | .zero => (0, 0)
  | .invalid => (f.nanBits, 0)
  | .finite => if d = 0 then (0, 0) else let m := quillMag q d; roundFp f r m.s m.m m.e m.st

/-- Dot product of directions. -/
def dirDot (x y : Quill) : Int := (x.ds.zip y.ds).foldl (fun s p => s + p.1 * p.2) 0

/-- `qcos` (R244). -/
def qcosVal (r : RMode) (x y : Quill) : Nat × BitVec 6 :=
  match x.cls, y.cls with
  | .invalid, _ => (binary32.nanBits, 0)
  | _, .invalid => (binary32.nanBits, 0)
  | .zero, _ => (0, 0)
  | _, .zero => (0, 0)
  | .finite, .finite => roundInt binary32 r false (dirDot x y) (-28)

/-- `qdot` (R245). -/
def qdotVal (r : RMode) (x y : Quill) : Nat × BitVec 6 :=
  match x.cls, y.cls with
  | .invalid, _ => (binary32.nanBits, 0)
  | _, .invalid => (binary32.nanBits, 0)
  | .zero, _ => (0, 0)
  | _, .zero => (0, 0)
  | .finite, .finite =>
    let p := dirDot x y
    if p = 0 then (0, 0)
    else alogFin binary32 r (decide (p < 0)) ((logRound 20 p.natAbs : Int) - 28 * 2 ^ 20 + 16 * (x.n + y.n))

/-- One element of `qrms` (R248): (d / 2^14) · √128 · g; √128 = 8 √2. -/
def qrmsElem (f : FpFmt) (r : RMode) (q : Quill) (d : Int) (g : Nat) : Nat × BitVec 6 :=
  match readFp f g with
  | .nan s => (f.nanBits, flagIf (s && q.cls != .invalid) fIV)
  | gv =>
    match q.cls with
    | .invalid => (f.nanBits, 0)
    | .zero => mulFp f r (.fin false 0 0) gv
    | .finite =>
      match gv with
      | .fin s m e =>
        let p := powFloor 1 1 (d.natAbs * m)
        if d = 0 ∨ m = 0 then (f.signBit (s != decide (d < 0)), 0)
        else roundFp f r (s != decide (d < 0)) p.1 (e - 14 + 3 - 128) p.2
      | _ => mulFp f r (.fin (decide (d < 0)) d.natAbs 0) gv

/-- `qq8` (R249): 128 element codes, 4 scale codes, flags. -/
def qq8Val (q : Quill) : List Nat × List Nat × BitVec 6 :=
  match q.cls with
  | .invalid => ((List.range 128).map (fun _ => 0), [0xFF, 0xFF, 0xFF, 0xFF], fIV)
  | .zero => ((List.range 128).map (fun _ => 0), [0, 0, 0, 0], 0)
  | .finite =>
    let bs := (List.range 4).map (fun b =>
      quantMags 0xF false (((q.ds.drop (32 * b)).take 32).map (fun d =>
        if d = 0 then { s := false, m := 0, e := 0, st := false } else quillMag q d)))
    (bs.flatMap (fun x => x.1), bs.map (fun x => x.2.1), bs.foldl (fun a x => a ||| x.2.2) 0)

end Sys2Proof.Machine
end

