-- ==== Sys2Proof/Machine/Focus.lean ====
section
/-! DEFINITION. Finding things in the package: cores, dies, partitions and their members, die-store addresses;
bringing a core into focus; registers of a core. -/

namespace Sys2Proof.Machine

/-! ### Cores and dies -/

/-- Core `c`. -/
def State.coreAt (s : State) (c : Nat) : Core := if c = s.here then s.core else Sparse.get Core.reset s.others c

/-- Replaces core `c`. -/
def State.setCore (s : State) (c : Nat) (k : Core) : State :=
  if c = s.here then { s with core := k } else { s with others := Sparse.set Core.reset s.others c k }

/-- Brings core `c` into focus; nothing else changes. -/
def State.focus (s : State) (c : Nat) : State :=
  if c = s.here then s
  else
    { s with core := Sparse.get Core.reset s.others c, here := c,
             others := Sparse.set Core.reset (Sparse.erase s.others c) s.here s.core }

/-- Changes the core in focus. -/
def State.onCore (s : State) (f : Core → Core) : State := { s with core := f s.core }

/-- Changes core `c`. -/
def State.modCore (s : State) (c : Nat) (f : Core → Core) : State := s.setCore c (f (s.coreAt c))

/-- The cores that are not as at reset, with their numbers, the one in focus first. -/
def State.cores (s : State) : List (Nat × Core) := (s.here, s.core) :: s.others

/-- The die of a core (R12). -/
def dieOf (c : Nat) : Nat := c / 128

/-- The package-wide number of a core's quad. -/
def quadOf (c : Nat) : Nat := c / 4

/-- Die `d`. -/
def State.die (s : State) (d : Nat) : Die := s.dies[d]?.getD Die.reset

/-- Replaces die `d`. -/
def State.setDie (s : State) (d : Nat) (x : Die) : State := { s with dies := s.dies.setIfInBounds d x }

/-- Changes die `d`. -/
def State.modDie (s : State) (d : Nat) (f : Die → Die) : State := s.setDie d (f (s.die d))

/-- The die of the core in focus. -/
def State.myDie (s : State) : Nat := dieOf s.here

/-- TICK of the die of the core in focus. -/
def State.tick (s : State) : Word := (s.die s.myDie).tick

/-- The number of the next free value advances: every instruction and event takes a fresh one. -/
def State.bump (s : State) : State := { s with free := s.free + 1 }

/-- The k-th free choice between two outcomes at this point of the run (R10, R22, R23). -/
def State.choice (s : State) (k : Nat) : Bool := Config.free 1 (16777216 * s.free + k) == 1

/-! ### Partitions (R51, R114, R333) -/

/-- A core belongs to a member set. -/
def hasCore (m : Config.Members) (c : Nat) : Bool :=
  match m with
  | .quads d q n => dieOf c == d && decide (q ≤ quadOf (c % 128)) && decide (quadOf (c % 128) < q + n)
  | .dies set => set.getLsbD (dieOf c)

/-- The `k` numbers below `n` that a mask sets, filled up by the lowest that it does not. -/
def pickBits {w : Nat} (m : BitVec w) (n k : Nat) : List Nat :=
  ((List.range n).filter (fun i => m.getLsbD i) ++ (List.range n).filter (fun i => !m.getLsbD i)).take k

/-- A quad, by its number in the package, is fused off: four of each die of a grade B part (R2). -/
def Fuses.quadOff (f : Fuses) (q : Nat) : Bool := f.grade == 2 && (pickBits (f.quads[q / 32]?.getD 0) 32 4).contains (q % 32)

/-- An OML channel is fused off: one port of each die of a grade B part (R2). -/
def Fuses.chanOff (f : Fuses) (ch : Nat) : Bool := f.grade == 2 && (pickBits (f.ports[ch / 6]?.getD 0) 6 1).contains (ch % 6)

/-- The cores and the channels fused off. -/
def Fuses.cores (f : Fuses) : List Nat := (List.range Config.cores).filter (fun c => f.quadOff (quadOf c))
def Fuses.chans (f : Fuses) : List Nat := (List.range 24).filter f.chanOff

/-- A core is neither fused off nor excluded. -/
def State.usable (s : State) (c : Nat) : Bool :=
  decide (c < Config.cores) && !s.fuses.quadOff (quadOf c) && !s.exclCores.contains c

/-- Partition `p`, if it exists. -/
def State.part? (s : State) (p : Nat) : Option Part := Sparse.find s.parts p

/-- Replaces partition `p`. -/
def State.setPart (s : State) (p : Nat) (x : Part) : State := { s with parts := Sparse.put s.parts p x }

/-- Changes partition `p` if it exists. -/
def State.modPart (s : State) (p : Nat) (f : Part → Part) : State :=
  match s.part? p with
  | some x => s.setPart p (f x)
  | none => s

/-- The partition of a core. -/
def State.partOf (s : State) (c : Nat) : Option (Nat × Part) :=
  if s.usable c then s.parts.find? (fun e => hasCore e.2.desc.members c) else none

/-- A partition's cores in ascending physical id (R51). -/
def State.members (s : State) (x : Part) : List Nat :=
  (List.range Config.cores).filter (fun c => hasCore x.desc.members c && s.usable c)

/-- A partition's cores on one die (R115). -/
def State.membersOn (s : State) (x : Part) (d : Nat) : List Nat :=
  ((List.range 128).map (· + 128 * d)).filter (fun c => hasCore x.desc.members c && s.usable c)

/-- Dies that hold cores of a partition. -/
def State.diesOf (s : State) (x : Part) : List Nat := (List.range 4).filter (fun d => !(s.membersOn x d).isEmpty)

/-- The partition of the core in focus. -/
def State.myPart (s : State) : Option (Nat × Part) := s.partOf s.here

/-- Its number; 127 stands for none (R373). -/
def State.partNum (s : State) : Nat :=
  match s.myPart with
  | some (p, _) => p
  | none => 127

/-- Members of the focus core's partition on a die; none without a partition. -/
def State.myMembersOn (s : State) (d : Nat) : List Nat :=
  match s.myPart with
  | some (_, x) => s.membersOn x d
  | none => []

/-- FRATE of a partition's link between two dies: halved on a link at half width (R352). -/
def State.frateOf (s : State) (x : Part) (a b : Nat) : Nat :=
  let f := ((x.desc.profiles[x.profile]?).getD (x.desc.profiles.headD ⟨[], [], 1, 1, 1, 1, 1, 1⟩)).frate
  if s.halfLinks.contains (a, b) || s.halfLinks.contains (b, a) then f / 2 else f

/-- The running launch's profile figures of the focus core's partition (R351). -/
def State.figures (s : State) : Config.Profile :=
  match s.myPart with
  | some (_, x) => (x.desc.profiles[x.profile]?).getD (x.desc.profiles.headD ⟨[], [], 1, 1, 1, 1, 1, 1⟩)
  | none => ⟨[], [], 1, 1, 1, 1, 1, 1⟩

/-- The longest time a completion takes after the last arrival, in ticks of the core's die (R197). -/
def State.barLimit (s : State) (scope : BitVec 3) : Nat :=
  if scope == 2 then 16 else if scope == 3 then 48 else if scope == 4 then 128 else s.figures.pbar

/-! ### The die store (R114, R115, R192) -/

/-- A die block address is valid for members per die `ms` (R114). -/
def dieBlockOk (ms : Nat → List Nat) (a : Nat) : Bool :=
  decide (a < 65536) && decide (a % 16384 < 128 * (ms (a / 16384)).length)

/-- Where a die byte address lies: the member core, and the place in `State.dieStore` (R115). -/
def diePlace (ms : Nat → List Nat) (a : Nat) : Nat × Nat :=
  let d := a / 67108864
  let line := a % 67108864 / 128
  let l := ms d
  let m := l.length
  if m = 0 then (0, 0)
  else
    let c := l[line % m]?.getD 0
    (c, Config.shareBytes * c + line / m * 128 + a % 128)

/-- One byte of the die store. -/
def State.dieByte (s : State) (ms : Nat → List Nat) (a : Nat) : Byte := s.dieStore.byte (diePlace ms a).2

/-- `n` bytes of the die store from a die byte address. -/
def State.dieRead (s : State) (ms : Nat → List Nat) (a : Nat) : Nat → List Byte
  | 0 => []
  | n + 1 => s.dieByte ms a :: s.dieRead ms (a + 1) n

/-- Writes bits of bytes of the die store: bytes with the bits that are written. -/
def Store.writeDie (m : Store) (ms : Nat → List Nat) (a : Nat) : List (Byte × Byte) → Store
  | [] => m
  | (b, e) :: r =>
    let p := (diePlace ms a).2
    (m.setByte p ((m.byte p &&& ~~~e) ||| (b &&& e))).writeDie ms (a + 1) r

/-- A block of the die store, gathered beat by beat (R115). -/
def gatherDie (m : Store) (ms : Nat → List Nat) (blk : Nat) : Nat → Store
  | 0 => Store.empty
  | n + 1 =>
    (gatherDie m ms blk n).splice (128 * n) 128 (m.window (diePlace ms (4096 * blk + 128 * n)).2 128)

/-- Replaces a block of the die store, beat by beat. -/
def scatterDie (ms : Nat → List Nat) (blk : Nat) (b : Store) : Nat → Store → Store
  | 0, m => m
  | n + 1, m =>
    (scatterDie ms blk b n m).splice (diePlace ms (4096 * blk + 128 * n)).2 128 (b.window (128 * n) 128)

/-- A block of the die store by die block address. -/
def State.dieBlock (s : State) (ms : Nat → List Nat) (blk : Nat) : Store := gatherDie s.dieStore ms blk 32

/-- Replaces a block of the die store. -/
def State.setDieBlock (s : State) (ms : Nat → List Nat) (blk : Nat) (b : Store) : State :=
  { s with dieStore := scatterDie ms blk b 32 s.dieStore }

/-- The smallest scope that holds the home of a die byte, seen from a core (R136). -/
def dieReach (me home : Nat) : Nat :=
  if home = me then 1 else if quadOf home = quadOf me then 2 else if dieOf home = dieOf me then 3 else 4

/-- The smallest scope that holds every home of `n` die bytes. -/
def State.reachDie (s : State) (ms : Nat → List Nat) (a n : Nat) : Nat :=
  (List.range ((a + n - 1) / 128 - a / 128 + 1)).foldl
    (fun r i => max r (dieReach s.here (diePlace ms (128 * (a / 128 + i))).1)) 0

/-! ### Registers of a core -/

/-- A scalar of a bank; s0 reads zero (R173). -/
def Bank.get (b : Bank) (i : BitVec 5) : Word := if i = 0 then 0 else b.s[i.toNat]'(i.isLt)

/-- Writes a scalar; a write to s0 is discarded (R31, R173). -/
def Bank.put (b : Bank) (i : BitVec 5) (v : Word) : Bank :=
  if i = 0 then b else { b with s := b.s.set i.toNat v (i.isLt) }

/-- The bank of the current state (R302). -/
def Seq.bank (q : Seq) : Bank := if q.sup then q.svr else q.thr

/-- Replaces the bank of the current state. -/
def Seq.setBank (q : Seq) (b : Bank) : Seq := if q.sup then { q with svr := b } else { q with thr := b }

/-- Replaces the bank of a state. -/
def Seq.setBankOf (q : Seq) (sup : Bool) (b : Bank) : Seq := if sup then { q with svr := b } else { q with thr := b }

/-- The bank of a state. -/
def Seq.bankOf (q : Seq) (sup : Bool) : Bank := if sup then q.svr else q.thr

/-- A predicate of a bank. -/
def Bank.pred (b : Bank) (i : BitVec 3) : Bool := b.p.getLsbD i.toNat

/-- Writes a predicate. -/
def Bank.putPred (b : Bank) (i : BitVec 3) (v : Bool) : Bank :=
  { b with p := if v then b.p ||| (1#8 <<< i.toNat) else b.p &&& ~~~(1#8 <<< i.toNat) }

/-- A zero barrier slot. -/
def BSlot.zero : BSlot := { c := 0, scope := 0, arrived := false, done := false }

/-- Barrier slot `b`. -/
def Seq.slot (q : Seq) (b : Nat) : BSlot := Sparse.get BSlot.zero q.bslots b

/-- Writes barrier slot `b`. -/
def Seq.setSlot (q : Seq) (b : Nat) (x : BSlot) : Seq := { q with bslots := Sparse.set BSlot.zero q.bslots b x }

/-- An engine by its stream; the control stream has none and reads as M. -/
def Core.eng (c : Core) (e : Stream) : Engine :=
  match e with
  | .seq => c.em
  | .m => c.em
  | .v => c.ev
  | .x => c.ex

/-- Replaces an engine. -/
def Core.setEng (c : Core) (e : Stream) (x : Engine) : Core :=
  match e with
  | .seq => c
  | .m => { c with em := x }
  | .v => { c with ev := x }
  | .x => { c with ex := x }

/-- Changes an engine. -/
def Core.modEng (c : Core) (e : Stream) (f : Engine → Engine) : Core := c.setEng e (f (c.eng e))

/-- The code of a stream in TINFO.ENG and trace records (R307, R389). -/
def streamCode : Stream → Nat
  | .seq => 0
  | .m => 1
  | .v => 2
  | .x => 3

/-- The three engines. -/
def engines : List Stream := [.m, .v, .x]

/-- Position of an engine among M, V, X. -/
def engIdx : Stream → Nat
  | .seq => 0
  | .m => 0
  | .v => 1
  | .x => 2

/-- Whether a core is empty of engine work: no queue entry and no running section. -/
def Core.enginesIdle (c : Core) : Bool :=
  engines.all (fun e => (c.eng e).queue.isEmpty && (c.eng e).run == none)

end Sys2Proof.Machine
end

