-- ==== Sys2Proof/Machine/Translate.lean ====
section
/-! DEFINITION. Address translation (R353-R361) and keyed main memory (R363-R365). -/

namespace Sys2Proof.Machine

/-! ### Channels (R131) -/

/-- A channel is active: neither fused off nor excluded. -/
def State.chanActive (s : State) (ch : Nat) : Bool :=
  decide (ch < 24) && !s.fuses.chanOff ch && !s.exclChans.contains ch

/-- The active channels, by die, then port. -/
def State.activeChans (s : State) : List Nat := (List.range 24).filter s.chanActive

/-- The channel fold (R131): the active channel's index and the block number within it. -/
def fold (count pbn : Nat) : Nat × Nat :=
  let f := (List.range 6).foldl (fun a i => a ^^^ (pbn / 64 ^ i % 64)) 0
  let h := pbn / 64 * 64 + f
  (h % count, h / count)

/-- The channel of a physical block. -/
def State.chanOf (s : State) (pbn : Nat) : Nat :=
  let l := s.activeChans
  if l.length = 0 then 0 else l[(fold l.length pbn).1]?.getD 0

/-- The state of a physical block's channel (R398). -/
def State.chanState (s : State) (pbn : Nat) : Nat := ((s.chans[s.chanOf pbn]?).map (fun c => c.state.toNat)).getD 0

/-- The channel has failed: path failure (R126). -/
def State.broken (s : State) (pbn : Nat) : Bool := s.chanState pbn == 7

/-- The channel carries traffic (R398). -/
def State.carries (s : State) (pbn : Nat) : Bool := decide (4 ≤ s.chanState pbn) && decide (s.chanState pbn ≤ 6)

/-! ### Slot tables (R132, R349, R350) and failed links (R396) -/

/-- An unassigned entry. -/
def freeEntry : BitVec 8 := 0xFF

/-- A table entry of a partition, for its launches or, with H set, its host traffic. -/
def slotEntry (p : Nat) (host : List Nat) (i : Nat) : BitVec 8 :=
  BitVec.ofNat 8 ((if host.contains i then 128 else 0) + p % 128)

/-- A partition's launches own an opportunity in a channel's table: its block transfers use no other (R132). -/
def State.hasSlot (s : State) (p pbn : Nat) : Bool :=
  let ch := s.chanOf pbn
  s.chanTab.any (fun e => e.1 / 512 == ch && e.2.toNat == p)

/-- The number of a Fadric direction in the tables (DESIGN CHOICE, log entry 70). -/
def fadDir (a b : Nat) : Nat := 3 * a + if b < a then b else b - 1

/-- The link between two dies has failed. -/
def State.linkFailed (s : State) (a b : Nat) : Bool := a != b && ((s.die a).failed.getLsbD b || (s.die b).failed.getLsbD a)

/-- Beats of the focus core's partition may go from die `a` to die `b`: it owns an opportunity there. -/
def State.fadOpen (s : State) (a b : Nat) : Bool :=
  a == b || s.fadTab.any (fun e => e.1 / 1024 == fadDir a b && e.2.toNat == s.partNum)

/-! ### Homes (R117, R125, R127) -/

/-- A block of this package. -/
def Home.near (pbn : Nat) : Home := { pod := false, pbn := pbn }

/-- A home is locked at its port (R125). -/
def State.locked (s : State) (h : Home) : Bool := s.locks.any (fun l => l.home == h)

/-- A home is parked (R127). -/
def State.isParked (s : State) (h : Home) : Bool := s.parked.any (fun l => l.1 == h)

/-- A block of this package cannot be read: it is parked, or its channel has failed. -/
def State.lostBlock (s : State) (pbn : Nat) : Bool := s.isParked (Home.near pbn) || s.broken pbn

/-! ### Keys (R363-R365) -/

/-- The identity of the key in a slot; none where the slot is empty (R363). -/
def State.keyIdent (s : State) (k : BitVec 11) : Option Nat := (Sparse.find s.keys k.toNat).map KeySlot.ident

/-- The 16-byte unit `u` of main memory as a key reads it (R365): main holds the plaintext of the key that sealed the
unit, and another key decrypts what that key made of it. The tweak is the beat's PA >> 7. -/
def State.mainUnit (s : State) (ident u : Nat) : BitVec 128 :=
  let p := BitVec.ofNat 128 (s.main.num (16 * u) 16)
  let w := Sparse.get 0 s.seals u
  if w = ident then p
  else (Config.xts (Config.keyPair ident) (u / 8) (u % 8)).symm (Config.xts (Config.keyPair w) (u / 8) (u % 8) p)

/-- One byte of main memory read under a key. -/
def State.mainByte (s : State) (ident a : Nat) : Byte :=
  if Sparse.get 0 s.seals (a / 16) = ident then s.main.byte a else fieldAt (s.mainUnit ident (a / 16)) (8 * (a % 16)) 8

/-- `n` bytes of main memory under a key identity. -/
def State.mainBytes (s : State) (ident a : Nat) : Nat → List Byte
  | 0 => []
  | n + 1 => s.mainByte ident a :: s.mainBytes ident (a + 1) n

/-- A read under a key slot: the bytes, and whether they come poisoned, as they do through an empty slot. -/
def State.mainRead (s : State) (k : BitVec 11) (a n : Nat) : List Byte × Bool :=
  match s.keyIdent k with
  | some i => (s.mainBytes i a n, s.main.poisoned a n)
  | none => (List.replicate n 0, true)

/-- Brings a 16-byte unit under a key, keeping what that key reads and so what the port stores of it. -/
def State.reseal (s : State) (ident u : Nat) : State :=
  if Sparse.get 0 s.seals u = ident then s
  else
    { s with main := s.main.setBytes (16 * u) (s.mainBytes ident (16 * u) 16),
             seals := Sparse.set 0 s.seals u ident }

/-- Brings `n` units under a key. -/
def State.resealAll (s : State) (ident u : Nat) : Nat → State
  | 0 => s
  | n + 1 => (s.reseal ident u).resealAll ident (u + 1) n

/-- How many aligned runs of `w` bytes a run of bytes touches. -/
def runsOf (w a n : Nat) : Nat := if n = 0 then 0 else (a + n - 1) / w - a / w + 1

/-- The beats a run of bytes touches. -/
def beatsOf (a n : Nat) : Nat := runsOf 128 a n

/-- Writes bytes of main memory under a key; whole words written lose their poison. -/
def State.mainPut (s : State) (ident a : Nat) (bs : List Byte) : State :=
  let t := s.resealAll ident (a / 16) (runsOf 16 a bs.length)
  { t with main := t.main.write a bs }

/-- A physical block under a key slot; every word poisoned through an empty slot. -/
def State.mainBlock (s : State) (k : BitVec 11) (pbn : Nat) : Store :=
  match s.keyIdent k with
  | some i =>
    if (List.range 256).all (fun b => Sparse.get 0 s.seals (256 * pbn + b) == i) then s.main.block pbn
    else { Store.ofBytes (s.mainBytes i (4096 * pbn) 4096) with poison := (s.main.block pbn).poison }
  | none => Store.empty.allPoison

/-- Seals a run of units with a key. -/
def sealUnits (ident u : Nat) : Nat → Sparse Nat → Sparse Nat
  | 0, m => m
  | n + 1, m => sealUnits ident (u + 1) n (Sparse.set 0 m u ident)

/-- Writes `n` beats of a physical block under a key, from beat `i` on. -/
def State.putMainBeats (s : State) (ident pbn i n : Nat) (b : Store) : State :=
  { s with main := s.main.splice (4096 * pbn + 128 * i) (128 * n) (b.window (128 * i) (128 * n)),
           seals := sealUnits ident (256 * pbn + 8 * i) (8 * n) s.seals }

/-! ### The walk (R354-R358) -/

/-- A run of physical bytes lies wholly inside a window of the partition (R356). -/
def inWindow (x : Config.Descriptor) (a n : Nat) : Bool :=
  x.windows.any (fun w => decide (65536 * w.1 ≤ a) && decide (a + n ≤ 65536 * (w.1 + w.2)))

/-- Bits of an address below a page of each level, bits of its index, and the bytes of its table (R354). -/
def levelShift (l : Nat) : Nat := if l = 0 then 39 else if l = 1 then 30 else if l = 2 then 21 else 16
def levelEntries (l : Nat) : Nat := if l = 0 then 8192 else if l = 3 then 32 else 512
def tableBytes (l : Nat) : Nat := 8 * levelEntries l

/-- A fault: kind and level. -/
abbrev XFault := BitVec 8 × Nat

/-- Fields of a table entry (R355). -/
def entKey (e : Word) : BitVec 11 := fieldAt e 49 11
def entAddr (e : Word) : Nat := 256 * (fieldAt e 8 40).toNat
def entBit (e : Word) (i : Nat) : Bool := e.getLsbD i
def entReserved (e : Word) : Bool := e &&& 0xF0010000000000E4 != 0

/-- What an entry ends the walk with, or the table it points to (R357). -/
def entryStep (s : State) (p : Nat) (x : Config.Descriptor) (l : Nat) (e : Word) : Except XFault (Sum Word Nat) :=
  if !entBit e 0 then .error (0x01, l)
  else if entReserved e then .error (0x03, l)
  else if entBit e 1 then
    if l = 0 then .error (0x02, l)
    else if entAddr e % 2 ^ levelShift l ≠ 0 then .error (0x05, l)
    else if !inWindow x (entAddr e) (2 ^ levelShift l) then .error (0x04, l)
    else
      match Sparse.find s.keys (entKey e).toNat with
      | some k => if k.part = some p then .ok (.inl e) else .error (0x13, l)
      | none => .error (0x13, l)
  else if l = 3 then .error (0x02, l)
  else if entKey e != 0 || entBit e 3 || entBit e 4 then .error (0x03, l)
  else if entAddr e % tableBytes (l + 1) ≠ 0 then .error (0x05, l)
  else .ok (.inr (entAddr e))

/-- The walk from a table of level `4 - n` (R357). An entry whose bytes do not come whole, through an empty slot, poisoned
or from a block that is parked or whose channel has failed, ends it with kind 0x13 (DEDUCED, log entry 66). -/
def walkFrom (s : State) (p : Nat) (x : Config.Descriptor) (tkey : BitVec 11) (va : Nat) :
    Nat → Nat → Except XFault (Word × Nat)
  | 0, _ => .error (0x02, 3)
  | n + 1, t =>
    let l := 3 - n
    if !inWindow x t (tableBytes l) then .error (0x04, l)
    else
      let a := t + 8 * (va / 2 ^ levelShift l % levelEntries l)
      let r := s.mainRead tkey a 8
      if r.2 || s.lostBlock (a / 4096) then .error (0x13, l)
      else
        match entryStep s p x l (BitVec.ofNat 64 (natOfBytes r.1)) with
        | .error f => .error f
        | .ok (.inl e) => .ok (e, l)
        | .ok (.inr t') => walkFrom s p x tkey va n t'

/-- The walk of a virtual address under an ASID of partition `p`: leaf entry and level (R357). -/
def State.walk (s : State) (p : Nat) (asid : BitVec 16) (va : Nat) : Except XFault (Word × Nat) :=
  match s.part? p with
  | none => .error (0x06, 0)
  | some x =>
    match x.desc.bindings.find? (fun b => b.asid == asid) with
    | none => .error (0x06, 0)
    | some b => walkFrom s p x.desc b.tkey va 4 b.root

/-- The leaf for the block that holds an address (R353). -/
def leafOf (e : Word) (l va : Nat) : Leaf :=
  { pbn := (entAddr e + va % 2 ^ levelShift l) / 4096, key := entKey e, at_ := entBit e 4, w := entBit e 3 }

/-- What a request needs of a leaf (R358). -/
inductive Need where
  | read | write | atomic | readAtomic
  deriving DecidableEq, Repr

/-- The permission check (R358). -/
def permit (n : Need) (e : Word) (l va : Nat) : Except XFault Leaf :=
  let f := leafOf e l va
  match n with
  | .read => .ok f
  | .write => if f.w then .ok f else .error (0x11, l)
  | .atomic => if !f.w then .error (0x11, l) else if !f.at_ then .error (0x12, l) else .ok f
  | .readAtomic => if f.at_ then .ok f else .error (0x12, l)

/-- Translation by a walk, as the launch hardware, the host port and the trace units make it. -/
def State.translate (s : State) (p : Nat) (asid : BitVec 16) (n : Need) (va : Nat) : Except XFault Leaf :=
  match s.walk p asid va with
  | .error f => .error f
  | .ok (e, l) => permit n e l va

/-- Translation under a partition's own ASID. -/
def State.translateP (s : State) (p : Nat) (n : Need) (va : Nat) : Except XFault Leaf :=
  match s.part? p with
  | none => .error (0x06, 0)
  | some x => s.translate p x.desc.asid n va

/-! ### TLBs (R360) -/

/-- An entry holds an address of an ASID. -/
def TlbEntry.holds (t : TlbEntry) (asid : BitVec 16) (va : Nat) : Bool :=
  t.asid == asid && t.vpage * 65536 / 2 ^ levelShift t.level == va / 2 ^ levelShift t.level

/-- An entry of partition `p` found in the core's or its die's TLB. Which entries are kept is not defined, so a free
choice may take an entry away (R360). -/
def State.tlbHit (s : State) (k p : Nat) (asid : BitVec 16) (va : Nat) : Option TlbEntry :=
  match (s.core.tlb ++ (s.die s.myDie).tlb).find? (fun t => t.part == p && t.holds asid va) with
  | some t => if s.choice k then none else some t
  | none => none

/-- A request's first look at its translation: a hit, whose leaf meets the window and key checks a walk would make of it,
or a wait for the walker. -/
def State.lookup (s : State) (k : Nat) (n : Need) (va : Nat) : Xlat :=
  match s.myPart with
  | none => .wait
  | some (p, x) =>
    match s.tlbHit k p s.core.seq.asid va with
    | none => .wait
    | some t =>
      match entryStep s p x.desc t.level t.entry with
      | .ok (.inl e) =>
        (match permit n e t.level va with
         | .ok l => .ok l
         | .error (a, b) => .bad a b)
      | _ => .wait

/-- Fills the TLBs of a core and its die after a walk. -/
def State.fillTlb (s : State) (c : Nat) (t : TlbEntry) : State :=
  (s.modCore c (fun k => { k with tlb := (t :: k.tlb).take 1024 })).modDie (dieOf c)
    (fun d => { d with tlb := (t :: d.tlb).take 32768 })

/-- TADDR of a translation fault (R359). -/
def faultAddr (kind : BitVec 8) (level vbn pkg : Nat) : Word :=
  BitVec.ofNat 64 (vbn % 2 ^ 40 + level % 16 * 2 ^ 44 + kind.toNat * 2 ^ 48 + pkg % 256 * 2 ^ 56)

/-- A kind is a translation fault rather than a key or permission fault (R359). -/
def isXlatFault (kind : BitVec 8) : Bool := decide (kind.toNat ≤ 6)

end Sys2Proof.Machine
end

