-- ==== Sys2Proof/Machine/Observe.lean ====
section
/-! DEFINITION. What the machine records about itself: blotters and trace rings (R383-R391), error banks
(R370-R374) and host reports (R376). Nothing here changes what a core computes. -/

namespace Sys2Proof.Machine

/-- Packs fields (width, value), highest first. -/
def packHi (l : List (Nat × Nat)) : Nat := l.foldl (fun a x => a * 2 ^ x.1 + x.2 % 2 ^ x.1) 0

/-! ### Trace records (R389, R390) -/

/-- A trace record. -/
def traceWord (type lcore eng secno widx delta : Nat) (arg : Word) : BitVec 128 :=
  BitVec.ofNat 128 (packHi [(4, type), (9, lcore), (2, eng), (12, secno), (14, widx), (23, delta), (64, arg.toNat)])

/-- An extend record. -/
def extendWord (ticks : Nat) : BitVec 128 := traceWord 0xE 0 0 0 0 0 (BitVec.ofNat 64 ticks)

/-- A clock mark of a die (R390). -/
def State.markWord (s : State) (d : Nat) : BitVec 128 :=
  BitVec.ofNat 128 (packHi [(4, 0xF), (60, (s.die d).tick.toNat), (16, s.nib.nom.toNat), (48, s.refCount.toNat)])

/-- Puts a record at the blotter's place (R383). -/
def Obs.put (o : Obs) (r : BitVec 128) : Obs :=
  { o with blot := Sparse.set 0 o.blot o.wptr.toNat r, wptr := o.wptr + 1 }

/-- Writes the blotter's clock mark. -/
def Obs.putMark (o : Obs) (now : Word) (mark : BitVec 128) : Obs :=
  { o.put mark with blast := now, bmark := false, bsince := 0 }

/-- A blotter records a record of its core while EN = 1 and FROZEN = 0 (R383, R389, R390). -/
def Obs.log (o : Obs) (now : Word) (mark : BitVec 128) (type lcore eng secno widx : Nat) (arg : Word) : Obs :=
  if !o.ben || o.bfrozen then o
  else
    let o1 := if o.bmark then o.putMark now mark else o
    let d := (now - o1.blast).toNat
    let o2 := if d < 2 ^ 23 then o1 else o1.put (extendWord d)
    { o2.put (traceWord type lcore eng secno widx (if d < 2 ^ 23 then d else 0) arg) with blast := now }

/-- A trigger enabled in BLCTL freezes the blotter (R384). -/
def Obs.trigger (o : Obs) (bit : Nat) : Obs :=
  if o.btrig.getLsbD (bit - 2) then { o with bfrozen := true, hit := o.hit || bit != 7 } else o

/-- Logs a record in core `c`'s blotter. -/
def State.blot (s : State) (c type eng secno widx : Nat) (arg : Word) : State :=
  let d := dieOf c
  s.modCore c (fun k =>
    { k with obs := k.obs.log (s.die d).tick (s.markWord d) type k.share.lcore eng secno widx arg })

/-- Freezes core `c`'s blotter where the trigger is enabled. -/
def State.blotTrigger (s : State) (c bit : Nat) : State :=
  s.modCore c (fun k => { k with obs := k.obs.trigger bit })

/-- Every blotter of a die whose trigger is enabled takes a record and freezes; core `own` has taken it already. -/
def State.blotDie (s : State) (d bit type : Nat) (own : Option Nat) (arg : Word) : State :=
  (List.range 128).foldl (fun t i =>
    let c := 128 * d + i
    if (t.coreAt c).obs.btrig.getLsbD (bit - 2) then
      (if own = some c then t else t.blot c type 0 0 0 arg).blotTrigger c bit
    else t) s

/-- Records a ring holds (R389). -/
def Part.ringCap (x : Part) : Nat := (x.trsize.toNat + 1) * 256

/-- A fresh ring of a partition. -/
def Ring.new (p : Nat) : Ring :=
  { part := p, head := 0, tail := 0, last := 0, mark := true, sinceMark := 0, lost := 0, pend := [] }

/-- A partition's ring on a die. -/
def Die.ring (d : Die) (p : Nat) : Ring := (d.rings.find? (fun r => r.part == p)).getD (Ring.new p)

/-- Replaces it. -/
def Die.setRing (d : Die) (r : Ring) : Die :=
  { d with rings := r :: d.rings.filter (fun q => q.part != r.part) }

/-- Changes a partition's ring on a die. -/
def State.modRing (s : State) (p d : Nat) (f : Ring → Ring) : State := s.modDie d (fun k => k.setRing (f (k.ring p)))

/-- Writes one record into a partition's ring on a die; none while the ring is full, while the partition's opportunities
fall short (a free choice, or the home is locked), or where the write does not reach main memory (R391). -/
def State.ringPut (s : State) (p d : Nat) (x : Part) (w : BitVec 128) : Option State :=
  let r := (s.die d).ring p
  let va := 4096 * (x.trbase.toNat + d * (x.trsize.toNat + 1)) + 16 * (r.head.toNat % x.ringCap)
  if x.ringCap ≤ (r.head - r.tail).toNat ∨ s.choice 65000 then none
  else
    match s.translateP p .write va with
    | .error _ => none
    | .ok l =>
      match s.keyIdent l.key with
      | none => none
      | some i =>
        if s.locked (Home.near l.pbn) || s.lostBlock l.pbn then none
        else
          some ((s.mainPut i (4096 * l.pbn + va % 4096) (bytesOfNat 16 w.toNat)).modRing p d
            (fun q => { q with head := q.head + 1, last := (s.die d).tick })).bump

/-- Writes a clock mark into a ring (R390). -/
def State.ringMark (s : State) (p d : Nat) (x : Part) : Option State :=
  (s.ringPut p d x (s.markWord d)).map (fun t => t.modRing p d (fun q => { q with mark := false, sinceMark := 0 }))

/-- Ticks since a ring's last record. -/
def State.ringGap (s : State) (p d : Nat) : Nat := ((s.die d).tick - ((s.die d).ring p).last).toNat

/-- Writes a record with its DELTA, an extend record first where it does not fit (R389). -/
def State.ringDelta (s : State) (p d : Nat) (x : Part) (f : Nat → BitVec 128) : Option State :=
  let dt := s.ringGap p d
  if dt < 2 ^ 23 then s.ringPut p d x (f dt) else (s.ringPut p d x (extendWord dt)).bind (fun t => t.ringPut p d x (f 0))

/-- Writes the loss record that must come first after records were dropped, and lets a mark follow it (R391). Where a
mark is due before it, no DELTA is counted (R390). -/
def State.ringLoss (s : State) (p d : Nat) (x : Part) : Option State :=
  let r := (s.die d).ring p
  let w := fun dt => traceWord 0xA 0 0 0 0 dt (BitVec.ofNat 64 r.lost)
  if r.lost = 0 then some s
  else
    (if r.mark then s.ringPut p d x (w 0) else s.ringDelta p d x w).map
      (fun t => t.modRing p d (fun q => { q with lost := 0, mark := true }))

/-- A record of the present tick as a ring takes it: with the loss record and the clock mark that must stand before it,
or dropped and counted (R389-R391). -/
def State.ringTake (s : State) (p d : Nat) (x : Part) (e : Nat × Nat × Nat × Nat × Nat × Word) : State :=
  let (type, lcore, eng, secno, widx, arg) := e
  let t := (s.ringLoss p d x).getD s
  let u := if ((t.die d).ring p).lost = 0 then
      (if ((t.die d).ring p).mark then t.ringMark p d x else some t) else none
  let v := u.bind (fun w => w.ringDelta p d x (fun dt => traceWord type lcore eng secno widx dt arg))
  v.getD ((u.getD t).modRing p d (fun q => { q with lost := q.lost + 1 }))

/-- Places a record of a tick after those of lower LCORE, then lower ENG (R389). -/
def pendInsert (e : Nat × Nat × Nat × Nat × Nat × Word) :
    List (Nat × Nat × Nat × Nat × Nat × Word) → List (Nat × Nat × Nat × Nat × Nat × Word)
  | [] => [e]
  | f :: r => if e.2.1 < f.2.1 ∨ (e.2.1 = f.2.1 ∧ e.2.2.1 < f.2.2.1) then e :: f :: r else f :: pendInsert e r

/-- The end of a tick of a die: every ring writes the records of the tick in their order. -/
def State.ringFlush (s : State) (d : Nat) : State :=
  (s.die d).rings.foldl (fun t r =>
    match t.part? r.part with
    | none => t
    | some x =>
      r.pend.foldl (fun u e => u.ringTake r.part d x e) (t.modRing r.part d (fun q => { q with pend := [] }))) s

/-- A trace record of a type enabled in TRCTL, for a partition's ring on a die: it is written as the tick ends (R389). -/
def State.ringLog (s : State) (p d type lcore eng secno widx : Nat) (arg : Word) : State :=
  match s.part? p with
  | none => s
  | some x =>
    if !x.tren || !x.trmask.getLsbD (type - 1) then s
    else s.modRing p d (fun q => { q with pend := pendInsert (type, lcore, eng, secno, widx, arg) q.pend })

/-- A record of the core in focus, in its blotter and in its partition's ring. -/
def State.note (s : State) (type : Nat) (e : Stream) (secno widx : Nat) (arg : Word) : State :=
  (s.blot s.here type (streamCode e) secno widx arg).ringLog s.partNum s.myDie type s.core.share.lcore (streamCode e) secno widx arg

/-! ### Error banks (R370-R374) -/

/-- The class of a KIND (R371). -/
def kindClass (k : BitVec 8) : Nat :=
  if k == 0x01 || k == 0x03 || k == 0x06 || k == 0x12 || k == 0x14 || k == 0x15 then 0
  else if k == 0x0D || k == 0x0E || k == 0x13 then 2
  else 1

/-- Word 0 of a fresh record. -/
def errWord0 (ev : ErrEv) : Word :=
  BitVec.ofNat 64 (packHi [(1, 1), (1, 0), (2, kindClass ev.kind), (4, 0), (8, ev.src.toNat), (8, ev.kind.toNat),
    (7, ev.part.toNat), (1, 0), (16, 0), (16, 0)])

/-- Word 2 of a record: an address for near, die-store, main and module events and a parked block; else 0 (R373). -/
def errAddr (ev : ErrEv) : Word :=
  if ev.src == 0x01 || ev.src == 0x10 || ev.src == 0x20 || ev.kind == 0x0D then ev.addr &&& 0x0000FFFFFFFFFFFF else 0

/-- The record of an event (R373). -/
def errRecord (ev : ErrEv) (tick : Word) : Vector Word 8 :=
  #v[(errWord0 ev), tick, errAddr ev, ev.detail,
     BitVec.ofNat 64 (packHi [(32, ev.ctx.toNat), (16, ev.asid.toNat), (16, 0)]),
     BitVec.ofNat 64 (packHi [(9, if ev.ofCore then ev.core.toNat else 0x1FF), (2, ev.eng.toNat), (12, ev.sec.toNat), (14, ev.widx.toNat),
       (20, ev.token.toNat), (7, 0)]),
     if ev.kind == 0x0E then ev.word6 else 0, 0]

/-- A saturating 16-bit counter field. -/
def satField (w : Word) (lo : Nat) : Word :=
  if fieldAt w lo 16 == 0xFFFF then w else w + (1#64 <<< lo)

/-- An event reaches a bank (R374). -/
def recordIn (b : Vector Word 8) (ev : ErrEv) (tick : Word) : Vector Word 8 :=
  let w := b[0]
  let c := kindClass ev.kind
  if !w.getLsbD 63 then errRecord ev tick
  else if c = 0 then b.set 0 (satField w 0 ||| (1#64 <<< 56))
  else if fieldAt w 60 2 == 0 || w.getLsbD 62 then errRecord ev tick
  else b.set 0 (satField w 16 ||| (1#64 <<< 59) ||| (if c = 1 then 1#64 <<< 57 else 1#64 <<< 58))

/-- The error bank of a core's events on its die (R372). -/
def bankOfCore (c : Nat) : Nat := c % 128 / 16

/-- A bank of a die. -/
def Die.bank (d : Die) (b : Nat) : Vector Word 8 := d.banks[b]?.getD (Vector.replicate 8 0)

/-- What a bank held before the events of the present tick, which is what a read or a clear of the tick finds (R374; log
entry 67), and those events in their order. -/
def Die.bankBase (d : Die) (b : Nat) : Vector Word 8 := ((d.today.find? (fun e => e.1 == b)).map (fun e => e.2.1)).getD (d.bank b)
def Die.bankEvents (d : Die) (b : Nat) : List ErrEv := ((d.today.find? (fun e => e.1 == b)).map (fun e => e.2.2)).getD []

/-- The core of an event, 0x1FF for none (R373). -/
def errCoreId (ev : ErrEv) : Nat := if ev.ofCore then ev.core.toNat else 0x1FF

/-- One event of a tick is taken before another: fatal, contained, corrected; then ascending SRC; then core id (R374). -/
def evFirst (a b : ErrEv) : Bool :=
  let ca := kindClass a.kind
  let cb := kindClass b.kind
  decide (cb < ca) || (ca == cb && (decide (a.src < b.src) || (a.src == b.src && decide (errCoreId a < errCoreId b))))

/-- Places an event among those of its tick. -/
def evInsert (ev : ErrEv) : List ErrEv → List ErrEv
  | [] => [ev]
  | f :: r => if evFirst ev f then ev :: f :: r else f :: evInsert ev r

/-- A bank as the events of the tick leave it, from what it held before them. -/
def Die.retake (d : Die) (b : Nat) (base : Vector Word 8) (evs : List ErrEv) : Die :=
  { d with banks := d.banks.setIfInBounds b (evs.foldl (fun w ev => recordIn w ev d.tick) base),
           today := if evs.isEmpty then d.today else (b, base, evs) :: d.today.filter (fun e => e.1 != b) }

/-- An event reaches a bank in the present tick (R374). -/
def Die.bankEvent (d : Die) (b : Nat) (ev : ErrEv) : Die := d.retake b (d.bankBase b) (evInsert ev (d.bankEvents b))

/-- A clear or a read of a bank takes effect before the events of its tick (R374). -/
def Die.modBank (d : Die) (b : Nat) (f : Vector Word 8 → Vector Word 8) : Die :=
  d.retake b (f (d.bankBase b)) (d.bankEvents b)

/-- Reports an event of a class to the host (R376): status bits, and at most one message of each class per
1,000 ticks of die 0. -/
def State.report (s : State) (c : Nat) : State :=
  let h := s.host
  let now := (s.die 0).tick
  let quiet := match (h.sent[c]?.getD none) with
    | some t => decide ((now - t).toNat < 1000)
    | none => false
  let h1 := if c = 0 then { h with cor := true } else { h with unc := true }
  if quiet || (c == 0 && h.maskCor) then { s with host := h1 }
  else
    let m : HostMsg := if c = 0 then .errCor else if c = 2 || h.sevFatal then .errFatal else .errNonfatal
    { s with host := { h1 with sent := h.sent.setIfInBounds c (some now) }, hostLog := s.hostLog ++ [m] }

/-- An ECC event of a core's own sources: a word found bad, an exchange abandoned for one included (R371, R384). -/
def errIsEcc (ev : ErrEv) : Bool :=
  (ev.kind == 0x01 || ev.kind == 0x02 || (ev.kind == 0x08 && ev.detail == 3)) && 1 ≤ ev.src.toNat && ev.src.toNat ≤ 6

/-- Blotters take an error event and freeze where a trigger is enabled (R384). -/
def State.blotError (s : State) (d : Nat) (ev : ErrEv) : State :=
  let c := ev.core.toNat
  let own := if ev.ofCore then some c else none
  let s1 := if ev.ofCore then s.blot c 0xB ev.eng.toNat ev.sec.toNat ev.widx.toNat (errWord0 ev) else s
  let s2 := if ev.ofCore && errIsEcc ev then s1.blotTrigger c 2 else s1
  if kindClass ev.kind = 2 then s2.blotDie d 6 0xB own (errWord0 ev)
  else if ev.kind == 0x14 then s2.blotDie d 5 0xB own (errWord0 ev)
  else s2

/-- An event reaches bank `b` of die `d`: it is recorded, reported and traced (R374, R376, R384, R389). -/
def State.raise (s : State) (d b : Nat) (ev : ErrEv) : State :=
  let s1 := s.modDie d (fun k => k.bankEvent b ev)
  let s2 := s1.report (kindClass ev.kind)
  let s3 := s2.blotError d ev
  s3.ringLog ev.part.toNat d 0xB (if ev.ofCore then (s3.coreAt ev.core.toNat).share.lcore else 0) ev.eng.toNat ev.sec.toNat ev.widx.toNat (errWord0 ev)

/-- An event of the core in focus. -/
def State.coreEvent (s : State) (kind src : BitVec 8) (addr detail : Word) (e : Stream) (secno : BitVec 12)
    (widx : BitVec 14) : ErrEv :=
  { kind := kind, src := src, part := BitVec.ofNat 7 s.partNum, addr := addr, detail := detail,
    ctx := s.core.seq.ctx, asid := s.core.seq.asid, ofCore := true, core := BitVec.ofNat 9 s.here, eng := BitVec.ofNat 2 (streamCode e),
    sec := secno, widx := widx, token := s.core.share.token, word6 := 0 }

/-- An event of no core. -/
def plainEvent (kind src : BitVec 8) (part : Nat) (addr detail : Word) : ErrEv :=
  { kind := kind, src := src, part := BitVec.ofNat 7 part, addr := addr, detail := detail, ctx := 0, asid := 0,
    ofCore := false, core := 0x1FF, eng := 0, sec := 0, widx := 0, token := 0, word6 := 0 }

/-! ### Events of ports and cores -/

/-- Raises an event at the OML port of a physical block (R372). -/
def State.raiseAt (s : State) (pbn : Nat) (ev : ErrEv) : State :=
  let ch := s.chanOf pbn
  s.raise (ch / 6) (8 + ch % 6) ev

/-- Raises an event of the core in focus in the bank of its quad. -/
def State.raiseHere (s : State) (ev : ErrEv) : State := s.raise s.myDie (bankOfCore s.here) ev

/-- Writes bytes of main memory under a key slot; an empty slot writes nothing and records KIND 0x11 (R365). -/
def State.mainWrite (s : State) (k : BitVec 11) (a : Nat) (bs : List Byte) : State :=
  match s.keyIdent k with
  | some i => s.mainPut i a bs
  | none => s.raiseAt (a / 4096) (plainEvent 0x11 0x20 s.partNum (BitVec.ofNat 64 a) 0)

/-- Writes `n` beats of a block of main memory under a key slot, from beat `i` on. -/
def State.mainWriteBeats (s : State) (k : BitVec 11) (pbn i n : Nat) (b : Store) : State :=
  match s.keyIdent k with
  | some d => s.putMainBeats d pbn i n b
  | none => s.raiseAt pbn (plainEvent 0x11 0x20 s.partNum (BitVec.ofNat 64 (4096 * pbn)) 0)

/-- Writes a whole block. -/
def State.mainWriteBlock (s : State) (k : BitVec 11) (pbn : Nat) (b : Store) : State := s.mainWriteBeats k pbn 0 32 b

end Sys2Proof.Machine
end

