-- ==== Sys2Proof/Machine/Ops.lean ====
section
/-! DEFINITION. The operations the instructions share: reading what may be inside a latency window, results and
their landing, accesses and their order, issuing a word of each kind of stream, taking a trap and returning
from one, ending a share. -/

namespace Sys2Proof.Machine

/-! ### What a pending load lands -/

/-- A byte among performed events. -/
def pieceByte (ps : List Piece) (a : Nat) : Byte :=
  ps.foldl (fun b p => if p.addr ≤ a ∧ a < p.addr + p.len then p.data[a - p.addr]?.getD 0 else b) 0

/-- An element of a vector load. -/
def loadElem (ps : List Piece) (w a : Nat) (hi : Bool) : Nat :=
  if w = 4 then (let x := (pieceByte ps a).toNat; if hi then x / 16 else x % 16)
  else natOfBytes ((List.range (w / 8)).map (fun i => pieceByte ps (a + i)))

/-- The pair an image loads as, with IV where it is not well-formed. -/
def quillOfImage (bs : List Byte) : Quill × BitVec 6 :=
  let q : Quill :=
    { dir := BitVec.ofNat 2048 (natOfBytes (bs.take 256)), norm := BitVec.ofNat 24 (natOfBytes ((bs.drop 256).take 3)) }
  if q.ok then (q, 0) else (Quill.invalid, fIV)

/-- What a load of the given events lands, with its flags. -/
def loadLand (ps : List Piece) : LoadDst → Land × BitVec 32
  | .sreg sup i => (.sreg sup i (BitVec.ofNat 64 (natOfBytes (ps.flatMap Piece.data))), 0)
  | .vreg r w els mask =>
    (.vec [{ reg := r, w := w, mask := mask,
             val := BitVec.ofNat 4096 (els.foldl (fun a e => a + loadElem ps w e.2.1 e.2.2 * 2 ^ (w * e.1)) 0) }], 0)
  | .quill i =>
    let r := quillOfImage ((List.range 264).map (fun n => pieceByte ps ((ps.head?.map Piece.addr).getD 0 + n)))
    (.quill i r.1, r.2.setWidth 32)

/-- The places an access lands at. -/
def Acc.extent (a : Acc) : Option Land :=
  match a.kind with
  | .load ps d => some (loadLand ps d).1
  | .land _ _ _ ad n => some (.near ((List.range n).map (fun i => (ad + i, 0))))
  | .atom x => x.dst.map (fun ad => .near ((List.range x.bytes).map (fun i => (ad + i, 0))))
  | _ => none

/-- What a performed load is about to land. -/
def Acc.news (a : Acc) : Option Land :=
  match a.kind with
  | .load ps d => if ps.all Piece.done && !ps.any Piece.poisoned then some (loadLand ps d).1 else none
  | _ => none

/-- Everything that may land in registers. -/
def Core.coming (k : Core) : List Land := k.x.flight.map Result.land ++ k.x.accs.filterMap Acc.news

/-! ### Values inside a latency window (R22, R23, R65) -/

/-- The ones of element `j` of width `w`. -/
def elemMask (n w j : Nat) : BitVec n := BitVec.ofNat n (2 ^ w - 1) <<< (w * j)

/-- Drops from a mask the elements for which a free choice says so; `base` numbers the first choice. -/
def State.thin (s : State) (base w : Nat) {n : Nat} (m : BitVec n) : BitVec n :=
  (List.range (n / w)).foldl
    (fun a j => if m &&& elemMask n w j != 0 && s.choice (base + j) then a &&& ~~~(elemMask n w j) else a) m

/-- Replaces the bits of `m` by those of `v`. -/
def blend {n : Nat} (old m v : BitVec n) : BitVec n := (old &&& ~~~m) ||| (v &&& m)

/-- Numbers of the choices a read in operand position `k` of an instruction may make. -/
def slotBase (k : Nat) : Nat := 1048576 * k

/-- A scalar of the current bank as a word reads it in operand position `k`: inside a window, old or new. -/
def State.reg (s : State) (k : Nat) (i : BitVec 5) : Word :=
  if i = 0 then 0
  else
    (s.core.coming.zipIdx.foldl (fun v e =>
      match e.1 with
      | .sreg sup j x => if sup == s.core.seq.sup && j == i && s.choice (slotBase k + e.2) then x else v
      | _ => v) (s.core.seq.bank.get i))

/-- The physical register a vector code 0 to 0x3F names: v32-v63 rotate by RB, except in supervisor state
(R31, R302). -/
def State.phys (s : State) (sup : Bool) (c : Nat) : Nat :=
  if c < 32 || sup then c else 32 + (c - 32 + s.core.vec.rb.toNat) % 32

/-- A physical vector register, element by element old or new inside a window. -/
def State.seeV (s : State) (k r : Nat) : BitVec 4096 :=
  s.core.coming.zipIdx.foldl (fun v e =>
    match e.1 with
    | .vec ws => ws.foldl (fun u w =>
        if w.reg.toNat = r then blend u (s.thin (slotBase k + 1024 * e.2) w.w w.mask) w.val else u) v
    | _ => v) (s.core.vec.v[r]?.getD 0)

/-- A mask, bit by bit old or new inside a window. -/
def State.seeM (s : State) (k : Nat) (i : BitVec 3) : BitVec 256 :=
  s.core.coming.zipIdx.foldl (fun v e =>
    match e.1 with
    | .mask j w x => if j == i then blend v (s.thin (slotBase k + 1024 * e.2) 1 w) x else v
    | _ => v) (s.core.vec.m[i.toNat]'(i.isLt))

/-- The fields of a shape register: first bit and width, and the reserved bits between (R167). -/
def shapeFields : List (Nat × Nat) :=
  [(0, 13), (13, 13), (26, 4), (30, 1), (31, 1), (32, 28), (60, 4), (64, 24), (88, 24), (112, 13), (125, 3),
   (128, 4), (132, 4), (136, 4), (140, 10), (150, 1), (151, 1), (152, 8), (160, 4), (164, 1), (165, 1), (166, 346)]

/-- The ones of a field. -/
def fieldMask (n lo w : Nat) : BitVec n := BitVec.ofNat n (2 ^ w - 1) <<< lo

/-- The reserved bits of a shape register (R167). -/
def shapeReserved : BitVec 512 :=
  fieldMask 512 166 346 ||| fieldMask 512 157 3 ||| fieldMask 512 151 1 ||| fieldMask 512 125 3 ||| fieldMask 512 60 4 |||
    fieldMask 512 31 1

/-- Drops from a mask the shape fields for which a free choice says so. -/
def State.thinFields (s : State) (base : Nat) (m : BitVec 512) : BitVec 512 :=
  shapeFields.zipIdx.foldl
    (fun a f =>
      if m &&& fieldMask 512 f.1.1 f.1.2 != 0 && s.choice (base + f.2) then a &&& ~~~(fieldMask 512 f.1.1 f.1.2)
      else a) m

/-- A shape register, field by field old or new inside the window of a `shld` (R195). -/
def State.seeSh (s : State) (k : Nat) (i : BitVec 4) : BitVec 512 :=
  s.core.coming.zipIdx.foldl (fun v e =>
    match e.1 with
    | .shape j w x => if j == i then blend v (s.thinFields (slotBase k + 1024 * e.2) w) x else v
    | _ => v) (s.core.vec.sh[i.toNat]'(i.isLt))

/-- A quill pair, whole old or whole new inside a window (R22). -/
def State.seeQ (s : State) (k : Nat) (i : BitVec 4) : Quill :=
  s.core.coming.zipIdx.foldl (fun v e =>
    match e.1 with
    | .quill j x => if j == i && s.choice (slotBase k + e.2) then x else v
    | _ => v) (s.core.vec.q[i.toNat]'(i.isLt))

/-- VFLG. -/
def State.seeFlg (s : State) : BitVec 32 := s.core.vec.flg

/-! ### Results and their landing -/

/-- Two results write one destination. -/
def Land.meets (a b : Land) : Bool :=
  match a, b with
  | .sreg s i _, .sreg t j _ => s == t && i == j
  | .vec xs, .vec ys => xs.any (fun x => ys.any (fun y => x.reg == y.reg && x.mask &&& y.mask != 0))
  | .mask i w _, .mask j u _ => i == j && w &&& u != 0
  | .shape i w _, .shape j u _ => i == j && w &&& u != 0
  | .quill i _, .quill j _ => i == j
  | .near x, .near y => x.any (fun e => y.any (fun f => e.1 == f.1))
  | .latch w _, .latch u _ => w == u
  | _, _ => false

/-- When a result lands, the others in flight to its destination become raced (R23), but for those of the same matrix
word, whose writes follow one another. -/
def markRaced (x : Result) (fs : List Result) : List Result :=
  fs.map (fun r =>
    if x.land.meets r.land && !(x.strm == .m && r.strm == .m && r.ord == x.ord && r.widx == x.widx) then
      { r with raced := x.land :: r.raced }
    else r)

/-- The same of pending landings. -/
def markAccs (l : Land) (as : List Acc) : List Acc :=
  as.map (fun a =>
    match a.extent with
    | some m => if l.meets m then { a with raced := l :: a.raced } else a
    | none => a)

/-- The bits of a vector register that earlier landings wrote. -/
def lostV (rs : List Land) (r : BitVec 6) : BitVec 4096 :=
  rs.foldl (fun m l =>
    match l with
    | .vec ws => ws.foldl (fun a w => if w.reg == r then a ||| w.mask else a) m
    | _ => m) 0

/-- The bits of a mask that earlier landings wrote. -/
def lostM (rs : List Land) (i : BitVec 3) : BitVec 256 :=
  rs.foldl (fun m l =>
    match l with
    | .mask j w _ => if j == i then m ||| w else m
    | _ => m) 0

/-- The bits of a shape register that earlier landings wrote. -/
def lostSh (rs : List Land) (i : BitVec 4) : BitVec 512 :=
  rs.foldl (fun m l =>
    match l with
    | .shape j w _ => if j == i then m ||| w else m
    | _ => m) 0

/-- A near byte that earlier landings wrote. -/
def lostNear (rs : List Land) (a : Nat) : Bool :=
  rs.any (fun l =>
    match l with
    | .near bs => bs.any (fun e => e.1 == a)
    | _ => false)

/-- Writes near bytes; where an earlier landing wrote a byte, its 8-byte unit is kept by a free choice. Words
written whole lose their poison (R367). -/
def State.putNear (s : State) (rs : List Land) (bytes : Mem) : State :=
  s.onCore (fun k =>
    let m := bytes.foldl (fun (m : Store) e =>
      if !rs.isEmpty && lostNear rs e.1 && s.choice (slotBase 14 + e.1 / 8) then m else m.setByte e.1 e.2) k.near
    { k with near := { m with poison := m.poison.filter (fun w =>
        !(List.range 8).all (fun i => bytes.any (fun e => e.1 == 8 * w + i))) } })

/-- Accumulates the four contributions of each column of a row (R99, R261): cells, and whether a sum saturated. -/
def rowAdd (cells : Sparse Word) (key : Nat) : List (List Int) → Sparse Word × Bool
  | [] => (cells, false)
  | cs :: rest =>
    let r := cs.foldl (fun (a : Word × Bool) c => ((accumulate a.1 c).1, a.2 || (accumulate a.1 c).2))
      (Sparse.get 0 cells key, false)
    let t := rowAdd (Sparse.set 0 cells key r.1) (key + 1) rest
    (t.1, t.2 || r.2)

/-! #### What landing writes besides registers -/

/-- Drops TLB entries of a die and of its cores (R327). -/
def State.dropTlb (s : State) (d : Nat) (bad : TlbEntry → Bool) : State :=
  let f := fun (l : List TlbEntry) => l.filter (fun t => !bad t)
  let s1 := s.modDie d (fun k => { k with tlb := f k.tlb })
  let s2 := s1.onCore (fun k => if dieOf s1.here = d then { k with tlb := f k.tlb } else k)
  { s2 with others := s2.others.map (fun (e : Nat × Core) => if dieOf e.1 = d then (e.1, { e.2 with tlb := f e.2.tlb }) else e) }

/-- A record may be read or cleared by a partition (R375): it is the partition's, or none is held. -/
def bankMine (w0 : Word) (p : Nat) : Bool := !w0.getLsbD 63 || (fieldAt w0 33 7).toNat == p

/-- `errclr` at its bound (R328, R375). -/
def State.clearBank (s : State) (d b p : Nat) : State :=
  s.modDie d (fun k => k.modBank b (fun w => if bankMine w[0] p then Vector.replicate 8 0 else w))

/-- `parkrd` at its bound (R329): the scalar it writes, and the swap. -/
def State.parkIn (s : State) (entry slot : Nat) : Word × State :=
  match Sparse.find (s.die s.myDie).recovery entry with
  | some p =>
    if 191 < entry then (0, s)
    else
      (BitVec.ofNat 64 (p.home.pbn % 2 ^ 36 + 2 ^ 63),
       (s.onCore (fun k => { k with near := k.near.setBlock slot p.block })).modDie s.myDie
         (fun d => { d with recovery := Sparse.erase d.recovery entry }))
  | none => (0, s)

/-- The number of a core's group at a scope, within a partition (R197). -/
def groupOf (c : Nat) (scope : BitVec 3) : Nat :=
  if scope == 2 then quadOf c else if scope == 3 then dieOf c else 0

/-- A core leaves its barrier wait with BARSEQ (R199, R330). -/
def Core.leaveBad (k : Core) (bar : BitVec 9) : Core :=
  let q := k.seq
  let r : TrapRec :=
    { cause := 0x0E, sub := 0, eng := .seq, secno := 0, widx := q.pc, addr := BitVec.ofNat 64 bar.toNat,
      resume := some q.pc, sup := q.sup }
  { k with seq := { q with frz := { q.frz with bar := none }, traps := q.traps ++ [r] } }

/-- `bar.kill` at its bound (R330): the object goes, and its frozen participants leave with BARSEQ. -/
def State.killBar (s : State) (bar : BitVec 9) (scope : BitVec 3) : State :=
  let p := s.partNum
  let g := groupOf s.here scope
  let waits := fun (c : Nat) (k : Core) =>
    groupOf c scope == g && ((s.partOf c).map Prod.fst == some p) &&
      (match k.seq.frz.bar with
       | some w => w.bar == bar && w.scope == scope
       | none => false)
  let s1 := { s with
    barriers := s.barriers.filter (fun o => !(o.part == p && o.bar == bar && o.scope == scope && o.group == g)),
    others := s.others.map (fun (e : Nat × Core) => if waits e.1 e.2 then (e.1, e.2.leaveBad bar) else e) }
  s1.onCore (fun k => if waits s.here k then k.leaveBad bar else k)

/-- Writes vector registers; an element that an earlier landing wrote is kept by a free choice. -/
def State.putVec (s : State) (rs : List Land) (ws : List VWrite) : State :=
  s.onCore (fun k =>
    { k with vec := { k.vec with
        v := ws.zipIdx.foldl (fun vs e =>
          let w := e.1
          let lost := lostV rs w.reg
          let m := if rs.isEmpty then w.mask
            else (w.mask &&& ~~~lost) ||| s.thin (slotBase 14 + 1024 * e.2) w.w (w.mask &&& lost)
          vs.setIfInBounds w.reg.toNat (blend (vs[w.reg.toNat]?.getD 0) m w.val)) k.vec.v } })

/-- Writes a scalar of a state's bank. -/
def State.putS (s : State) (sup : Bool) (i : BitVec 5) (v : Word) : State :=
  s.onCore (fun k => { k with seq := k.seq.setBankOf sup ((k.seq.bankOf sup).put i v) })

/-- What a result writes as it lands in the core in focus; `rs` is what landed at its places before (R23). -/
def State.applyLand (s : State) (rs : List Land) (l : Land) : State :=
  match l with
  | .sreg sup i v => if !rs.isEmpty && s.choice (slotBase 14) then s else s.putS sup i v
  | .vec ws => s.putVec rs ws
  | .mask i w v =>
    let m := if rs.isEmpty then w else (w &&& ~~~(lostM rs i)) ||| s.thin (slotBase 14) 1 (w &&& lostM rs i)
    s.onCore (fun k => { k with vec := { k.vec with
      m := k.vec.m.set i.toNat (blend (k.vec.m[i.toNat]'(i.isLt)) m v) (i.isLt) } })
  | .shape i w v =>
    let m := if rs.isEmpty then w else (w &&& ~~~(lostSh rs i)) ||| s.thinFields (slotBase 14) (w &&& lostSh rs i)
    s.onCore (fun k => { k with vec := { k.vec with
      sh := k.vec.sh.set i.toNat (blend (k.vec.sh[i.toNat]'(i.isLt)) m v) (i.isLt) } })
  | .quill i q =>
    if !rs.isEmpty && s.choice (slotBase 14) then s
    else s.onCore (fun k => { k with vec := { k.vec with q := k.vec.q.set i.toNat q (i.isLt) } })
  | .near bytes => s.putNear rs bytes
  | .vflgClear b => s.onCore (fun k => { k with vec := { k.vec with flg := k.vec.flg &&& ~~~b } })
  | .tileClear t =>
    s.onCore (fun k => { k with mat := { k.mat with
      cells := Sparse.splice k.mat.cells (16384 * t.toNat) 16384 [],
      bad := k.mat.bad.filter (fun n => n / 16384 != t.toNat),
      flg := k.mat.flg.setIfInBounds t.toNat 0 } })
  | .tflgClear t => s.onCore (fun k => { k with mat := { k.mat with flg := k.mat.flg.setIfInBounds t.toNat 0 } })
  | .tflgSet t b =>
    s.onCore (fun k => { k with mat := { k.mat with
      flg := k.mat.flg.setIfInBounds t.toNat ((k.mat.flg[t.toNat]?.getD 0) ||| b) } })
  | .latch w x =>
    if !rs.isEmpty && s.choice (slotBase 14) then s
    else s.onCore (fun k => { k with mat := { k.mat with wl := k.mat.wl.setIfInBounds w.toNat x } })
  | .row t m cs inv ovf =>
    s.onCore (fun k =>
      let r := rowAdd k.mat.cells (16384 * t.toNat + 128 * m) cs
      let b : Word := (if ovf || r.2 then 1 else 0) ||| (if inv then 2 else 0)
      { k with mat := { k.mat with
          cells := r.1, flg := k.mat.flg.setIfInBounds t.toNat ((k.mat.flg[t.toNat]?.getD 0) ||| b) } })
  | .tlbVa a va => s.dropTlb s.myDie (fun t => t.holds a va.toNat)
  | .tlbAsid a => s.dropTlb s.myDie (fun t => t.asid == a)
  | .tlbAll => s.dropTlb s.myDie (fun _ => true)
  | .errclr b => s.clearBank s.myDie b.toNat s.partNum
  | .park e n sup d =>
    let r := s.parkIn e.toNat n.toNat
    r.2.putS sup d r.1
  | .kill b sc => s.killBar b sc

/-! #### Poisoned register words (R366, R367) -/

/-- A mask covers word `j` of 64 bits. -/
def covers {n : Nat} (m : BitVec n) (j : Nat) : Bool := (fieldAt m (64 * j) 64 : BitVec 64) == BitVec.allOnes 64

/-- A landing writes a register word whole: class, index and word as in `Core.badReg`. -/
def Land.whole (l : Land) (r : Nat × Nat × Nat) : Bool :=
  match l with
  | .sreg sup i _ => r.1 == (if sup then 6 else 5) && r.2.1 == i.toNat
  | .vec ws => r.1 == 0 && ws.any (fun w => w.reg.toNat == r.2.1 && covers w.mask r.2.2)
  | .mask i w _ => r.1 == 1 && i.toNat == r.2.1 && covers w r.2.2
  | .shape i w _ =>
    r.1 == 2 && i.toNat == r.2.1 && w &&& fieldMask 512 (64 * r.2.2) 64 != 0 && covers (w ||| shapeReserved) r.2.2
  | .quill i _ => r.1 == 3 && i.toNat == r.2.1
  | .latch w _ => r.1 == 4 && w.toNat == r.2.1
  | .park _ _ sup d => r.1 == (if sup then 6 else 5) && r.2.1 == d.toNat
  | _ => false

/-- The register words a landing writes whole lose their marks. -/
def State.heal (s : State) (l : Land) : State :=
  if s.core.badReg.isEmpty then s else s.onCore (fun k => { k with badReg := k.badReg.filter (fun r => !l.whole r) })

/-- A word of one of the registers, given by class and index, is held poisoned. -/
def State.badRegs (s : State) (rs : List (Nat × Nat)) : Bool :=
  s.core.badReg.any (fun b => rs.contains (b.1, b.2.1))

/-- A scalar of the current bank is held poisoned. -/
def State.badScalar (s : State) (i : BitVec 5) : Bool :=
  i != 0 && s.badRegs [(if s.core.seq.sup then 6 else 5, i.toNat)]

/-- A result lands: it writes, raises its flags (R85), and leaves the others to its destination raced. -/
def State.landResult (s : State) (r : Result) : State :=
  let s1 := (s.applyLand r.raced r.land).heal r.land
  s1.onCore (fun k =>
    { k with vec := { k.vec with flg := k.vec.flg ||| r.flags },
             x := { k.x with flight := markRaced r k.x.flight, accs := markAccs r.land k.x.accs } })

/-- A result of bound `n`: of bound 1 it is written at once, else it goes into flight (R22, R65). -/
def State.result (s : State) (e : Stream) (ord : Nat) (widx : BitVec 14) (n : Nat) (exact : Bool)
    (flags : BitVec 32) (l : Land) : State :=
  let r : Result :=
    { strm := e, ord := ord, widx := widx, due := n, exact := exact, raced := [], flags := flags, land := l }
  if n ≤ 1 then s.landResult r
  else s.onCore (fun k => { k with x := { k.x with flight := k.x.flight ++ [r] } })

/-! ### Near-store beats (R18) -/

/-- Lines of 128 bytes that a run of near bytes touches. -/
def linesOf (a n : Nat) : List Nat := (List.range (beatsOf a n)).map (· + a / 128)

/-- Adds beats to a cycle of a plan. -/
def addBeats : List (List (Nat × Nat)) → Nat → List (Nat × Nat) → List (List (Nat × Nat))
  | [], 0, b => [b]
  | [], n + 1, b => [] :: addBeats [] n b
  | x :: r, 0, b => (x ++ b) :: r
  | x :: r, n + 1, b => x :: addBeats r n b

/-- Presents lines in the cycle `off` cycles from now, for requester `r` in the order of R387. -/
def State.present (s : State) (r off : Nat) (ls : List Nat) : State :=
  if ls.isEmpty then s
  else s.onCore (fun k =>
    { k with obs := { k.obs with beats := addBeats k.obs.beats off (ls.map (fun l => (r, l))) } })

/-- Presents whole blocks, sixteen beats a cycle from the cycle `off` on (R122). -/
def State.presentBlocks (s : State) (r off : Nat) : List Nat → State
  | [] => s
  | n :: rest =>
    (((s.present r off ((List.range 16).map (· + 32 * n))).present r (off + 1)
      ((List.range 16).map (· + (32 * n + 16)))).presentBlocks r (off + 2) rest)

/-! ### Replay windows (R314, R315) -/

/-- Clears RPL. -/
def State.noReplay (s : State) : State := s.onCore (fun k => { k with seq := { k.seq with rpl := false } })

/-- A word of the window reads registers, given by class and index. -/
def State.didRead (s : State) (rs : List (Nat × Nat)) : State :=
  if !s.core.seq.rpl || rs.isEmpty then s
  else s.onCore (fun k => { k with seq := { k.seq with
    win := { k.seq.win with regRead := rs ++ k.seq.win.regRead } } })

/-- A word of the window writes registers: RPL ends where one was read earlier in it. -/
def State.didWrite (s : State) (rs : List (Nat × Nat)) : State :=
  if s.core.seq.rpl && rs.any (fun r => s.core.seq.win.regRead.contains r) then s.noReplay else s

/-- Near slots a run of bytes touches. -/
def slotsOf (a n : Nat) : List Nat :=
  if n = 0 then [] else (List.range ((a + n - 1) / 4096 - a / 4096 + 1)).map (· + a / 4096)

/-- A word of the window reads near bytes. -/
def State.didLoad (s : State) (slots : List Nat) : State :=
  if !s.core.seq.rpl then s
  else s.onCore (fun k => { k with seq := { k.seq with
    win := { k.seq.win with nearRead := slots ++ k.seq.win.nearRead } } })

/-- A word of the window stores near bytes. -/
def State.didStore (s : State) (slots : List Nat) : State :=
  if s.core.seq.rpl && slots.any (fun n => s.core.seq.win.nearRead.contains n) then s.noReplay else s

/-! ### Sections -/

/-- The entry of a section that is none. -/
def QEntry.none : QEntry :=
  { secno := 0, k := Vector.replicate 4 0, sup := false, held := false, tile := 0, pre := [],
    last := Vector.replicate 3 Option.none, fresh := false, failed := false }

/-- The header of a section that is none. -/
def Header.none : Header :=
  { tag := 0, secno := 0, len := 0, after1 := 0, after2 := 0, tile := false, rot := false, drain := false, rest := 0 }

/-- The running section of an engine; an empty one where none runs. -/
def State.sect (s : State) (e : Stream) : Running :=
  (s.core.eng e).run.getD
    { entry := QEntry.none, hdr := Header.none, base := 0,
      next := 0, wait := 0, stopped := false }

/-- Parameter k_i of the running section. -/
def State.kpar (s : State) (e : Stream) (i : BitVec 2) : Word := (s.sect e).entry.k[i.toNat]'(i.isLt)

/-- Whether a stream's present word runs in supervisor state (R303). -/
def State.supOf (s : State) (e : Stream) : Bool := if e = .seq then s.core.seq.sup else (s.sect e).entry.sup

/-- The ordinal of the work a stream's present word belongs to: sections by the number retired before them. -/
def State.ordOf (s : State) (e : Stream) : Nat := if e = .seq then 0 else (s.core.eng e).retired

/-- The word index a record names for a stream's present word. -/
def State.widxOf (s : State) (e : Stream) : BitVec 14 :=
  if e = .seq then s.core.seq.pc else BitVec.ofNat 14 (s.sect e).next

/-- The section number a record names. -/
def State.secnoOf (s : State) (e : Stream) : BitVec 12 := if e = .seq then 0 else (s.sect e).entry.secno

/-- A result of the present word of a stream. -/
def State.give (s : State) (e : Stream) (n : Nat) (flags : BitVec 32) (l : Land) : State :=
  s.result e (s.ordOf e) (s.widxOf e) n false flags l

/-! ### Accesses and their order (R135-R145) -/

/-- A pending access has performed at its homes (R137). -/
def Acc.performed (a : Acc) : Bool :=
  match a.kind with
  | .load ps _ => ps.all Piece.done
  | .store ps => ps.all Piece.done
  | .atom x => x.old.isSome
  | _ => false

/-- Two runs of bytes share a byte. -/
def Foot.meets (a b : Foot) : Bool := a.sp == b.sp && overlap a.addr a.len b.addr b.len

/-- The physical bytes behind runs of main memory, where the tables map them: two runs under different addresses or ASIDs
may name one place (R135, R365). -/
def State.physFeet (s : State) (fs : List Foot) : List Foot :=
  fs.filterMap (fun f =>
    match f.sp with
    | .main asid =>
      (match s.translate s.partNum asid .read f.addr with
       | .ok l => some { sp := .phys, addr := 4096 * l.pbn + f.addr % 4096, len := f.len }
       | .error _ => none)
    | _ => none)

/-- Two accesses touch a common byte (R140). -/
def footsMeet (a b : List Foot) : Bool := a.any (fun x => b.any (fun y => x.meets y))

/-- The pending accesses of the core that have not performed. -/
def Core.unperformed (k : Core) : List Acc := k.x.accs.filter (fun a => !a.performed)

/-- Fences in force for a stream. -/
def Core.fencesOf (k : Core) (e : Stream) : List (BitVec 16 × Nat × List Nat) :=
  if e = .seq then k.fences else (k.eng e).fences

/-- A barrier arrival: it releases what came before it, and orders nothing after it (R145). -/
def Acc.isArrive (a : Acc) : Bool :=
  match a.kind with
  | .arrive _ _ _ _ _ => true
  | _ => false

/-- Whether a pending access of the stream is ordered before one that issues now (R139-R141, R143). -/
def ordersBefore (fs : List (BitVec 16 × Nat × List Nat)) (a : Acc) (cls : BitVec 4) (foot : List Foot)
    (reach rel : Nat) : Bool :=
  a.cls == cls || footsMeet a.foot foot || (rel != 0 && decide (a.reach ≤ rel)) ||
    (a.acq != 0 && decide (reach ≤ a.acq)) ||
    fs.any (fun f => f.1.getLsbD a.cls.toNat && f.1.getLsbD cls.toNat && decide (a.reach ≤ f.2.1) &&
      decide (reach ≤ f.2.1) && f.2.2.contains a.id)

/-- The accesses, not yet performed, that are ordered before one the present word of a stream issues: of the
stream itself, and the control stream's pending at its section's DISP (R139-R144). -/
def State.before (s : State) (e : Stream) (cls : BitVec 4) (foot : List Foot) (reach rel : Nat) : List Nat :=
  let feet := foot ++ s.physFeet foot
  let own := s.core.unperformed.filter (fun a =>
    a.strm == e && !a.isArrive && ordersBefore (s.core.fencesOf e) a cls feet reach rel)
  let pre := if e = .seq then [] else
    (s.core.unperformed.filter (fun a => (s.sect e).entry.pre.contains a.id)).map Acc.id
  own.map Acc.id ++ pre

/-- An access of the present word of a stream, with what is ordered before it: cycles until its arrival cycle, and the
bound within which it performs where nothing holds it (R172). -/
def State.newAcc (s : State) (e : Stream) (cls : BitVec 4) (foot : List Foot) (reach acq rel : Nat)
    (due by_ : Option Nat) (after : List Nat) (kind : AccKind) : Acc :=
  { id := s.core.x.nid, strm := e, ord := s.ordOf e, secno := s.secnoOf e, widx := s.widxOf e, cls := cls,
    reach := reach, foot := foot ++ s.physFeet foot, acq := acq, rel := rel, after := after, due := due, by_ := by_,
    sup := s.supOf e, snap := [], raced := [], kind := kind }

/-- Adds a pending access. -/
def State.addAcc (s : State) (a : Acc) : State :=
  s.onCore (fun k => { k with x := { k.x with accs := k.x.accs ++ [a], nid := k.x.nid + 1 } })

/-- Adds a pending access of the present word of a stream, ordered by R139-R145. -/
def State.issueAcc (s : State) (e : Stream) (cls : BitVec 4) (foot : List Foot) (reach acq rel : Nat)
    (due by_ : Option Nat) (kind : AccKind) : State :=
  s.addAcc (s.newAcc e cls foot reach acq rel due by_ (s.before e cls foot reach rel) kind)

/-- Every access ordered before this one has performed. -/
def Core.clearFor (k : Core) (a : Acc) : Bool :=
  a.after.all (fun i => k.x.accs.all (fun b => b.id != i || b.performed))

/-- A fence of a stream (R141): it keeps the accesses before it that it orders. -/
def State.addFence (s : State) (e : Stream) (mask : BitVec 16) (scope : Nat) : State :=
  let ids := (s.core.unperformed.filter (fun a =>
    a.strm == e && !a.isArrive && mask.getLsbD a.cls.toNat && decide (a.reach ≤ scope))).map Acc.id
  let live := s.core.unperformed.map Acc.id
  let keep := fun (l : List (BitVec 16 × Nat × List Nat)) =>
    (if ids.isEmpty then [] else [(mask, scope, ids)]) ++ l.filter (fun f => f.2.2.any (fun i => live.contains i))
  s.onCore (fun k =>
    if e = .seq then { k with fences := keep k.fences }
    else k.modEng e (fun x => { x with fences := keep x.fences }))

/-! ### Pending slots and landing marks (R123, R278) -/

/-- Near slots pending under an exchange of the core. -/
def Acc.nearSlots (a : Acc) : List Nat :=
  match a.kind with
  | .xch x => if x.form = .dm || x.form = .am then [] else x.near
  | _ => []

/-- Near bytes marked by a landing: address and length. -/
def Acc.mark (a : Acc) : Option (Nat × Nat) :=
  match a.kind with
  | .land _ _ _ ad n => some (ad, n)
  | .atom x => x.dst.map (fun ad => (ad, x.bytes))
  | _ => none

/-- An `xland` of the same sender and TAG. -/
def sameMsg (a b : Acc) : Bool :=
  match a.kind, b.kind with
  | .land p s t _ _, .land q u v _ _ => p == q && s == u && t == v
  | _, _ => false

/-- The place in the landing buffer of the payload an `xland` claims: those of one sender and TAG are claimed in
issue order (R278). -/
def Core.claim (k : Core) (a : Acc) : Option Nat :=
  match a.kind with
  | .land p src tag _ _ =>
    let mine := k.x.landing.zipIdx.filter (fun e => e.1.pkg == p && e.1.src == src && e.1.tag == tag)
    (mine[(k.x.accs.filter (fun b => decide (b.id < a.id) && sameMsg a b)).length]?).map Prod.snd
  | _ => none

/-- Die block addresses an exchange names. -/
def Acc.dieBlocks (a : Acc) : List Nat :=
  match a.kind with
  | .xch x => (if x.form = .dm then x.near else []) ++ (if x.form = .nd then x.far else [])
  | _ => []

/-- A `mepi` still has a write to perform. -/
def Core.inHold (k : Core) (h : Hold) : Bool :=
  k.x.flight.any (fun r => r.strm == .m && r.ord == h.ord && r.widx == h.widx)

/-- A near slot is pending: under an exchange (R123), or as a destination of a `mepi` (R267). -/
def Core.nearPending (k : Core) (slot : Nat) : Bool :=
  k.x.accs.any (fun a => a.nearSlots.contains slot) ||
    k.mat.holds.any (fun h => h.slots.contains slot && k.inHold h)

/-- A near slot is pending or holds landing-marked bytes. -/
def Core.nearBusy (k : Core) (slot : Nat) : Bool :=
  k.nearPending slot ||
    k.x.accs.any (fun a =>
      match a.mark with
      | some m => (slotsOf m.1 m.2).contains slot
      | none => false)

/-- A die block is pending under an exchange of the core. -/
def Core.diePendingOwn (k : Core) (blk : Nat) : Bool := k.x.accs.any (fun a => a.dieBlocks.contains blk)

/-- A die block is pending at its banks: an exchange's read request has reached them (R123). -/
def Core.diePendingBank (k : Core) (blk : Nat) : Bool :=
  k.x.accs.any (fun a => a.dieBlocks.contains blk &&
    (match a.kind with
     | .xch x => if x.form = .dm then x.taken else x.arrived
     | _ => false))

/-! ### The end of a word: loops (R185) and snapshots (R388) -/

/-- Among active loops that end at a word, the one whose body starts last. -/
def innermost (b : Bank) (e : BitVec 14) : Option (Fin 4) :=
  ([0, 1, 2, 3] : List (Fin 4)).foldl (fun acc i =>
    if b.lc[i] != 0 && b.lend[i] == e then
      match acc with
      | none => some i
      | some j => if b.lstart[j] < b.lstart[i] then some i else some j
    else acc) none

/-- The end of an iteration: the bank, the word a loop continues at, and the last loop that ran out. -/
def loopEnd (e : BitVec 14) : Nat → Bank → Option (Fin 4) → Bank × Option (BitVec 14) × Option (Fin 4)
  | 0, b, out => (b, none, out)
  | n + 1, b, out =>
    match innermost b e with
    | none => (b, none, out)
    | some i =>
      let b' := { b with lc := b.lc.set i (b.lc[i] - 1) }
      if b'.lc[i] != 0 then (b', some b.lstart[i], none) else loopEnd e n b' (some i)

/-- A snapshot of the loop that exits (R388). -/
def State.snapshot (s : State) (i : Fin 4) (last : BitVec 14) : State :=
  let n := s.core.obs.snap.seq + 1
  let s1 := s.onCore (fun k => { k with obs := { k.obs with
    snap := { seq := n, lc := BitVec.ofNat 2 i.val, lend := last, scyc := k.seq.scyc, tick := s.tick,
              frz := k.obs.frz, cmx := k.obs.cmx } } })
  s1.note 0x8 .seq 0 last.toNat (BitVec.ofNat 64 n.toNat)

/-- Goes on to the word after the one at PC, or to a loop's first word (R174, R185). After index 16,383 comes index 0:
PC has 14 bits, and the manual names nothing else (DESIGN CHOICE, log entry 68). -/
def State.fallThrough (s : State) (wait : Nat) : State :=
  let e := s.core.seq.pc
  let r := loopEnd e 4 s.core.seq.bank none
  let s1 := s.onCore (fun k => { k with seq :=
    { k.seq.setBank r.1 with pc := r.2.1.getD (e + 1), wait := wait, half := false } })
  match r.2.2 with
  | some i => s1.snapshot i e
  | none => s1

/-- Goes on to a word. -/
def State.goTo (s : State) (pc : BitVec 14) (wait : Nat) : State :=
  s.onCore (fun k => { k with seq := { k.seq with pc := pc, wait := wait, half := false } })

/-! ### Draining and traps (R289, R304-R313) -/

/-- An access stands still while the handler of a LATE entry runs: it was outstanding at the entry (R312, R324). -/
def Core.paused (k : Core) (a : Acc) : Bool :=
  match k.seq.late with
  | some f => k.seq.sup && !a.sup && decide (a.id < f.nid)
  | none => false

/-- A section that ran at a LATE entry stands still too. -/
def Core.pausedRun (k : Core) (e : Stream) : Bool :=
  match k.seq.late with
  | some f => k.seq.sup && (f.runs[engIdx e]?.getD false)
  | none => false

/-- Nothing of a core's streams is under way but what a LATE entry left outstanding: every started section has
retired, every result landed, every access performed (R65, R311). -/
def Core.quiet (k : Core) : Bool :=
  engines.all (fun e => (k.eng e).run == none || k.pausedRun e) && k.x.flight.isEmpty && k.x.accs.all k.paused &&
    k.mat.loads.isEmpty && k.mat.feeds.isEmpty

/-- A POISON or PIPE. -/
def TrapRec.bad (r : TrapRec) : Bool := r.cause == 0x19 || r.cause == 0x1A

/-- Two records of one section: the trap at the lower word stands (R289). Of the control stream, two of its POISONs. -/
def TrapRec.same (r t : TrapRec) : Bool :=
  r.eng == t.eng && r.secno == t.secno && r.sup == t.sup && (r.eng != .seq || (r.bad && t.bad))

/-- Records a trap found in a stream, one per section (R289). -/
def Seq.record (q : Seq) (r : TrapRec) : Seq :=
  { q with traps := if q.traps.any r.same then q.traps.map (fun t => if r.same t && r.widx < t.widx then r else t)
      else q.traps ++ [r] }

/-- The same of the core in focus. -/
def State.recordTrap (s : State) (r : TrapRec) : State := s.onCore (fun k => { k with seq := k.seq.record r })

/-- Stops an engine's running section (R116). -/
def State.stopEng (s : State) (e : Stream) : State :=
  s.onCore (fun k => k.modEng e (fun x => { x with run := x.run.map (fun r => { r with stopped := true }) }))

/-- A trap a word of an engine raises at decode or issue: the section stops at it (R116). -/
def State.engTrap (s : State) (e : Stream) (cause sub : BitVec 8) (addr : Word) : State :=
  let r : TrapRec :=
    { cause := cause, sub := sub, eng := e, secno := s.secnoOf e, widx := s.widxOf e, addr := addr,
      resume := none, sup := s.supOf e }
  (s.recordTrap r).stopEng e

/-- A trap found later for an access of a stream (R123, R289): the raising section stops if it still runs. Of the
control stream, a poisoned load retries its word and a refused store resumes at the word after it (R123, R311). -/
def State.laterTrap (s : State) (a : Acc) (cause sub : BitVec 8) (addr : Word) : State :=
  let r : TrapRec :=
    { cause := cause, sub := sub, eng := a.strm, secno := a.secno, widx := a.widx, addr := addr,
      resume := if a.strm ≠ .seq then none else if cause == 0x19 then some a.widx else some (a.widx + 1), sup := a.sup }
  let s1 := s.recordTrap r
  if a.strm ≠ .seq && (s.core.eng a.strm).retired == a.ord then s1.stopEng a.strm else s1

/-- A record is taken in the present state: in supervisor state, only one the supervisor raised (R304, R325). -/
def Seq.takes (q : Seq) (r : TrapRec) : Bool := !q.sup || r.sup

/-- The place of a record in the order of R310: POISON and PIPE, then the sequencer's, M's, V's, X's. -/
def TrapRec.rank (r : TrapRec) : Nat := (if r.bad then 0 else 4) + streamCode r.eng

/-- The first of a list of records in that order. -/
def firstTrap : List TrapRec → Option TrapRec
  | [] => none
  | r :: rs =>
    match firstTrap rs with
    | some t => if t.rank < r.rank then some t else some r
    | none => some r

/-- The recorded trap taken next, with the state without it (R310). -/
def Seq.nextTrap (q : Seq) : Option (TrapRec × Seq) :=
  (firstTrap (q.traps.filter q.takes)).map (fun r => (r, { q with traps := q.traps.erase r }))

/-- A trap is recorded that the present state takes. -/
def Seq.trapped (q : Seq) : Bool := q.traps.any q.takes

/-- A POISON or PIPE is recorded that replay cures (R316). -/
def Seq.replays (q : Seq) : Bool :=
  q.traps.any TrapRec.bad && q.rpl && decide (q.count.toNat < 3) && q.ckpt.isSome && !q.sup

/-- TINFO (R307). -/
def tinfoOf (r : TrapRec) (forced more : Bool) : Word :=
  BitVec.ofNat 64 (packHi [(8, r.cause.toNat), (8, r.sub.toNat), (2, streamCode r.eng), (1, forced.toNat),
    (1, more.toNat), (12, r.secno.toNat), (14, r.widx.toNat), (18, 0)])

/-- A core's share ends with FAULT (R58, R304, R323): queues are discarded, nothing more issues. -/
def Core.endFault (k : Core) : Core :=
  let q := k.seq
  { k with
    seq := { q with ended := true, draining := false, pre := none, lateDue := false, traps := [],
                    frz := Freeze.none, late := none, sup := false, ps := false, rw := false,
                    half := false, rpl := false, wait := 0 },
    em := { k.em with queue := [] }, ev := { k.ev with queue := [] }, ex := { k.ex with queue := [] },
    share := { k.share with phase := .ending, fault := true, stop := false } }

/-! #### LATE (R70, R324) -/

/-- An access that is late: due, not landed, of the thread. -/
def Acc.late (a : Acc) : Bool := a.due == some 0 && !a.sup

/-- Removes an access, and the locks an exchange of it holds. -/
def State.dropAcc (s : State) (id : Nat) : State :=
  { s.onCore (fun k => { k with x := { k.x with accs := k.x.accs.filter (fun a => a.id != id) } }) with
    locks := s.locks.filter (fun l => !(l.core == s.here && l.id == id)) }

/-- Raises an event in the bank of a die byte's home (R372). -/
def State.raiseDie (s : State) (a : Nat) (ev : ErrEv) : State :=
  let c := (diePlace s.myMembersOn a).1
  s.raise (dieOf c) (bankOfCore c) ev

/-- A returning atomic abandoned is recorded where it stands: at its home's port or bank, or, while its translation is
sought, at the walker (R70, R372). -/
def State.raiseAtom (s : State) (a : Acc) (x : Atom) : State :=
  let ev := fun (src : BitVec 8) (ad : Nat) => s.coreEvent 0x0B src (BitVec.ofNat 64 ad) 0 a.strm a.secno a.widx
  match x.main, x.xl with
  | true, .ok l => s.raiseAt l.pbn (ev 0x20 (4096 * l.pbn + x.addr % 4096))
  | true, _ => s.raise s.myDie 15 (ev 0x40 0)
  | false, _ => s.raiseDie x.addr (ev 0x10 x.addr)

/-- The fate of an abandoned request (R70). A payload that an `xland` would claim is discarded, or will be when it comes;
a returning atomic that has not performed still performs its update or not, by a free choice. -/
def State.abandon (s : State) (a : Acc) : State :=
  match a.kind with
  | .land p src tag _ _ =>
    let i := s.core.claim a
    (s.dropAcc a.id).onCore (fun k => { k with x :=
      match i with
      | some n => { k.x with landing := k.x.landing.take n ++ k.x.landing.drop (n + 1) }
      | none => { k.x with voids := k.x.voids ++ [(k.share.launch, p, src, tag)] } })
  | .atom x =>
    let s1 := s.raiseAtom a x
    if x.old.isNone && s.choice (slotBase 1 + a.id % 1048576) then
      s1.onCore (fun k => { k with x := { k.x with accs := k.x.accs.map (fun b =>
        if b.id == a.id then { b with due := none, kind := .atom { x with dst := none } } else b) } })
    else s1.dropAcc a.id
  | _ => s.dropAcc a.id

/-- What a completion brought a core for a barrier, kept by launch and state. -/
def BarResult.fits (r : BarResult) (launch : Nat) (sup : Bool) (bar : BitVec 9) : Bool :=
  r.launch == launch && r.sup == sup && r.bar == bar

/-- The completion that waits for the present state's wait at a barrier. -/
def Core.barResult (k : Core) (sup : Bool) (bar : BitVec 9) : Option BarResult :=
  k.seq.results.find? (fun r => r.fits k.share.launch sup bar)

/-- It is used up. -/
def Core.dropResult (k : Core) (sup : Bool) (bar : BitVec 9) : Core :=
  { k with seq := { k.seq with results := k.seq.results.filter (fun r => !r.fits k.share.launch sup bar) } }

/-- Every completion that waits for the present state marks its slot done, where the slot holds an arrival (R198). -/
def Core.markDone (k : Core) : Core :=
  { k with seq := k.seq.results.foldl (fun q r =>
      let sl := q.slot r.bar.toNat
      if r.launch == k.share.launch && r.sup == q.sup && sl.arrived then q.setSlot r.bar.toNat { sl with done := true } else q) k.seq }

/-- A pending arrival of the thread at a barrier. -/
def Acc.arrivesAt (a : Acc) (w : BarWait) : Bool :=
  match a.kind with
  | .arrive b sc _ _ _ => !a.sup && b == w.bar && sc == w.scope
  | _ => false

/-- Withdraws a core's arrival from a barrier, on its way there or counted, with any completion on its way back; the
slot's marks are cleared (R70, R199). An object that holds no arrival is gone. -/
def State.withdraw (s : State) (w : BarWait) : State :=
  let p := s.partNum
  let g := groupOf s.here w.scope
  let s1 := { s with
    barriers := (s.barriers.map (fun (o : BarObj) =>
      if o.part == p && o.bar == w.bar && o.scope == w.scope && o.group == g then
        { o with got := o.got.filter (fun a => !(a.core == s.here && !a.sup)) }
      else o)).filter (fun o => !o.got.isEmpty),
    barMsgs := s.barMsgs.filter (fun m => !(m.core == s.here && !m.sup && m.bar == w.bar && m.scope == w.scope)) }
  s1.onCore (fun k =>
    let k1 := { k with x := { k.x with accs := k.x.accs.filter (fun a => !a.arrivesAt w) } }.dropResult false w.bar
    { k1 with seq := k1.seq.setSlot w.bar.toNat { k1.seq.slot w.bar.toNat with arrived := false, done := false } })

/-- Every request a LATE left outstanding takes its fate of R70, a barrier wait included. -/
def State.abandonHeld (s : State) (f : LateFrame) : State :=
  let s1 := (s.core.x.accs.filter (fun a => a.late && decide (a.id < f.nid))).foldl State.abandon s
  match f.freeze.bar with
  | some w => s1.withdraw w
  | none => s1

/-- The share of the core in focus ends with FAULT; under a LATE entry its requests are abandoned and its sections first
run to their ends, as at a launch stop (R58). -/
def State.endFault (s : State) : State :=
  match s.core.seq.late with
  | none => s.onCore Core.endFault
  | some f =>
    (s.abandonHeld f).onCore (fun k =>
      let k1 := k.endFault
      { k1 with seq := { k1.seq with draining := true }, share := { k1.share with phase := k.share.phase, stop := true } })

/-- The supervisor is entered (R311): saved index and record, PS := S, S := 1, PC := SBASE; queued entries are
held, a freeze in a barrier leaves RW set (R313), and RPL ends (R315). -/
def Core.enterSup (k : Core) (tinfo addr : Word) (tpc : BitVec 14) (atEnd : Bool) : Core :=
  let q := k.seq
  let hold := fun (x : Engine) => { x with queue := x.queue.map (fun e => { e with held := e.held || !e.sup }) }
  { k with
    seq := { q with tinfo := tinfo, taddr := addr, tpc := tpc, tpcEnd := atEnd, ps := q.sup, sup := true,
                    pc := q.sbase, rw := q.rw || q.half || q.frz.bar.isSome, half := false, frz := Freeze.none,
                    ended := false, draining := false, pre := none, lateDue := false, wait := 1, rpl := false },
    em := hold k.em, ev := hold k.ev, ex := hold k.ex }

/-- The source of a replay's records: the pipeline checks for PIPE, the sequencer for POISON (R371). -/
def curedSrc (cause : BitVec 8) : BitVec 8 := if cause == 0x1A then 0x07 else 0x08

/-- Takes a trap with the core drained (R304, R310, R311). In supervisor state it is a double trap, recorded as KIND
0x0E; there, and with no supervisor, the share ends with FAULT. An uncured POISON or PIPE is recorded as KIND 0x04
(R317). MORE names a further trap, a pre-emption that waits included. -/
def State.takeTrap (s0 : State) (r : TrapRec) (forced : Bool) : State :=
  let q := s0.core.seq
  let s := if r.bad && !q.sup then s0.raiseHere (s0.coreEvent 0x04 (curedSrc r.cause) 0 0 r.eng r.secno r.widx) else s0
  if q.sup then
    let ev := s.coreEvent 0x0E 0x08 0 (BitVec.ofNat 64 r.cause.toNat) r.eng r.secno r.widx
    (s.raiseHere { ev with word6 := q.tinfo }).endFault
  else if !q.sen then s.endFault
  else
    let ti := tinfoOf r forced (q.trapped || (q.req && r.cause != 0x1B))
    let atEnd := q.ended && r.resume.isNone
    let s1 := s.note 0x3 r.eng r.secno.toNat r.widx.toNat ti
    s1.onCore (fun k => k.enterSup ti r.addr (r.resume.getD q.pc) atEnd)

/-- The drained core takes the recorded trap that is next, if one is. -/
def State.takeNext (s : State) : State :=
  match s.core.seq.nextTrap with
  | some (r, q) => (s.onCore (fun k => { k with seq := q })).takeTrap r false
  | none => s

/-- The debug port is open for stops (R414): the core then stops before it enters a trap (R380). -/
def State.stopsOpen (s : State) : Bool := s.nib.debugOpen && s.nib.scope.getLsbD 0

/-- A trap the sequencer's word at PC raises (R176): recorded, the core drains, and enters at once where nothing
is under way. -/
def State.seqTrap (s : State) (cause sub : BitVec 8) (addr : Word) (after : Bool) : State :=
  let q := s.core.seq
  let r : TrapRec :=
    { cause := cause, sub := sub, eng := .seq, secno := 0, widx := q.pc, addr := addr,
      resume := some (if after then q.pc + 1 else q.pc), sup := q.sup }
  let s1 := s.onCore (fun k => { k with seq := { q.record r with draining := true } })
  if s1.core.quiet && !s1.core.seq.replays && !s1.stopsOpen then s1.takeNext else s1

/-- Releases an engine's held entries (R325). -/
def Engine.release (x : Engine) : Engine :=
  { x with queue := x.queue.map (fun q => { q with held := false, failed := false }) }

/-- Releases the held entries of every engine. -/
def Core.release (k : Core) : Core := { k with em := k.em.release, ev := k.ev.release, ex := k.ex.release }

/-- Returns from the supervisor (R323): S := PS, PC := TPC, the wait half where RW is set; at the end of the share
no word issues, and the sections left run on (R58). -/
def Core.leaveSup (k0 : Core) (gap : Nat) : Core :=
  let k := if k0.seq.tpcEnd then k0.release else k0
  let q := k.seq
  { k with seq := { q with sup := q.ps, pc := q.tpc, half := q.rw, rw := false, ended := q.tpcEnd, tpcEnd := false,
                           wait := 1 + gap, fresh := false, back := 1 + gap } }.markDone

/-! ### Issuing a sequencer word (R174-R176) -/

/-- How a sequencer word ends. -/
inductive SRes where
  /-- Goes on to the next word. -/
  | next (s : State)
  /-- Goes on after `n` more cycles. -/
  | idle (n : Nat) (s : State)
  /-- Names the next word itself. -/
  | jump (pc : BitVec 14) (s : State)
  /-- Raises a trap and performs nothing; `after` resumes at the word after it. -/
  | trap (cause sub : BitVec 8) (addr : Word) (after : Bool)
  /-- Has set everything itself. -/
  | own (s : State)

/-- Kinds of sequencer word: privileged (R170), one of those R185 excludes, the idle it spends whether or not its guard
holds (R188), and the scalars it reads (R367). -/
structure SKind where
  priv : Bool := false
  excl : Bool := false
  idle : Nat := 0
  reads : List (BitVec 5) := []

/-- A guard holds (R175). -/
def guardHolds (b : Bank) (g : Option Guard) : Bool :=
  match g with
  | none => true
  | some x => b.pred x.p != x.neg

/-- A word whose check fails lands no result and raises PIPE, unless it raises a trap of its own (R368). -/
def SRes.spoil : SRes → SRes
  | .trap c u a f => .trap c u a f
  | _ => .trap 0x1A 0 0 false

/-- A word issued in this tick (R385). -/
def State.issues (s : State) : State := s.onCore (fun k => { k with obs := { k.obs with issued := true, wdogCnt := 0 } })

/-- A check that was to fail beside the control stream's word is over with it (R368). -/
def State.seqChecked (s : State) : State := s.onCore (fun k => { k with seq := { k.seq with pipe := false } })

/-- The same beside an engine's word. -/
def State.engChecked (s : State) (e : Stream) : State := s.onCore (fun k => k.modEng e (fun x => { x with pipe := false }))

/-- Ends a sequencer word. -/
def SRes.finish (r : SRes) (s : State) (gap : Nat) : State :=
  match r with
  | .next t => t.fallThrough (1 + gap)
  | .idle n t => t.fallThrough (1 + gap + n)
  | .jump pc t => t.goTo pc (1 + gap)
  | .trap c u a f => s.seqTrap c u a f
  | .own t => t

/-- Issues a sequencer word: privilege, then guard, then its effect; a poisoned scalar it reads raises POISON. -/
def State.issueSeq (s0 : State) (o : SKind) (h : Head) (body : State → SRes) : State :=
  let s := s0.issues
  let gap := h.gap.toNat
  let t :=
    if o.priv && !s.core.seq.sup then s.seqTrap 0x02 0 0 false
    else if guardHolds s.core.seq.bank h.guard then
      (if o.reads.any s.badScalar then s.seqTrap 0x19 0 0 false
       else (if s.core.seq.pipe then (body s).spoil else body s).finish s gap)
    else if o.excl then s.goTo (s.core.seq.pc + 1) (1 + gap)
    else s.fallThrough (1 + gap + o.idle)
  t.seqChecked.bump

/-- The word at PC, or its fetch, raises a trap before it issues. -/
def State.seqRefuse (s : State) (cause : BitVec 8) (addr : Word) : State :=
  (s.seqTrap cause 0 addr false).seqChecked.bump

/-! ### Issuing an engine word (R43, R116) -/

/-- How an engine word ends. -/
inductive ERes where
  | ok (s : State)
  /-- Raises a trap and performs nothing. -/
  | trap (cause sub : BitVec 8) (addr : Word)
  /-- Raises a trap in a state it has changed. -/
  | after (s : State) (cause sub : BitVec 8) (addr : Word)

/-- A word whose check fails lands no result and raises PIPE, unless it raises a trap of its own (R368). -/
def ERes.spoil : ERes → ERes
  | .ok _ => .trap 0x1A 0 0
  | r => r

/-- Goes on to the section's next word. -/
def Running.advance (r : Running) (gap : Nat) : Running := { r with next := r.next + 1, wait := 1 + gap }

/-- Issues an engine word: its effect, then the next word after its GAP; a trap stops the section. -/
def State.issueEng (s0 : State) (e : Stream) (g : BitVec 5) (body : State → ERes) : State :=
  let s := s0.issues
  let t :=
    match (if (s.core.eng e).pipe then (body s).spoil else body s) with
    | .ok u => u.onCore (fun k => k.modEng e (fun x => { x with run := x.run.map (fun (r : Running) => r.advance g.toNat) }))
    | .trap c u a => s.engTrap e c u a
    | .after v c u a => v.engTrap e c u a
  (t.engChecked e).bump

/-- An engine's word raises a trap before it issues. -/
def State.engRefuse (s : State) (e : Stream) (cause : BitVec 8) : State :=
  ((s.engTrap e cause 0 0).engChecked e).bump

end Sys2Proof.Machine
end

