-- ==== Sys2Proof/Machine/Operands.lean ====
section
/-! DEFINITION. Operand forms: shape fields, vector sources, tiles and write masks, near and die addresses, the
bytes they name and the events a die access breaks into. -/

namespace Sys2Proof.Machine

/-! ### Shape registers (R167, R168) -/

/-- A field of a shape image. -/
def shF (sh : BitVec 512) (lo w : Nat) : Nat := sh.toNat / 2 ^ lo % 2 ^ w

def shRows (sh : BitVec 512) : Nat := shF sh 0 13
def shCols (sh : BitVec 512) : Nat := shF sh 13 13
def shEtype (sh : BitVec 512) : BitVec 4 := fieldAt sh 26 4
def shLevel (sh : BitVec 512) : Bool := sh.getLsbD 30
def shBase (sh : BitVec 512) : Nat := shF sh 32 28
def shRowStride (sh : BitVec 512) : Int := sgn 24 (shF sh 64 24)
def shColStride (sh : BitVec 512) : Int := sgn 24 (shF sh 88 24)
def shM (sh : BitVec 512) : Nat := shF sh 112 13
def shWfmt (sh : BitVec 512) : BitVec 4 := fieldAt sh 128 4
def shAfmt (sh : BitVec 512) : BitVec 4 := fieldAt sh 132 4
def shOfmt (sh : BitVec 512) : BitVec 4 := fieldAt sh 136 4
def shAlsb (sh : BitVec 512) : BitVec 10 := fieldAt sh 140 10
def shTrans (sh : BitVec 512) : Bool := sh.getLsbD 150
def shEpi (sh : BitVec 512) : BitVec 8 := fieldAt sh 152 8
def shBlock (sh : BitVec 512) : BitVec 4 := fieldAt sh 160 4
def shEmax (sh : BitVec 512) : Bool := sh.getLsbD 164
def shInf (sh : BitVec 512) : Bool := sh.getLsbD 165

/-- A reserved bit of a shape image is set: 511:166, 159:157, 151, 127:125, 63:60 or 31. -/
def shReserved (sh : BitVec 512) : Bool := sh &&& shapeReserved != 0

/-- The field a selector names: first bit and width (R167). -/
def selField (n : Nat) : Nat × Nat :=
  ([(0, 13), (13, 13), (26, 4), (30, 1), (32, 28), (64, 24), (88, 24), (112, 13), (128, 4), (132, 4), (136, 4),
    (140, 10), (150, 1), (152, 8), (160, 4), (164, 1), (165, 1)] : List (Nat × Nat))[n]?.getD (0, 0)

/-- Elements of a shape's tile. -/
def tileE (sh : BitVec 512) : Nat := shRows sh * shCols sh

/-- A legal tile for elements of the given widths (R168, R206, R208). -/
def tileOk (sh : BitVec 512) (ws : List Nat) (me : Bool) : Bool :=
  !shReserved sh && shRows sh != 0 && shCols sh != 0 && decide (shRows sh ≤ 4096) && decide (shCols sh ≤ 4096) &&
    ws.all (fun w => decide (tileE sh * w ≤ 4096)) && (!me || decide (tileE sh ≤ 256))

/-! ### Vector values (R206-R208) -/

/-- The first `n` elements of width `w` of a number of bits. -/
def elemList (w : Nat) : Nat → Nat → List Nat
  | 0, _ => []
  | n + 1, x => x % 2 ^ w :: elemList w n (x / 2 ^ w)

/-- Elements of a vector value. -/
def elemsOf (w n : Nat) (v : BitVec 4096) : List Nat := elemList w n v.toNat

/-- Element `e` of a vector value. -/
def elemAt (w e : Nat) (v : BitVec 4096) : Nat := v.toNat / 2 ^ (w * e) % 2 ^ w

/-- A vector value from its elements. -/
def vecOf (w : Nat) (l : List Nat) : BitVec 4096 := BitVec.ofNat 4096 (packNat w l)

/-- Every element holds the low `w` bits of a parameter (R158). -/
def broadcast (w : Nat) (k : Word) : BitVec 4096 := vecOf w (List.replicate (4096 / w) k.toNat)

/-- The head of the inflow queue as a register value. -/
def headBits (p : Payload) : BitVec 4096 := BitVec.ofNat 4096 (natOfBytes (p.data.read 0 512))

/-- A vector source (R158, R207): a register through RB, the head of the inflow queue, or a parameter,
broadcast at the width `w` of the word's TY (R158, R206), which in a word without elements fills the low 64 bits
(R217). -/
def State.vsrc (s : State) (k w : Nat) (c : BitVec 7) : BitVec 4096 :=
  if c.toNat < 0x40 then s.seeV k (s.phys (s.supOf .v) c.toNat)
  else if c == 0x40 then
    match s.core.x.inflow with
    | p :: _ => headBits p
    | [] => 0
  else
    let p := s.kpar .v (fieldAt c 0 2)
    if w < 64 then broadcast w p else p.setWidth 4096

/-- Pops the inflow queue; the pop ends a replay window (R207, R315). -/
def State.popInflow (s : State) : State :=
  (s.onCore (fun k => { k with x := { k.x with inflow := k.x.inflow.drop 1 } })).noReplay

/-- Whether an element is written under a write mask (R208). -/
def picked (me : Bool) (m : BitVec 256) (e : Nat) : Bool := !me || m.getLsbD e

/-- The bits a tile result writes: the picked elements, and everything beyond the tile (R208). -/
def tileMask (w n : Nat) (me : Bool) (m : BitVec 256) : BitVec 4096 :=
  if !me then BitVec.allOnes 4096
  else
    BitVec.ofNat 4096 (packNat w ((List.range n).map (fun e => if m.getLsbD e then 2 ^ w - 1 else 0)) +
      (2 ^ 4096 - 2 ^ (w * n)))

/-- What a vector word gives: its bound, its flags and where its result lands. -/
structure VRes where
  bound : Nat
  flags : BitVec 6
  land : Land

/-- A tile result in a vector register code: values with flags by element, unpicked ones left out. -/
def State.tileRes (s : State) (bound w : Nat) (dst : BitVec 7) (me : Bool) (m : BitVec 256)
    (rs : List (Nat × BitVec 6)) : VRes :=
  let fl := rs.zipIdx.foldl (fun a x => if picked me m x.2 then a ||| x.1.2 else a) 0
  { bound := bound, flags := fl,
    land := .vec [{ reg := BitVec.ofNat 6 (s.phys (s.supOf .v) dst.toNat), w := w,
                    mask := tileMask w rs.length me m, val := vecOf w (rs.map Prod.fst) }] }

/-- A whole vector register result, seen in elements of `w` bits. -/
def State.wholeRes (s : State) (bound w : Nat) (dst : BitVec 7) (flags : BitVec 6) (v : BitVec 4096) : VRes :=
  { bound := bound, flags := flags,
    land := .vec [{ reg := BitVec.ofNat 6 (s.phys (s.supOf .v) dst.toNat), w := w, mask := BitVec.allOnes 4096,
                    val := v }] }

/-- Registers a landing writes, by class and index, for R315. -/
def Land.regs : Land → List (Nat × Nat)
  | .vec ws => ws.map (fun w => (0, w.reg.toNat))
  | .mask i _ _ => [(1, i.toNat)]
  | .shape i _ _ => [(2, i.toNat)]
  | .quill i _ => [(3, i.toNat)]
  | .latch w _ => [(4, w.toNat)]
  | _ => []

/-- What a vector word reads: vector codes with the width of their elements, masks and quills by index, and a
shape register. -/
structure VUse where
  srcs : List (BitVec 7 × Nat) := []
  masks : List (BitVec 3) := []
  quills : List (BitVec 4) := []
  sh : Option (BitVec 4) := none
  /-- The write or exclusion mask, where ME = 1. -/
  wm : Option (BitVec 3) := none

/-- What a vector word has read. -/
structure VIn where
  vs : List (BitVec 4096)
  ms : List (BitVec 256)
  qs : List Quill
  sh : BitVec 512
  wm : BitVec 256

/-- The `i`-th of what a word read. -/
def VIn.v (x : VIn) (i : Nat) : BitVec 4096 := x.vs[i]?.getD 0
def VIn.m (x : VIn) (i : Nat) : BitVec 256 := x.ms[i]?.getD 0
def VIn.q (x : VIn) (i : Nat) : Quill := x.qs[i]?.getD Quill.zero

/-- A word names `vin`. -/
def VUse.vin (u : VUse) : Bool := u.srcs.any (fun c => c.1 == 0x40)

/-- Reads what a vector word uses, as it stands at issue (R207). -/
def State.vread (s : State) (u : VUse) : VIn :=
  { vs := u.srcs.zipIdx.map (fun c => s.vsrc c.2 c.1.2 c.1.1),
    ms := u.masks.zipIdx.map (fun c => s.seeM (4 + c.2) c.1),
    qs := u.quills.zipIdx.map (fun c => s.seeQ (7 + c.2) c.1),
    sh := (u.sh.map (s.seeSh 10)).getD 0,
    wm := (u.wm.map (s.seeM 11)).getD 0 }

/-- Registers a word reads, by class and index, for R315. -/
def State.vregs (s : State) (u : VUse) : List (Nat × Nat) :=
  (u.srcs.filter (fun c => decide (c.1.toNat < 0x40))).map (fun c => (0, s.phys (s.supOf .v) c.1.toNat)) ++
    u.masks.map (fun i => (1, i.toNat)) ++ u.quills.map (fun i => (3, i.toNat)) ++
    (u.sh.map (fun i => (2, i.toNat))).toList ++ (u.wm.map (fun i => (1, i.toNat))).toList

/-- Issues a vector word that reads registers and gives one result: SHAPE where `ok` fails, VINEMPTY, POISON of a
popped entry or of a register it reads, PIPE after a pop, else its result (R168, R207, R208, R367, R368). A word reads each register it names
whole (log entry 69). -/
def vword (g : BitVec 5) (s : State) (u : VUse) (ok : BitVec 512 → Bool) (fn : State → VIn → VRes) : State :=
  s.issueEng .v g fun t =>
    let x := t.vread u
    let bad := t.badRegs (t.vregs u)
    if !bad && u.sh.isSome && !ok x.sh then .trap 0x03 0 0
    else if u.vin && t.core.x.inflow.isEmpty then .trap 0x0F 0 0
    else
      let t1 := if u.vin then t.popInflow else t
      if bad || (u.vin && (t.core.x.inflow.head?.map (fun p => p.data.poisoned 0 512)).getD false) then .after t1 0x19 0 0
      else if u.vin && t.core.ev.pipe then .after t1 0x1A 0 0
      else
        let r := fn t x
        .ok (((t1.didRead (t.vregs u)).didWrite r.land.regs).give .v r.bound (r.flags.setWidth 32) r.land)

/-! ### Addresses (R163, R192, R193) -/

/-- s[BASE] or k[KI], or zero, plus a sign-extended offset, modulo 2^64. -/
def baseOff (base : Word) (off : BitVec 24) : Nat := (base + off.signExtend 64).toNat

/-- Touched die blocks of a run of die bytes are all valid (R114, R193). -/
def State.dieOk (s : State) (a n : Nat) : Bool :=
  decide (a + n ≤ 2 ^ 28) && (slotsOf a n).all (fun b => dieBlockOk s.myMembersOn b)

/-- Landings whose data is at hand, and near results in flight: what a near read may already see (R22, R278). -/
def Core.nearNews (k : Core) : List Mem :=
  (k.x.flight.filterMap (fun r =>
    match r.land with
    | .near bs => some bs
    | _ => none)) ++
  (k.x.accs.filterMap (fun a =>
    match a.kind with
    | .land _ _ _ ad n =>
      ((k.claim a).bind (fun i => k.x.landing[i]?)).bind
        (fun q => if q.len = n then some ((q.data.read 0 n).zipIdx.map (fun e => (ad + e.2, e.1))) else none)
    | .atom x =>
      match x.dst, x.old with
      | some ad, some v => some ((bytesOfNat x.bytes v.toNat).zipIdx.map (fun e => (ad + e.2, e.1)))
      | _, _ => none
    | _ => none))

/-- One near byte as a word reads it. -/
def seeByte (s : State) (k : Nat) (news : List Mem) (a : Nat) : Byte :=
  news.zipIdx.foldl (fun b e =>
    match e.1.find? (fun x => x.1 == a) with
    | some x => if s.choice (slotBase k + 131072 * (e.2 % 8) + a / 8) then x.2 else b
    | none => b) (s.core.near.byte a)

/-- `n` near bytes as a word reads them; each 8-byte unit inside a window is old or new. -/
def State.nearSee (s : State) (k a n : Nat) : List Byte :=
  let news := s.core.nearNews
  if news.isEmpty then s.core.near.read a n else (List.range n).map (fun i => seeByte s k news (a + i))

/-- A run of near bytes lies below 2^20. -/
def nearOk (a n : Nat) : Bool := decide (a + n ≤ 2 ^ 20)

/-- Writes near bytes and clears the poison of the words it writes whole (R367). -/
def State.nearPut (s : State) (a : Nat) (bs : List Byte) : State :=
  (s.onCore (fun k => { k with near := k.near.write a bs })).didStore (slotsOf a bs.length)

/-- Keeps each number of a list once. -/
def uniq (l : List Nat) : List Nat := l.foldr insertNat []

/-! ### Events of a die access (R148) -/

/-- The events of a scalar access: one if it is naturally aligned, else one per byte. -/
def scalarPieces (a n : Nat) (bs : List Byte) : List Piece :=
  if a % n = 0 then
    [{ addr := a, len := n, data := bs, en := List.replicate n 0xFF, done := false, poisoned := false }]
  else
    (List.range n).map (fun i =>
      { addr := a + i, len := 1, data := (bs.drop i).take 1, en := [0xFF], done := false, poisoned := false })

/-- A byte touched by a vector access: its address, value, and the bits it touches. -/
abbrev Touch := Nat × Byte × Byte

/-- Touched bytes taken together, later ones over earlier ones. -/
def overlay (l : List Touch) (a : Nat) : Byte × Byte :=
  l.foldl (fun r t => if t.1 = a then ((r.1 &&& ~~~t.2.2) ||| (t.2.1 &&& t.2.2), r.2 ||| t.2.2) else r) (0, 0)

/-- The events of a vector access: one per naturally aligned 8-byte unit it touches; one of no bytes where it
touches none. -/
def unitPieces (touched : List Touch) : List Piece :=
  if touched.isEmpty then [{ addr := 0, len := 0, data := [], en := [], done := false, poisoned := false }]
  else
    (uniq (touched.map (fun e => e.1 / 8))).map (fun u =>
      let mine := touched.filter (fun e => e.1 / 8 == u)
      { addr := 8 * u, len := 8, data := (List.range 8).map (fun i => (overlay mine (8 * u + i)).1),
        en := (List.range 8).map (fun i => (overlay mine (8 * u + i)).2), done := false, poisoned := false })

/-- Scope of an acquire or release; 0 for a plain access (R143, R161). -/
def acqScope (q : BitVec 2) (s : BitVec 3) : Nat := if q == 1 || q == 3 then s.toNat else 0
def relScope (q : BitVec 2) (s : BitVec 3) : Nat := if q == 2 || q == 3 then s.toNat else 0

/-- Runs of bytes at addresses, each `n` long, in one space. -/
def feet (sp : Space) (n : Nat) (as : List Nat) : List Foot := as.map (fun a => { sp := sp, addr := a, len := n })

/-- The smallest scope that holds every home of runs of die bytes. -/
def State.reachAll (s : State) (fs : List Foot) : Nat :=
  fs.foldl (fun r f => max r (s.reachDie s.myMembersOn f.addr f.len)) 0

end Sys2Proof.Machine
end

