-- ==== Sys2Proof/Machine/Flags.lean ====
section
/-! DEFINITION. Conditions and flags: the scalar compare conditions (R161, R180), integer and float conditions of
`vcmp` (R216), and the bits of a tile's flag word (R256). VFLG's bits stand with the arithmetic that sets them. -/

namespace Sys2Proof.Machine

/-- A condition code on two words: eq, ne, lt, ge signed, ltu, geu unsigned (R161). -/
def condHolds (c : BitVec 3) (a b : Word) : Bool :=
  if c == 0 then a == b
  else if c == 1 then a != b
  else if c == 2 then a.slt b
  else if c == 3 then !a.slt b
  else if c == 4 then a.ult b
  else !a.ult b

/-- An integer condition of `vcmp` on `w`-bit elements (R216). -/
def condInt (w c x y : Nat) : Bool :=
  if c = 0 then x == y
  else if c = 1 then x != y
  else if c = 2 then decide (sgn w x < sgn w y)
  else if c = 3 then !decide (sgn w x < sgn w y)
  else if c = 4 then decide (x < y)
  else !decide (x < y)

/-- Bits of a tile's flag word (R256). -/
def tOVF : Word := 1
def tINV : Word := 2
def tESAT : Word := 4
def tENAN : Word := 8

/-- Loads, stores and adds of predicates: sets a predicate of the current bank. -/
def State.setPred (s : State) (i : BitVec 3) (v : Bool) : State :=
  s.onCore (fun k => { k with seq := k.seq.setBank (k.seq.bank.putPred i v) })

end Sys2Proof.Machine
end

