-- ==== Sys2Proof/Machine/Plane.lean ====
section
/-! DEFINITION. Instruction planes (R154, R155): the stream directory, sections and headers, fetching a word; the
configuration-plane flip (R346); and tick alignment (R73, R74). -/

namespace Sys2Proof.Machine

/-! ### The plane -/

/-- `n` bytes of a plane. -/
def Plane.bytes (p : Plane) (a n : Nat) : List Byte := Mem.read p.code a n

/-- Some byte of a run lies in a word held poisoned (R366). -/
def Plane.poisoned (p : Plane) (a n : Nat) : Bool := p.bad.any (fun w => decide (8 * w < a + n) && decide (a < 8 * w + 8))

/-- A little-endian number of `n` bytes of a plane. -/
def Plane.num (p : Plane) (a n : Nat) : Nat := natOfBytes (p.bytes a n)

/-- Byte offset and length of a stream (R155). Headers and words are fetched from the offset as it stands, a multiple of 4
or not (DESIGN CHOICE, log entry 68). -/
def Plane.stream (p : Plane) (e : Stream) : Nat × Nat :=
  (p.num (8 * streamCode e) 4, p.num (8 * streamCode e + 4) 4)

/-- The sections of an engine stream from a byte offset on, below an end: number and offset of the header. What is left
of the stream after the last whole header is ignored, and the words of a section whose LEN runs past the stream are read
on in the plane (DESIGN CHOICE, log entry 68). -/
def sectionsFrom (p : Plane) (stop : Nat) : Nat → Nat → List (Nat × Nat)
  | 0, _ => []
  | n + 1, a =>
    if stop < a + 8 then []
    else
      let h := Header.parse (BitVec.ofNat 64 (p.num a 8))
      (h.secno.toNat, a) :: sectionsFrom p stop n (a + 8 + 12 * h.len.toNat)

/-- The header offset of a section that exactly one header of the stream carries (R59). -/
def Plane.find (p : Plane) (e : Stream) (n : Nat) : Option Nat :=
  let d := p.stream e
  match (sectionsFrom p (d.1 + d.2) (d.2 / 8 + 1) d.1).filter (fun x => x.1 == n) with
  | [x] => some x.2
  | _ => none

/-- The header at an offset. -/
def Plane.header (p : Plane) (a : Nat) : Header := Header.parse (BitVec.ofNat 64 (p.num a 8))

/-- The 12 bytes of a control-stream word; none at or beyond the stream's length (R155). A last word the length cuts off
counts as beyond it (DESIGN CHOICE, log entry 68). -/
def Plane.word (p : Plane) (i : Nat) : Option (List Byte) :=
  let d := p.stream .seq
  if 12 * i + 12 ≤ d.2 then some (p.bytes (d.1 + 12 * i) 12) else none

/-- A control-stream word is held poisoned (R366). -/
def Plane.wordBad (p : Plane) (i : Nat) : Bool := p.poisoned ((p.stream .seq).1 + 12 * i) 12

/-! ### The flip (R346) -/

/-- The shape registers of a state block. -/
def shapesOf (m : Mem) : Vector (BitVec 512) 16 :=
  Vector.ofFn (fun i => BitVec.ofNat 512 (natOfBytes (Mem.read m (64 * i.val) 64)))

/-- The near store a flip leaves: slot images in their slots, zero blocks elsewhere. -/
def nearOfImages (l : List (Nat × Store)) : Store := l.foldl (fun m e => m.setBlock e.1 e.2) Store.empty

/-- The thread bank, engines, barrier slots and near store take a plane's initial state; the supervisor bank and
the other system registers stay (R346, R347). -/
def Core.initial (k : Core) (p : Plane) : Core :=
  { k with
    seq := { k.seq with thr := Bank.zero, scyc := 0, bslots := [] }, badReg := [],
    vec := { Vec.reset with sh := shapesOf p.shapes },
    mat := Mat.reset,
    near := nearOfImages p.slots }

/-- The shadow plane becomes current, and the current one shadow. -/
def Core.swapPlanes (k : Core) : Core := { k with cur := k.shd, shd := k.cur }

/-! ### Alignment (R73, R74) -/

/-- TICKMIN(`.pkg`) of a partition as a die sees it: its own TICK, and the last beacon of each other die that
holds cores of the partition. -/
def State.tickMinOf (s : State) (d : Nat) (x : Part) : Word :=
  ((s.diesOf x).filter (· != d)).foldl
    (fun m e => let b := (s.die d).beacon[e]?.getD 0; if b.ult m then b else m) (s.die d).tick

/-- The same for the partition of the core in focus; its die's TICK where it has none. -/
def State.tickMin (s : State) : Word :=
  match s.myPart with
  | some (_, x) => s.tickMinOf s.myDie x
  | none => s.tick

/-- A die has received a release of a partition with at least a value. -/
def Die.received (d : Die) (p : Nat) (g : Word) : Bool :=
  d.rels.any (fun r => r.part == p && r.exit == none && !r.value.ult g)

/-- A die has sent such a release and reached its exit tick. -/
def Die.exited (d : Die) (p : Nat) (g : Word) : Bool :=
  d.rels.any (fun r => r.part == p && !r.value.ult g &&
    (match r.exit with
     | some t => !d.tick.ult t
     | none => false))

/-- A die has sent such a release. -/
def Die.sentRel (d : Die) (p : Nat) (g : Word) : Bool :=
  d.rels.any (fun r => r.part == p && r.exit != none && !r.value.ult g)

/-- A PALIGN does not freeze (R74). -/
def State.alignMet (s : State) (scope : BitVec 3) (g : Word) : Bool :=
  if scope == 4 then
    !s.tickMin.ult g && ((s.die s.myDie).received s.partNum g || (s.die s.myDie).exited s.partNum g)
  else !s.tick.ult g

/-! ### The end of a freeze -/

/-- The trace record of a freeze that ends (R389): cause and ticks. -/
def State.noteFreeze (s : State) (cause : Nat) : State :=
  s.note 0x4 .seq 0 s.core.seq.pc.toNat (BitVec.ofNat 64 (cause + 2 ^ 32 * s.core.seq.frz.ticks))

/-- A core leaves PALIGN and goes on to the next word (R74, R190), or from the implicit
one to its first tile entry (R52). -/
def State.leaveAlign (s : State) : State :=
  match s.core.seq.frz.align with
  | none => s
  | some a =>
    let g := s.core.seq.frz.gap.toNat
    let s1 := (s.noteFreeze 2).note 0x5 .seq 0 s.core.seq.pc.toNat a.2
    let s2 := s1.onCore (fun k => { k with seq := { k.seq with
      frz := { k.seq.frz with align := none, start := false, ticks := 0 } } })
    if s.core.share.phase = .aligning then s2.onCore (fun k => { k with share := { k.share with phase := .entry } })
    else s2.fallThrough g

/-- The exit of a barrier wait, the next word issuing after `wait` cycles (R198, R199): both marks are cleared and the
completion is used up; a bad generation raises BARSEQ and leaves a destination undefined; a `bar.red` result lands 8
cycles later, undefined where a written done mark brought no completion (R10). -/
def State.exitBar (s : State) (w : BarWait) (wait : Nat) : State :=
  let sup := s.core.seq.sup
  let r := s.core.barResult sup w.bar
  let s1 := s.onCore (fun k0 =>
    let k := k0.dropResult sup w.bar
    { k with seq :=
      { k.seq.setSlot w.bar.toNat { k.seq.slot w.bar.toNat with arrived := false, done := false } with
        frz := { k.seq.frz with bar := none, start := false, ticks := 0 } } })
  let fr : Word := Config.free 64 (16777216 * s.free)
  if (r.map BarResult.bad).getD false then
    let s2 := match w.dst with
      | some d => s1.give .seq 1 0 (.sreg sup d fr)
      | none => s1
    s2.seqTrap 0x0E 0 (BitVec.ofNat 64 w.bar.toNat) false
  else
    let s2 := match w.dst with
      | some d => s1.give .seq 8 0 (.sreg sup d ((r.bind BarResult.val).getD fr))
      | none => s1
    (s2.note 0x6 .seq 0 s2.core.seq.pc.toNat (BitVec.ofNat 64 (w.bar.toNat + 512 * w.scope.toNat))).fallThrough wait

end Sys2Proof.Machine
end

