-- ==== Sys2Proof/Machine/LoadStore.lean ====
section
/-! DEFINITION. Scalar loads and stores, and shape registers from the sequencer (R192-R196). -/

namespace Sys2Proof.Machine

/-- The effective address (R193). -/
def State.smEa (s : State) (f : SM) : Nat := baseOff (s.reg 0 f.base) f.off

/-- A near `ld` (R193): its value is read at issue and lands within 4 cycles. -/
def ldNear (f : SM) (t : State) : SRes :=
  let ea := t.smEa f
  let nb := 2 ^ f.w.toNat
  if !nearOk ea nb then .trap 0x0A 0 (BitVec.ofNat 64 ea) false
  else if t.core.near.poisoned ea nb then .trap 0x19 0 (BitVec.ofNat 64 ea) false
  else
    .next (((t.present 5 0 (linesOf ea nb)).didLoad (slotsOf ea nb)).give .seq 4 0
      (.sreg t.core.seq.sup f.reg (BitVec.ofNat 64 (natOfBytes (t.nearSee 2 ea nb)))))

/-- A die `ld` (R193): an access that lands at its arrival cycle. -/
def ldDie (f : SM) (t : State) : SRes :=
  let ea := t.smEa f
  let nb := 2 ^ f.w.toNat
  if !t.dieOk ea nb then .trap 0x0A 0 (BitVec.ofNat 64 ea) false
  else
    let ft := feet .die nb [ea]
    .next (t.issueAcc .seq f.cls ft (t.reachAll ft) (acqScope f.ordq f.scope) 0 (some f.arr.toNat) none
      (.load (scalarPieces ea nb (List.replicate nb 0)) (.sreg t.core.seq.sup f.reg)))

def execLd (h : Head) (f : SM) (s : State) : Host.Outcome State Fault Refusal :=
  .next (s.issueSeq { reads := [f.base] } h fun t => if f.lvl then ldDie f t else ldNear f t)

/-- A near `st` (R193): performed at issue; a pending or landing-marked slot raises XBUSY. -/
def stNear (f : SM) (t : State) : SRes :=
  let ea := t.smEa f
  let nb := 2 ^ f.w.toNat
  if !nearOk ea nb then .trap 0x0A 0 (BitVec.ofNat 64 ea) false
  else if (slotsOf ea nb).any t.core.nearBusy then .trap 0x0B 0 (BitVec.ofNat 64 ea) false
  else .next ((t.present 5 0 (linesOf ea nb)).nearPut ea (bytesOfNat nb (t.reg 1 f.reg).toNat))

/-- The bound of a die store: 64 cycles on the core's own die, else 192 (R172, R193, R224). -/
def stBound (reach : Nat) : Nat := if reach ≤ 3 then 64 else 192

/-- A die `st` (R193): an access that performs at its banks; a slot pending under an exchange of the core raises
XBUSY at issue. A die store ends a replay window (R315). -/
def stDie (f : SM) (t : State) : SRes :=
  let ea := t.smEa f
  let nb := 2 ^ f.w.toNat
  if !t.dieOk ea nb then .trap 0x0A 0 (BitVec.ofNat 64 ea) false
  else if (slotsOf ea nb).any t.core.diePendingOwn then .trap 0x0B 0 (BitVec.ofNat 64 ea) false
  else
    let ft := feet .die nb [ea]
    .next (t.noReplay.issueAcc .seq f.cls ft (t.reachAll ft) 0 (relScope f.ordq f.scope) none (some (stBound (t.reachAll ft)))
      (.store (scalarPieces ea nb (bytesOfNat nb (t.reg 1 f.reg).toNat))))

def execSt (h : Head) (f : SM) (s : State) : Host.Outcome State Fault Refusal :=
  .next (s.issueSeq { reads := [f.base, f.reg] } h fun t => if f.lvl then stDie f t else stNear f t)

/-- `shld` (R195): MISAL, XRANGE, else the image lands within 4 cycles. -/
def execShld (h : Head) (f : SM) (s : State) : Host.Outcome State Fault Refusal :=
  .next (s.issueSeq { reads := [f.base] } h fun t =>
    let ea := t.smEa f
    if ea % 64 ≠ 0 then .trap 0x0C 0 (BitVec.ofNat 64 ea) false
    else if !nearOk ea 64 then .trap 0x0A 0 (BitVec.ofNat 64 ea) false
    else if t.core.near.poisoned ea 64 then .trap 0x19 0 (BitVec.ofNat 64 ea) false
    else
      let i : BitVec 4 := f.reg.setWidth 4
      .next ((((t.present 5 0 (linesOf ea 64)).didLoad (slotsOf ea 64)).didWrite [(2, i.toNat)]).give .seq 4 0
        (.shape i (BitVec.allOnes 512) (BitVec.ofNat 512 (natOfBytes (t.nearSee 2 ea 64))))))

/-- `shset` (R196): the field takes the low bits of a scalar, in force from the next cycle. -/
def execShset (h : Head) (f : SS) (s : State) : Host.Outcome State Fault Refusal :=
  .next (s.issueSeq { reads := [f.reg] } h fun t =>
    let x := selField f.sel.toNat
    .next ((t.didWrite [(2, f.sh.toNat)]).give .seq 1 0
      (.shape f.sh (fieldMask 512 x.1 x.2) (BitVec.ofNat 512 (lowBits x.2 (t.reg 0 f.reg).toNat) <<< x.1))))

/-- `shget` (R196): the field zero-extended, ALSB sign-extended. -/
def execShget (h : Head) (f : SS) (s : State) : Host.Outcome State Fault Refusal :=
  .next (s.issueSeq {} h fun t =>
    let x := selField f.sel.toNat
    let v := shF (t.seeSh 1 f.sh) x.1 x.2
    if t.badRegs [(2, f.sh.toNat)] then .trap 0x19 0 0 false
    else .next ((t.didRead [(2, f.sh.toNat)]).give .seq 1 0
      (.sreg t.core.seq.sup f.reg (if f.sel == 11 then BitVec.ofInt 64 (sgn 10 v) else BitVec.ofNat 64 v))))

end Sys2Proof.Machine
end

