-- ==== Sys2Proof/Machine/VArith.lean ====
section
/-! DEFINITION. Vector arithmetic (R212, R213) and the element-by-element forms the other vector families share. -/

namespace Sys2Proof.Machine

/-! ### Element-by-element words -/

/-- The write mask of a word, where ME = 1. -/
def wmOf (f : VA) : Option (BitVec 3) := if f.me then some f.msk else none

/-- Issues a word of one source of width `w` whose elements of width `dw` are `op` of the source's. -/
def vmap1 (g : BitVec 5) (f : VA) (s : State) (bound w dw : Nat) (op : Nat → Nat × BitVec 6) :
    Host.Outcome State Fault Refusal :=
  .next (vword g s { srcs := [(f.sa, w)], sh := some f.sh, wm := wmOf f } (fun sh => tileOk sh [w, dw] f.me) fun t x =>
    t.tileRes bound dw f.dst f.me x.wm ((elemsOf w (tileE x.sh) (x.v 0)).map op))

/-- Issues a word of two sources. -/
def vmap2 (g : BitVec 5) (f : VA) (s : State) (bound w : Nat) (op : Nat → Nat → Nat × BitVec 6) :
    Host.Outcome State Fault Refusal :=
  .next (vword g s { srcs := [(f.sa, w), (f.sb, w)], sh := some f.sh, wm := wmOf f } (fun sh => tileOk sh [w] f.me)
    fun t x =>
      let n := tileE x.sh
      t.tileRes bound w f.dst f.me x.wm
        (((elemsOf w n (x.v 0)).zip (elemsOf w n (x.v 1))).map (fun p => op p.1 p.2)))

/-- Issues a word of three sources. -/
def vmap3 (g : BitVec 5) (f : VA) (s : State) (bound w : Nat) (op : Nat → Nat → Nat → Nat × BitVec 6) :
    Host.Outcome State Fault Refusal :=
  .next (vword g s { srcs := [(f.sa, w), (f.sb, w), (f.sc, w)], sh := some f.sh, wm := wmOf f }
    (fun sh => tileOk sh [w] f.me) fun t x =>
      let n := tileE x.sh
      t.tileRes bound w f.dst f.me x.wm
        (((elemsOf w n (x.v 0)).zip ((elemsOf w n (x.v 1)).zip (elemsOf w n (x.v 2)))).map
          (fun p => op p.1 p.2.1 p.2.2)))

/-! ### Arithmetic (R212, R213) -/

/-- An integer result modulo 2^w. -/
def wrapped (w : Nat) (x : Int) : Nat × BitVec 6 := (wrapInt w x, 0)

/-- A code read as a float of an element type. -/
def fpIn (t : BitVec 4) (x : Nat) : Fp := readFp (fpOf t) x

def execVadd (g : BitVec 5) (f : VA) (s : State) : Host.Outcome State Fault Refusal :=
  vmap2 g f s 4 (widthOf f.ty) fun a b =>
    if floatTy f.ty then addFp (fpOf f.ty) (rmode f.rm) (fpIn f.ty a) (fpIn f.ty b)
    else wrapped (widthOf f.ty) (a + b)

def execVsub (g : BitVec 5) (f : VA) (s : State) : Host.Outcome State Fault Refusal :=
  vmap2 g f s 4 (widthOf f.ty) fun a b =>
    if floatTy f.ty then addFp (fpOf f.ty) (rmode f.rm) (fpIn f.ty a) (fpIn f.ty b).opp
    else wrapped (widthOf f.ty) ((a : Int) - b)

def execVmul (g : BitVec 5) (f : VA) (s : State) : Host.Outcome State Fault Refusal :=
  vmap2 g f s 4 (widthOf f.ty) fun a b =>
    if floatTy f.ty then mulFp (fpOf f.ty) (rmode f.rm) (fpIn f.ty a) (fpIn f.ty b)
    else wrapped (widthOf f.ty) (a * b)

/-- a · b + c. -/
def execVfma (g : BitVec 5) (f : VA) (s : State) : Host.Outcome State Fault Refusal :=
  vmap3 g f s 4 (widthOf f.ty) fun a b c =>
    if floatTy f.ty then fmaFp (fpOf f.ty) (rmode f.rm) (fpIn f.ty a) (fpIn f.ty b) (fpIn f.ty c)
    else wrapped (widthOf f.ty) (a * b + c)

/-- a · b − c. -/
def execVfms (g : BitVec 5) (f : VA) (s : State) : Host.Outcome State Fault Refusal :=
  vmap3 g f s 4 (widthOf f.ty) fun a b c =>
    if floatTy f.ty then fmaFp (fpOf f.ty) (rmode f.rm) (fpIn f.ty a) (fpIn f.ty b) (fpIn f.ty c).opp
    else wrapped (widthOf f.ty) ((a * b : Int) - c)

/-- −(a · b) + c. -/
def execVfnma (g : BitVec 5) (f : VA) (s : State) : Host.Outcome State Fault Refusal :=
  vmap3 g f s 4 (widthOf f.ty) fun a b c =>
    if floatTy f.ty then fmaFp (fpOf f.ty) (rmode f.rm) (fpIn f.ty a).opp (fpIn f.ty b) (fpIn f.ty c)
    else wrapped (widthOf f.ty) ((c : Int) - a * b)

def execVdiv (g : BitVec 5) (f : VA) (s : State) : Host.Outcome State Fault Refusal :=
  vmap2 g f s 24 (widthOf f.ty) fun a b => divFp (fpOf f.ty) (rmode f.rm) (fpIn f.ty a) (fpIn f.ty b)

def execVsqrt (g : BitVec 5) (f : VA) (s : State) : Host.Outcome State Fault Refusal :=
  vmap1 g f s 24 (widthOf f.ty) (widthOf f.ty) fun a => sqrtFp (fpOf f.ty) (rmode f.rm) (fpIn f.ty a)

/-- The smaller or larger of two elements: signed integers, or floats by R212. -/
def minMax (t : BitVec 4) (larger : Bool) (a b : Nat) : Nat :=
  if floatTy t then minMaxFp (fpOf t) larger a b
  else if decide (sgn (widthOf t) a < sgn (widthOf t) b) != larger then a else b

def execVmin (g : BitVec 5) (f : VA) (s : State) : Host.Outcome State Fault Refusal :=
  vmap2 g f s 4 (widthOf f.ty) fun a b => (minMax f.ty false a b, 0)

def execVmax (g : BitVec 5) (f : VA) (s : State) : Host.Outcome State Fault Refusal :=
  vmap2 g f s 4 (widthOf f.ty) fun a b => (minMax f.ty true a b, 0)

def execVabs (g : BitVec 5) (f : VA) (s : State) : Host.Outcome State Fault Refusal :=
  let w := widthOf f.ty
  vmap1 g f s 4 w w fun a =>
    if floatTy f.ty then (a % 2 ^ (w - 1), 0) else wrapped w (sgn w a).natAbs

def execVneg (g : BitVec 5) (f : VA) (s : State) : Host.Outcome State Fault Refusal :=
  let w := widthOf f.ty
  vmap1 g f s 4 w w fun a => if floatTy f.ty then (a ^^^ 2 ^ (w - 1), 0) else wrapped w (-(a : Int))

/-- a + b saturated to the signed range, no flag. -/
def execVadds (g : BitVec 5) (f : VA) (s : State) : Host.Outcome State Fault Refusal :=
  let w := widthOf f.ty
  vmap2 g f s 4 w fun a b => wrapped w (satInt w (sgn w a + sgn w b))

/-- a − b saturated. -/
def execVsubs (g : BitVec 5) (f : VA) (s : State) : Host.Outcome State Fault Refusal :=
  let w := widthOf f.ty
  vmap2 g f s 4 w fun a b => wrapped w (satInt w (sgn w a - sgn w b))

/-- The high half of the signed product. -/
def execVmulh (g : BitVec 5) (f : VA) (s : State) : Host.Outcome State Fault Refusal :=
  let w := widthOf f.ty
  vmap2 g f s 4 w fun a b => wrapped w (sgn w a * sgn w b / 2 ^ w)

end Sys2Proof.Machine
end

