-- ==== Sys2Proof/Machine/VBit.lean ====
section
/-! DEFINITION. Bitwise words and bit tools (R214, R215), compares and masks (R216, R217). -/

namespace Sys2Proof.Machine

/-- A bitwise result: no flag. -/
def bits (x : Nat) : Nat × BitVec 6 := (x, 0)

def execVand (g : BitVec 5) (f : VA) (s : State) : Host.Outcome State Fault Refusal :=
  vmap2 g f s 4 (widthOf f.ty) fun a b => bits (a &&& b)

def execVor (g : BitVec 5) (f : VA) (s : State) : Host.Outcome State Fault Refusal :=
  vmap2 g f s 4 (widthOf f.ty) fun a b => bits (a ||| b)

def execVxor (g : BitVec 5) (f : VA) (s : State) : Host.Outcome State Fault Refusal :=
  vmap2 g f s 4 (widthOf f.ty) fun a b => bits (a ^^^ b)

def execVnot (g : BitVec 5) (f : VA) (s : State) : Host.Outcome State Fault Refusal :=
  let w := widthOf f.ty
  vmap1 g f s 4 w w fun a => bits (2 ^ w - 1 - a)

/-- The shift amount b<log2 w − 1:0>, w a power of two. -/
def shiftBy (w b : Nat) : Nat := b % w

def execVshl (g : BitVec 5) (f : VA) (s : State) : Host.Outcome State Fault Refusal :=
  let w := widthOf f.ty
  vmap2 g f s 4 w fun a b => bits (lowBits w (a * 2 ^ shiftBy w b))

def execVshr (g : BitVec 5) (f : VA) (s : State) : Host.Outcome State Fault Refusal :=
  let w := widthOf f.ty
  vmap2 g f s 4 w fun a b => bits (a / 2 ^ shiftBy w b)

def execVsar (g : BitVec 5) (f : VA) (s : State) : Host.Outcome State Fault Refusal :=
  let w := widthOf f.ty
  vmap2 g f s 4 w fun a b => bits (wrapInt w (sgn w a / 2 ^ shiftBy w b))

def execVrot (g : BitVec 5) (f : VA) (s : State) : Host.Outcome State Fault Refusal :=
  let w := widthOf f.ty
  vmap2 g f s 4 w fun a b =>
    let n := shiftBy w b
    bits (lowBits w (a * 2 ^ n) + a / 2 ^ (w - n))

/-- The carry-less product. -/
def clmul (a : Nat) : Nat → Nat → Nat
  | 0, _ => 0
  | n + 1, b => (if b % 2 = 1 then a else 0) ^^^ clmul (2 * a) n (b / 2)

def execVclmul (g : BitVec 5) (f : VA) (s : State) : Host.Outcome State Fault Refusal :=
  let w := widthOf f.ty
  vmap2 g f s 6 w fun a b =>
    let p := clmul a w b
    bits (if f.imm.getLsbD 0 then p / 2 ^ w else lowBits w p)

/-- Set bits among the low `n`. -/
def popCount : Nat → Nat → Nat
  | 0, _ => 0
  | n + 1, x => x % 2 + popCount n (x / 2)

def execVpopc (g : BitVec 5) (f : VA) (s : State) : Host.Outcome State Fault Refusal :=
  let w := widthOf f.ty
  vmap1 g f s 4 w w fun a => bits (popCount w a)

def execVclz (g : BitVec 5) (f : VA) (s : State) : Host.Outcome State Fault Refusal :=
  let w := widthOf f.ty
  vmap1 g f s 4 w w fun a => bits (w - bitLen a)

/-- `vsel`: the mask is an operand; every element is written. -/
def execVsel (g : BitVec 5) (f : VA) (s : State) : Host.Outcome State Fault Refusal :=
  let w := widthOf f.ty
  .next (vword g s { srcs := [(f.sa, w), (f.sb, w)], sh := some f.sh, wm := wmOf f } (fun sh => tileOk sh [w] true)
    fun t x =>
      let n := tileE x.sh
      t.tileRes 4 w f.dst false 0 (((elemsOf w n (x.v 0)).zip (elemsOf w n (x.v 1))).zipIdx.map
        (fun p => bits (if x.wm.getLsbD p.2 then p.1.1 else p.1.2))))

/-- Positions of the set bits of a number, rising. -/
def setBits : Nat → Nat → Nat → List Nat
  | 0, _, _ => []
  | n + 1, i, x => if x % 2 = 1 then i :: setBits n (i + 1) (x / 2) else setBits n (i + 1) (x / 2)

/-- `vbidx`: set-bit indices, then all ones. -/
def execVbidx (g : BitVec 5) (f : VA) (s : State) : Host.Outcome State Fault Refusal :=
  let w := widthOf f.ty
  .next (vword g s { srcs := [(f.sa, w)], sh := some f.sh } (fun sh => tileOk sh [w] false) fun t x =>
    let n := tileE x.sh
    let l := (setBits 4096 0 (x.v 0).toNat).take n
    t.tileRes 6 w f.dst false 0
      (l.map (fun b => bits (lowBits w (b + f.imm.toNat))) ++ List.replicate (n - l.length) (bits (2 ^ w - 1))))

/-- `vbcmp`: byte-compare bits. -/
def execVbcmp (g : BitVec 5) (f : VA) (s : State) : Host.Outcome State Fault Refusal :=
  .next (vword g s { srcs := [(f.sa, 8)], sh := some f.sh } (fun sh => tileOk sh [8] false) fun t x =>
    let l := (elemsOf 8 (tileE x.sh) (x.v 0)).map (fun b => if b = f.imm.toNat % 256 then 1 else 0)
    t.wholeRes 6 8 f.dst 0 (vecOf 1 l))

def execVmov (g : BitVec 5) (f : VA) (s : State) : Host.Outcome State Fault Refusal :=
  vmap1 g f s 4 (widthOf f.ty) (widthOf f.ty) bits

def execVsplat (g : BitVec 5) (f : VA) (s : State) : Host.Outcome State Fault Refusal :=
  let w := widthOf f.ty
  .next (vword g s { srcs := [], sh := some f.sh, wm := wmOf f } (fun sh => tileOk sh [w] f.me) fun t x =>
    t.tileRes 4 w f.dst f.me x.wm (List.replicate (tileE x.sh) (bits (lowBits w f.imm.toNat))))

/-! ### Masks -/

/-- The low bits a list of conditions fills. -/
def boolBits (n : Nat) (l : List Bool) : BitVec n := BitVec.ofNat n (packNat 1 (l.map Bool.toNat))

/-- `vcmp` (R216): bits beyond the tile are written zero; unpicked bits keep their value and raise no flag. -/
def execVcmp (g : BitVec 5) (f : VA) (s : State) : Host.Outcome State Fault Refusal :=
  let w := widthOf f.ty
  .next (vword g s { srcs := [(f.sa, w), (f.sb, w)], sh := some f.sh, wm := wmOf f } (fun sh => tileOk sh [w] true)
    fun _ x =>
      let n := tileE x.sh
      let rs := ((elemsOf w n (x.v 0)).zip (elemsOf w n (x.v 1))).map (fun p =>
        if floatTy f.ty then cmpFp (fpOf f.ty) (f.imm.toNat % 8) p.1 p.2
        else (condInt w (f.imm.toNat % 8) p.1 p.2, (0 : BitVec 6)))
      let keep : BitVec 256 := if f.me then x.wm ||| (BitVec.allOnes 256 <<< n) else BitVec.allOnes 256
      { bound := 2,
        flags := rs.zipIdx.foldl (fun a r => if picked f.me x.wm r.2 then a ||| r.1.2 else a) 0,
        land := .mask (f.dst.setWidth 3) keep (boolBits 256 (rs.map Prod.fst)) })

/-- A mask word that writes a mask whole. -/
def maskWord2 (g : BitVec 5) (f : VA) (s : State) (op : BitVec 256 → BitVec 256 → BitVec 256) :
    Host.Outcome State Fault Refusal :=
  .next (vword g s { masks := [f.sa.setWidth 3, f.sb.setWidth 3] } (fun _ => true) fun _ x =>
    { bound := 2, flags := 0, land := .mask (f.dst.setWidth 3) (BitVec.allOnes 256) (op (x.m 0) (x.m 1)) })

def execMand (g : BitVec 5) (f : VA) (s : State) : Host.Outcome State Fault Refusal := maskWord2 g f s (· &&& ·)
def execMor (g : BitVec 5) (f : VA) (s : State) : Host.Outcome State Fault Refusal := maskWord2 g f s (· ||| ·)
def execMxor (g : BitVec 5) (f : VA) (s : State) : Host.Outcome State Fault Refusal := maskWord2 g f s (· ^^^ ·)

def execMnot (g : BitVec 5) (f : VA) (s : State) : Host.Outcome State Fault Refusal :=
  .next (vword g s { masks := [f.sa.setWidth 3] } (fun _ => true) fun _ x =>
    { bound := 2, flags := 0, land := .mask (f.dst.setWidth 3) (BitVec.allOnes 256) (~~~(x.m 0)) })

/-- `mfromv`: bits 255:0 of a register, of the popped entry, or the whole parameter. -/
def execMfromv (g : BitVec 5) (f : VA) (s : State) : Host.Outcome State Fault Refusal :=
  .next (vword g s { srcs := [(f.sa, 64)] } (fun _ => true) fun _ x =>
    { bound := 2, flags := 0, land := .mask (f.dst.setWidth 3) (BitVec.allOnes 256) ((x.v 0).setWidth 256) })

/-- `mtov`: a mask into bits 255:0, zero above. -/
def execMtov (g : BitVec 5) (f : VA) (s : State) : Host.Outcome State Fault Refusal :=
  .next (vword g s { masks := [f.sa.setWidth 3] } (fun _ => true) fun t x =>
    t.wholeRes 2 8 f.dst 0 ((x.m 0).setWidth 4096))

end Sys2Proof.Machine
end

