-- ==== Sys2Proof/Machine/VMem.lean ====
section
/-! DEFINITION. Vector loads and stores (R224, R225), mask loads and stores (R226), and the loads and stores the
quill words share with them. -/

namespace Sys2Proof.Machine

/-! ### Places of elements -/

/-- k[KI] or zero, plus OFF, modulo 2^64 (R163). -/
def State.vmBase (s : State) (f : VM) : Nat := baseOff (if f.bk then s.kpar .v f.ki else 0) f.off

/-- A placed element: its index, its address, and whether it is the high nibble there. -/
abbrev Place := Nat × Nat × Bool

/-- The places of the elements of a tile (R224); the address is taken modulo 2^64. -/
def placesOf (sh : BitVec 512) (w base : Nat) : List Place :=
  let cols := shCols sh
  let rs : Int := if shRowStride sh = 0 then (cols * w / 8 : Nat) else shRowStride sh
  let cs : Int := if shColStride sh = 0 then (w / 8 : Nat) else shColStride sh
  (List.range (tileE sh)).map (fun e =>
    let r : Int := (e / cols : Nat)
    let c := e % cols
    if w = 4 then (e, wrapInt 64 (base + r * rs + (c / 2 : Nat)), c % 2 == 1)
    else (e, wrapInt 64 (base + r * rs + (c : Int) * cs), false))

/-- Bytes an element of `w` bits touches. -/
def elemBytes (w : Nat) : Nat := if w = 4 then 1 else w / 8

/-- The tile of a VM word is legal (R225). -/
def vmOk (f : VM) (sh : BitVec 512) : Bool :=
  let w := widthOf f.ty
  tileOk sh [w] f.me && shEtype sh == f.ty && shLevel sh == f.lvl &&
    !(w == 4 && (shColStride sh != 0 || shCols sh % 2 == 1))

/-- The value of an element in the bytes at its place. -/
def elemIn (w : Nat) (hi : Bool) (bs : List Byte) : Nat :=
  let x := natOfBytes bs
  if w = 4 then (if hi then x / 16 % 16 else x % 16) else x

/-- The touched bytes of an element written at its place. -/
def elemTouch (w : Nat) (p : Place) (x : Nat) : List Touch :=
  if w = 4 then [(p.2.1, BitVec.ofNat 8 (if p.2.2 then 16 * x else x), if p.2.2 then 0xF0 else 0x0F)]
  else (bytesOfNat (w / 8) x).zipIdx.map (fun e => (p.2.1 + e.2, e.1, 0xFF))

/-- The register bits an element takes. -/
def elemBits (w : Nat) (xs : List (Nat × Nat)) : BitVec 4096 :=
  BitVec.ofNat 4096 (xs.foldl (fun a e => a + e.2 * 2 ^ (w * e.1)) 0)

/-! ### Checks shared by loads and stores -/

/-- The address of a byte out of range: near bytes at or beyond 2^20, or outside the valid die slots (R114, R225). -/
def State.outOf (s : State) (die : Bool) (n : Nat) (as : List Nat) : Option Nat :=
  as.find? (fun a => if die then !s.dieOk a n else !nearOk a n)

/-- The address of a byte of a slot a store may not touch at issue (R123, R278). -/
def State.busyAt (s : State) (die : Bool) (n : Nat) (as : List Nat) : Option Nat :=
  as.find? (fun a => (slotsOf a n).any (fun b => if die then s.core.diePendingOwn b else s.core.nearBusy b))

/-- Slots a list of byte runs touches. -/
def slotsAll (n : Nat) (as : List Nat) : List Nat := uniq (as.flatMap (fun a => slotsOf a n))

/-- Near lines a list of byte runs touches. -/
def linesAll (n : Nat) (as : List Nat) : List Nat := uniq (as.flatMap (fun a => linesOf a n))

/-- Presents the near beats of a V access in its issue cycle (R18). -/
def State.presentV (s : State) (n : Nat) (as : List Nat) : State := s.present 4 0 (linesAll n as)

/-- Writes near bytes bit by bit; words written whole lose their poison (R367). -/
def State.nearTouch (s : State) (l : List Touch) : State :=
  let m := l.foldl (fun (m : Store) t => m.setByte t.1 ((m.byte t.1 &&& ~~~t.2.2) ||| (t.2.1 &&& t.2.2))) s.core.near
  let full := (uniq (l.map (fun t => t.1 / 8))).filter (fun u =>
    (List.range 8).all (fun i => (overlay l (8 * u + i)).2 == 0xFF))
  (s.onCore (fun k => { k with near := { m with poison := m.poison.filter (fun w => !full.contains w) } })).didStore
    (uniq (l.map (fun t => t.1 / 4096)))

/-- An address as a trap's. -/
def addrW (a : Nat) : Word := BitVec.ofNat 64 a

/-! ### `vld` and `vst` -/

/-- The places of the elements a VM word moves. -/
def State.vmPlaces (s : State) (f : VM) (sh : BitVec 512) : List Place :=
  let m := s.seeM 11 f.msk
  (placesOf sh (widthOf f.ty) (s.vmBase f)).filter (fun p => picked f.me m p.1)

/-- The bits a `vld` writes. -/
def State.vldMask (s : State) (f : VM) (sh : BitVec 512) : BitVec 4096 :=
  tileMask (widthOf f.ty) (tileE sh) f.me (s.seeM 11 f.msk)

/-- The register classes a VM tile word reads. -/
def vmReads (f : VM) : List (Nat × Nat) := (2, f.sh.toNat) :: (if f.me then [(1, f.msk.toNat)] else [])

/-- A near `vld`: read at issue, landing within 8; one that picks no element is an access of no byte. -/
def vldNear (f : VM) (sh : BitVec 512) (ps : List Place) (t : State) : ERes :=
  let w := widthOf f.ty
  let n := elemBytes w
  let as := ps.map (fun p => p.2.1)
  match as.find? (fun a => t.core.near.poisoned a n) with
  | some a => .trap 0x19 0 (addrW a)
  | none =>
    let r := BitVec.ofNat 6 (t.phys (t.supOf .v) f.reg.toNat)
    let v := elemBits w (ps.map (fun p => (p.1, elemIn w p.2.2 (t.nearSee 0 p.2.1 n))))
    let t1 := (((t.presentV n as).didLoad (slotsAll n as)).didRead (vmReads f)).didWrite [(0, r.toNat)]
    let t2 := if ps.isEmpty then
        t1.issueAcc .v f.cls [] 0 (acqScope f.ordq f.scope) 0 none none (.load (unitPieces []) (.vreg r w [] 0))
      else t1
    .ok (t2.give .v 8 0 (.vec [{ reg := r, w := w, mask := t.vldMask f sh, val := v }]))

/-- A die `vld`: an access that lands at its arrival cycle; one that picks no element lands nothing. -/
def vldDie (f : VM) (sh : BitVec 512) (ps : List Place) (t : State) : ERes :=
  let w := widthOf f.ty
  let n := elemBytes w
  let ft := feet .die n (ps.map (fun p => p.2.1))
  let r := BitVec.ofNat 6 (t.phys (t.supOf .v) f.reg.toNat)
  let touched : List Touch := ps.flatMap (fun p => (List.range n).map (fun i => (p.2.1 + i, 0, 0xFF)))
  .ok (((t.didRead (vmReads f)).didWrite [(0, r.toNat)]).issueAcc .v f.cls ft (t.reachAll ft)
    (acqScope f.ordq f.scope) 0 (if ps.isEmpty then none else some f.arr.toNat) none
    (.load (unitPieces touched) (.vreg r w ps (t.vldMask f sh))))

/-- `vld` (R224, R225). -/
def execVld (g : BitVec 5) (f : VM) (s : State) : Host.Outcome State Fault Refusal :=
  .next (s.issueEng .v g fun t =>
    let w := widthOf f.ty
    let sh := t.seeSh 10 f.sh
    if t.badRegs (vmReads f) then .trap 0x19 0 0
    else if !vmOk f sh then .trap 0x03 0 0
    else
      let ps := t.vmPlaces f sh
      match ps.find? (fun p => p.2.1 % elemBytes w != 0) with
      | some p => .trap 0x0C 0 (addrW p.2.1)
      | none =>
        match t.outOf f.lvl (elemBytes w) (ps.map (fun p => p.2.1)) with
        | some a => .trap 0x0A 0 (addrW a)
        | none => if f.lvl then vldDie f sh ps t else vldNear f sh ps t)

/-- `vst` (R224, R225): near bytes are written at issue, in ascending element order; a die store is an access, and so is
a store that picks no element. -/
def execVst (g : BitVec 5) (f : VM) (s : State) : Host.Outcome State Fault Refusal :=
  .next (s.issueEng .v g fun t =>
    let w := widthOf f.ty
    let n := elemBytes w
    let sh := t.seeSh 10 f.sh
    let r := t.phys (t.supOf .v) f.reg.toNat
    if t.badRegs ((0, r) :: vmReads f) then .trap 0x19 0 0
    else if !vmOk f sh then .trap 0x03 0 0
    else
      let ps := t.vmPlaces f sh
      let as := ps.map (fun p => p.2.1)
      match ps.find? (fun p => p.2.1 % n != 0) with
      | some p => .trap 0x0C 0 (addrW p.2.1)
      | none =>
        match t.outOf f.lvl n as with
        | some a => .trap 0x0A 0 (addrW a)
        | none =>
          match t.busyAt f.lvl n as with
          | some a => .trap 0x0B 0 (addrW a)
          | none =>
            let v := t.seeV 0 r
            let touched := ps.flatMap (fun p => elemTouch w p (elemAt w p.1 v))
            let t1 := t.didRead ((0, r) :: vmReads f)
            if f.lvl then
              let ft := feet .die n as
              .ok (t1.noReplay.issueAcc .v f.cls ft (t.reachAll ft) 0 (relScope f.ordq f.scope) none
                (some (stBound (t.reachAll ft))) (.store (unitPieces touched)))
            else if ps.isEmpty then
              .ok (t1.issueAcc .v f.cls [] 0 0 (relScope f.ordq f.scope) none none (.store (unitPieces [])))
            else .ok ((t1.presentV n as).nearTouch touched))

/-! ### Mask loads and stores (R226) -/

/-- `mld`. -/
def execMld (g : BitVec 5) (f : VM) (s : State) : Host.Outcome State Fault Refusal :=
  .next (s.issueEng .v g fun t =>
    let a := t.vmBase f
    if a % 32 ≠ 0 then .trap 0x0C 0 (addrW a)
    else if !nearOk a 32 then .trap 0x0A 0 (addrW a)
    else if t.core.near.poisoned a 32 then .trap 0x19 0 (addrW a)
    else
      let i : BitVec 3 := f.reg.setWidth 3
      .ok ((((t.presentV 32 [a]).didLoad (slotsOf a 32)).didWrite [(1, i.toNat)]).give .v 4 0
        (.mask i (BitVec.allOnes 256) (BitVec.ofNat 256 (natOfBytes (t.nearSee 0 a 32))))))

/-- `mst`. -/
def execMst (g : BitVec 5) (f : VM) (s : State) : Host.Outcome State Fault Refusal :=
  .next (s.issueEng .v g fun t =>
    let a := t.vmBase f
    if t.badRegs [(1, (f.reg.setWidth 3 : BitVec 3).toNat)] then .trap 0x19 0 0
    else if a % 32 ≠ 0 then .trap 0x0C 0 (addrW a)
    else if !nearOk a 32 then .trap 0x0A 0 (addrW a)
    else
      match t.busyAt false 32 [a] with
      | some b => .trap 0x0B 0 (addrW b)
      | none =>
        let i : BitVec 3 := f.reg.setWidth 3
        .ok (((t.presentV 32 [a]).didRead [(1, i.toNat)]).nearPut a (bytesOfNat 32 (t.seeM 4 i).toNat)))

end Sys2Proof.Machine
end

