-- ==== Sys2Proof/Machine/VConv.lean ====
section
/-! DEFINITION. Conversions (R218) and the MX quantiser and dequantiser words (R219, R220). -/

namespace Sys2Proof.Machine

/-- The value of an element of any type of R218 but an integer one. -/
def cvtIn (t : BitVec 4) (x : Nat) : Fp :=
  if floatTy t then readFp (fpOf t) x
  else if narrowTy t then readNarrow (nfmtOf t) x
  else
    let v := sgn (widthOf t) x
    .fin (decide (v < 0)) v.natAbs 0

/-- One conversion (R218, R86, R89). -/
def cvtElem (d t : BitVec 4) (rm : BitVec 2) (x : Nat) : Nat × BitVec 6 :=
  let dw := widthOf d
  if floatTy d then putFp (fpOf d) (rmode rm) (cvtIn t x)
  else if narrowTy d then cvtNarrow (nfmtOf d) (cvtIn t x)
  else if floatTy t || narrowTy t then fpToInt dw (rmode rm) (cvtIn t x)
  else
    let v := sgn (widthOf t) x
    (wrapInt dw (satInt dw v), flagIf (satInt dw v != v) fOF)

/-- `vcvt`: an odd tile of 4-bit elements raises SHAPE. -/
def execVcvt (g : BitVec 5) (f : VA) (s : State) : Host.Outcome State Fault Refusal :=
  let st : BitVec 4 := f.imm.setWidth 4
  let dw := widthOf f.ty
  let sw := widthOf st
  .next (vword g s { srcs := [(f.sa, dw)], sh := some f.sh, wm := wmOf f }
    (fun sh => tileOk sh [sw, dw] f.me && !((sw == 4 || dw == 4) && tileE sh % 2 == 1)) fun t x =>
      t.tileRes 6 dw f.dst f.me x.wm ((elemsOf sw (tileE x.sh) (x.v 0)).map (cvtElem f.ty st f.rm)))

/-- A block format code of BLOCK (R219). -/
def blockOk (b : BitVec 4) : Bool := b == 6 || b == 7 || b == 8 || b == 0xF

/-- Bits of an element code of a block format. -/
def blockW (b : BitVec 4) : Nat := if b == 8 then 4 else 8

/-- A tile of whole blocks whose elements have `w` bits (R219, R220). -/
def mxOk (w : Nat) (sh : BitVec 512) : Bool :=
  tileOk sh [w] false && tileE sh % 32 == 0 && blockOk (shBlock sh)

/-- Splits a list into runs of 32. -/
def runs32 {α : Type} : Nat → List α → List (List α)
  | 0, _ => []
  | n + 1, l => l.take 32 :: runs32 n (l.drop 32)

/-- `vmxq`: codes into v[D], scales into v[D + 1], in one event. -/
def execVmxq (g : BitVec 5) (f : VA) (s : State) : Host.Outcome State Fault Refusal :=
  let w := widthOf f.ty
  .next (vword g s { srcs := [(f.sa, w)], sh := some f.sh } (mxOk w) fun t x =>
    let n := tileE x.sh
    let b := shBlock x.sh
    let qs := (runs32 (n / 32) (elemsOf w n (x.v 0))).map (fun l => quantise b (shEmax x.sh) (shInf x.sh) (l.map (fpIn f.ty)))
    let put := fun (c : Nat) (v : BitVec 4096) =>
      ({ reg := BitVec.ofNat 6 (t.phys (t.supOf .v) c), w := 8, mask := BitVec.allOnes 4096, val := v } : VWrite)
    { bound := 12,
      flags := qs.foldl (fun a q => a ||| q.2.2) 0,
      land := .vec [put f.dst.toNat (vecOf (blockW b) (qs.flatMap Prod.fst)),
                    put (f.dst.toNat + 1) (vecOf 8 (qs.map (fun q => q.2.1)))] })

/-- `vmxd`: codes and scales as `vmxq` lays them. -/
def execVmxd (g : BitVec 5) (f : VA) (s : State) : Host.Outcome State Fault Refusal :=
  let w := widthOf f.ty
  .next (vword g s { srcs := [(f.sa, w), (f.sb, w)], sh := some f.sh } (mxOk w) fun t x =>
    let b := shBlock x.sh
    let cw := blockW b
    t.tileRes 8 w f.dst false 0 ((elemsOf cw (tileE x.sh) (x.v 0)).zipIdx.map (fun c =>
      dequant b (fpOf f.ty) (rmode f.rm) c.1 (elemAt 8 (c.2 / 32) (x.v 1)))))

end Sys2Proof.Machine
end

