-- ==== Sys2Proof/Machine/VReduce.lean ====
section
/-! DEFINITION. Reductions (R110, R111, R221) and scans (R222). -/

namespace Sys2Proof.Machine

/-- The operations of reductions and scans. -/
inductive ROp where
  | add | min | max | and | or | xor
  deriving DecidableEq, Repr

/-- One operation on two elements. -/
def ROp.apply (o : ROp) (t : BitVec 4) (rm : BitVec 2) (x y : Nat) : Nat × BitVec 6 :=
  match o with
  | .add =>
    if floatTy t then addFp (fpOf t) (rmode rm) (fpIn t x) (fpIn t y) else (lowBits (widthOf t) (x + y), 0)
  | .min => (minMax t false x y, 0)
  | .max => (minMax t true x y, 0)
  | .and => (x &&& y, 0)
  | .or => (x ||| y, 0)
  | .xor => (x ^^^ y, 0)

/-- The identity an excluded element takes (R110, R221). -/
def ROp.ident (o : ROp) (t : BitVec 4) : Nat :=
  let w := widthOf t
  match o with
  | .add => if floatTy t then (fpOf t).signBit true else 0
  | .min => if floatTy t then (fpOf t).infBits else 2 ^ (w - 1) - 1
  | .max => if floatTy t then (fpOf t).signBit true + (fpOf t).infBits else 2 ^ (w - 1)
  | .and => 2 ^ w - 1
  | .or => 0
  | .xor => 0

/-- One level of the pairwise tree of R110. -/
def treeStep (op : Nat → Nat → Nat × BitVec 6) : List Nat → List Nat × BitVec 6
  | [] => ([], 0)
  | [x] => ([x], 0)
  | x :: y :: r =>
    let v := op x y
    let t := treeStep op r
    (v.1 :: t.1, v.2 ||| t.2)

/-- The tree of R110 over at most 2^n elements. A single element is the result as it stands, a NaN's bits included and
with no flag: R110 applies no operation to it, against R84's canonical NaN (DESIGN CHOICE, log entry 68). -/
def treeRun (op : Nat → Nat → Nat × BitVec 6) : Nat → List Nat → Nat × BitVec 6
  | 0, l => (l.headD 0, 0)
  | n + 1, l =>
    match l with
    | [] => (0, 0)
    | [x] => (x, 0)
    | l =>
      let t := treeStep op l
      let r := treeRun op n t.1
      (r.1, t.2 ||| r.2)

/-- The runs of element indices an axis selects (R221). -/
def axisGroups (ax : BitVec 2) (sh : BitVec 512) : List (List Nat) :=
  let rows := shRows sh
  let cols := shCols sh
  if ax == 0 then (List.range rows).map (fun r => (List.range cols).map (fun c => r * cols + c))
  else if ax == 1 then (List.range cols).map (fun c => (List.range rows).map (fun r => r * cols + c))
  else [List.range (rows * cols)]

/-- The elements of a tile with the identity in place of excluded ones. -/
def kept (o : ROp) (f : VA) (x : VIn) : List Nat :=
  (elemsOf (widthOf f.ty) (tileE x.sh) (x.v 0)).zipIdx.map (fun e =>
    if picked f.me x.wm e.2 then e.1 else o.ident f.ty)

/-- A reduction: every result element is written, the mask excludes operands. -/
def reduceWord (o : ROp) (g : BitVec 5) (f : VA) (s : State) : Host.Outcome State Fault Refusal :=
  let w := widthOf f.ty
  .next (vword g s { srcs := [(f.sa, w)], sh := some f.sh, wm := wmOf f } (fun sh => tileOk sh [w] f.me) fun t x =>
    let xs := kept o f x
    t.tileRes 12 w f.dst false 0 ((axisGroups f.ax x.sh).map (fun is =>
      treeRun (o.apply f.ty f.rm) 12 (is.map (fun i => xs[i]?.getD 0)))))

def execVredadd (g : BitVec 5) (f : VA) (s : State) := reduceWord .add g f s
def execVredmin (g : BitVec 5) (f : VA) (s : State) := reduceWord .min g f s
def execVredmax (g : BitVec 5) (f : VA) (s : State) := reduceWord .max g f s
def execVredand (g : BitVec 5) (f : VA) (s : State) := reduceWord .and g f s
def execVredor (g : BitVec 5) (f : VA) (s : State) := reduceWord .or g f s
def execVredxor (g : BitVec 5) (f : VA) (s : State) := reduceWord .xor g f s

/-- A sequential scan from an accumulator; each result stands with the flags of its own step. -/
def scanRun (op : Nat → Nat → Nat × BitVec 6) (excl : Bool) : Nat → List Nat → List (Nat × BitVec 6)
  | _, [] => []
  | acc, x :: r =>
    let v := op acc x
    (if excl then acc else v.1, v.2) :: scanRun op excl v.1 r

/-- A scan: an excluded element contributes the identity and keeps its own old result. -/
def scanWord (o : ROp) (g : BitVec 5) (f : VA) (s : State) : Host.Outcome State Fault Refusal :=
  let w := widthOf f.ty
  .next (vword g s { srcs := [(f.sa, w)], sh := some f.sh, wm := wmOf f } (fun sh => tileOk sh [w] f.me) fun t x =>
    let xs := kept o f x
    let ys := (axisGroups f.ax x.sh).map (fun is =>
      scanRun (o.apply f.ty f.rm) (f.imm.getLsbD 0) (o.ident f.ty) (is.map (fun i => xs[i]?.getD 0)))
    let rows := shRows x.sh
    let cols := shCols x.sh
    let at_ := fun e =>
      let p := if f.ax == 0 then (e / cols, e % cols) else if f.ax == 1 then (e % cols, e / cols) else (0, e)
      ((ys[p.1]?.getD [])[p.2]?.getD (0, 0))
    t.tileRes 16 w f.dst f.me x.wm ((List.range (rows * cols)).map at_))

def execVscanadd (g : BitVec 5) (f : VA) (s : State) := scanWord .add g f s
def execVscanmin (g : BitVec 5) (f : VA) (s : State) := scanWord .min g f s
def execVscanmax (g : BitVec 5) (f : VA) (s : State) := scanWord .max g f s
def execVscanxor (g : BitVec 5) (f : VA) (s : State) := scanWord .xor g f s

end Sys2Proof.Machine
end

