-- ==== Sys2Proof/Machine/VPerm.lean ====
section
/-! DEFINITION. Permutes (R223). -/

namespace Sys2Proof.Machine

/-- Element `i` of a list, 0 beyond it. -/
def pick (l : List Nat) (i : Nat) : Nat := l[i]?.getD 0

/-- A permute of two sources: `op` gives the result elements from the shape, the write mask and the sources. -/
def permWord (g : BitVec 5) (f : VA) (s : State) (srcs : List (BitVec 7 × Nat)) (me : Bool)
    (ok : BitVec 512 → Bool) (op : BitVec 512 → BitVec 256 → List Nat → BitVec 4096 → List Nat) :
    Host.Outcome State Fault Refusal :=
  let w := widthOf f.ty
  .next (vword g s { srcs := srcs, sh := some f.sh, wm := wmOf f } ok fun t x =>
    t.tileRes 8 w f.dst me x.wm ((op x.sh x.wm (elemsOf w (tileE x.sh) (x.v 0)) (x.v 1)).map bits))

/-- `vtrn`: a COLS × ROWS tile. -/
def execVtrn (g : BitVec 5) (f : VA) (s : State) : Host.Outcome State Fault Refusal :=
  let w := widthOf f.ty
  permWord g f s [(f.sa, w)] false (fun sh => tileOk sh [w] false) fun sh _ a _ =>
    (List.range (tileE sh)).map (fun e => pick a (e % shRows sh * shCols sh + e / shRows sh))

/-- `vperm`: indices in 16-bit lanes of SB. -/
def execVperm (g : BitVec 5) (f : VA) (s : State) : Host.Outcome State Fault Refusal :=
  let w := widthOf f.ty
  permWord g f s [(f.sa, w), (f.sb, w)] f.me (fun sh => tileOk sh [w] true) fun sh _ a b =>
    (elemsOf 16 (tileE sh) b).map (pick a)

/-- `vshuf`, by its immediate. -/
def shuffle (imm e : Nat) (a b : List Nat) : List Nat :=
  let h := e / 2
  if imm = 0 then (List.range e).map (fun i => pick (if i % 2 = 0 then a else b) (i / 2))
  else if imm = 1 then (List.range e).map (fun i => pick (if i % 2 = 0 then a else b) (i / 2 + h))
  else if imm = 2 then (List.range e).map (fun i => pick (a ++ b) (2 * i))
  else if imm = 3 then (List.range e).map (fun i => pick (a ++ b) (2 * i + 1))
  else a.reverse

def execVshuf (g : BitVec 5) (f : VA) (s : State) : Host.Outcome State Fault Refusal :=
  let w := widthOf f.ty
  permWord g f s (if f.imm == 4 then [(f.sa, w)] else [(f.sa, w), (f.sb, w)]) f.me
    (fun sh => tileOk sh [w] f.me && (f.imm == 4 || tileE sh % 2 == 0)) fun sh _ a b =>
      shuffle f.imm.toNat (tileE sh) a (elemsOf w (tileE sh) b)

/-- `vslide`: an amount above E raises ILLOP, found once the tile is known to be legal. -/
def execVslide (g : BitVec 5) (f : VA) (s : State) : Host.Outcome State Fault Refusal :=
  let w := widthOf f.ty
  let sh0 := s.seeSh 10 f.sh
  if !s.badRegs [(2, f.sh.toNat)] && tileOk sh0 [w] f.me && decide (tileE sh0 < f.imm.toNat) then .next (s.issueEng .v g fun _ => .trap 0x01 0 0)
  else
    permWord g f s [(f.sa, w), (f.sb, w)] f.me (fun sh => tileOk sh [w] f.me) fun sh _ a b =>
      ((a ++ elemsOf w (tileE sh) b).drop f.imm.toNat).take (tileE sh)

/-- `vcompress`: the mask is an operand. -/
def execVcompress (g : BitVec 5) (f : VA) (s : State) : Host.Outcome State Fault Refusal :=
  let w := widthOf f.ty
  permWord g f s [(f.sa, w)] false (fun sh => tileOk sh [w] true) fun sh m a _ =>
    let l := (a.zipIdx.filter (fun x => m.getLsbD x.2)).map Prod.fst
    l ++ List.replicate (tileE sh - l.length) 0

/-- Spreads a list over the set bits of a mask from bit `e` on. -/
def expand (m : BitVec 256) : Nat → Nat → List Nat → List Nat
  | 0, _, _ => []
  | n + 1, e, l => if m.getLsbD e then l.headD 0 :: expand m n (e + 1) (l.drop 1) else 0 :: expand m n (e + 1) l

/-- `vexpand`: the mask is an operand. -/
def execVexpand (g : BitVec 5) (f : VA) (s : State) : Host.Outcome State Fault Refusal :=
  let w := widthOf f.ty
  permWord g f s [(f.sa, w)] false (fun sh => tileOk sh [w] true) fun sh m a _ => expand m (tileE sh) 0 a

end Sys2Proof.Machine
end

