-- ==== Sys2Proof/Machine/VLog.lean ====
section
/-! DEFINITION. Vector flags (R227), the log path and composite functions (R228-R231), the generator (R232) and
the rotating window (R233). -/

namespace Sys2Proof.Machine

/-- `vfclr` (R227). -/
def execVfclr (g : BitVec 5) (f : VA) (s : State) : Host.Outcome State Fault Refusal :=
  .next (vword g s {} (fun _ => true) fun _ _ => { bound := 2, flags := 0, land := .vflgClear (f.imm &&& 0x3F) })

/-- VFLG as a read sees it: a flag of a result in flight is seen or not (R85). -/
def State.seeFlags (s : State) : BitVec 32 :=
  s.core.x.flight.zipIdx.foldl (fun v e =>
    let on := s.thin (slotBase 0 + 64 * e.2) 1 e.1.flags
    match e.1.land with
    | .vflgClear b => (v &&& ~~~(s.thin (slotBase 1 + 64 * e.2) 1 b)) ||| on
    | _ => v ||| on) s.core.vec.flg

/-- `vfrd` (R227). -/
def execVfrd (g : BitVec 5) (f : VA) (s : State) : Host.Outcome State Fault Refusal :=
  .next (vword g s {} (fun _ => true) fun t _ => t.wholeRes 2 32 f.dst 0 (t.seeFlags.setWidth 4096))

/-! ### The log path -/

/-- `vtol` (R228). -/
def execVtol (g : BitVec 5) (f : VA) (s : State) : Host.Outcome State Fault Refusal :=
  vmap1 g f s 8 (widthOf f.ty) 32 fun a => let r := tol (fpIn f.ty a); (r.1.code, r.2)

/-- `vfroml` (R228). -/
def execVfroml (g : BitVec 5) (f : VA) (s : State) : Host.Outcome State Fault Refusal :=
  let w := widthOf f.ty
  .next (vword g s { srcs := [(f.sa, w)], sh := some f.sh, wm := wmOf f } (fun sh => tileOk sh [32, w] f.me) fun t x =>
    t.tileRes 8 w f.dst f.me x.wm
      ((elemsOf 32 (tileE x.sh) (x.v 0)).map (fun a => alog (fpOf f.ty) (rmode f.rm) (readL32 a))))

/-- An L32 result as an element. -/
def l32Out (r : L32 × BitVec 6) : Nat × BitVec 6 := (r.1.code, r.2)

def execLmul (g : BitVec 5) (f : VA) (s : State) : Host.Outcome State Fault Refusal :=
  vmap2 g f s 4 32 fun a b => l32Out (lmulStep (readL32 a) (readL32 b))

def execLdiv (g : BitVec 5) (f : VA) (s : State) : Host.Outcome State Fault Refusal :=
  vmap2 g f s 4 32 fun a b => l32Out (ldivStep (readL32 a) (readL32 b))

def execLroot (g : BitVec 5) (f : VA) (s : State) : Host.Outcome State Fault Refusal :=
  vmap1 g f s 4 32 32 fun a => l32Out (lrootStep (readL32 a) f.imm.toNat)

def execLpow (g : BitVec 5) (f : VA) (s : State) : Host.Outcome State Fault Refusal :=
  vmap1 g f s 4 32 32 fun a => l32Out (lpowStep (readL32 a) (sgn 16 f.imm.toNat))

/-- A composite function (R230). -/
def compWord (c : Comp) (g : BitVec 5) (f : VA) (s : State) : Host.Outcome State Fault Refusal :=
  vmap1 g f s 24 (widthOf f.ty) (widthOf f.ty) (composite (fpOf f.ty) (rmode f.rm) c)

def execFrsqrt (g : BitVec 5) (f : VA) (s : State) := compWord .rsqrt g f s
def execFrcp (g : BitVec 5) (f : VA) (s : State) := compWord .rcp g f s
def execFsqrt (g : BitVec 5) (f : VA) (s : State) := compWord .sqrt g f s
def execFexp2 (g : BitVec 5) (f : VA) (s : State) := compWord .exp2 g f s
def execFlog2 (g : BitVec 5) (f : VA) (s : State) := compWord .log2 g f s
def execFsigm (g : BitVec 5) (f : VA) (s : State) := compWord .sigm g f s
def execFtanh (g : BitVec 5) (f : VA) (s : State) := compWord .tanh g f s
def execFsilu (g : BitVec 5) (f : VA) (s : State) := compWord .silu g f s

/-! ### The generator (R232) -/

/-- One round of Philox4x32. -/
def philoxRound (k0 k1 c0 c1 c2 c3 : Nat) : Nat × Nat × Nat × Nat :=
  let p0 := 0xD2511F53 * c0
  let p1 := 0xCD9E8D57 * c2
  ((p1 / 2 ^ 32) ^^^ c1 ^^^ k0, p1 % 2 ^ 32, (p0 / 2 ^ 32) ^^^ c3 ^^^ k1, p0 % 2 ^ 32)

/-- `n` rounds, the keys moving on after each. -/
def philoxRun : Nat → Nat → Nat → Nat × Nat × Nat × Nat → Nat × Nat × Nat × Nat
  | 0, _, _, c => c
  | n + 1, k0, k1, c =>
    philoxRun n ((k0 + 0x9E3779B9) % 2 ^ 32) ((k1 + 0xBB67AE85) % 2 ^ 32)
      (philoxRound k0 k1 c.1 c.2.1 c.2.2.1 c.2.2.2)

/-- The 4,096 raw bits of a seed, a counter word and a section tile. -/
def philoxRaw (seed ctr tile : Nat) : BitVec 4096 :=
  BitVec.ofNat 4096 (packNat 32 ((List.range 32).flatMap (fun g =>
    let c := philoxRun 10 (seed % 2 ^ 32) (seed / 2 ^ 32 % 2 ^ 32) (g, ctr, tile % 2 ^ 32, tile / 2 ^ 32 % 2 ^ 32)
    [c.1, c.2.1, c.2.2.1, c.2.2.2])))

/-- An element of the generator from the raw bits at its place. -/
def rngElem (t : BitVec 4) (raw : Nat) : Nat × BitVec 6 :=
  if t == 3 then putFp binary32 .rne (.fin false (raw / 256) (-24))
  else if t == 4 then putFp binary16 .rne (.fin false (raw / 32) (-11))
  else if t == 5 then putFp bfloat16 .rne (.fin false (raw / 256) (-8))
  else (raw, 0)

/-- `vrng`. -/
def execVrng (g : BitVec 5) (f : VA) (s : State) : Host.Outcome State Fault Refusal :=
  let w := widthOf f.ty
  .next (vword g s { srcs := [], sh := some f.sh, wm := wmOf f } (fun sh => tileOk sh [w] f.me) fun t x =>
    let raw := philoxRaw t.core.share.seed.toNat f.imm.toNat (t.sect .v).entry.tile.toNat
    t.tileRes 10 w f.dst f.me x.wm ((elemsOf w (tileE x.sh) raw).map (rngElem f.ty)))

/-- `vrotw` (R233): in force from the next cycle. -/
def execVrotw (g : BitVec 5) (f : VA) (s : State) : Host.Outcome State Fault Refusal :=
  .next (s.issueEng .v g fun t =>
    .ok (t.onCore (fun k => { k with vec := { k.vec with
      rb := k.vec.rb + 4 * (f.imm.setWidth 3 : BitVec 3).setWidth 5 } })))

end Sys2Proof.Machine
end

