-- ==== Sys2Proof/Machine/QuillOps.lean ====
section
/-! DEFINITION. Quill words (R240-R253). -/

namespace Sys2Proof.Machine

/-- The tile of a quill word: 128 elements of `w` bits (R241). -/
def quillTile (w : Nat) (sh : BitVec 512) : Bool := tileOk sh [w] false && tileE sh == 128

/-- The quill a field names. -/
def qIdx (c : BitVec 7) : BitVec 4 := c.setWidth 4

/-- A result that is a quill pair, both halves in one event (R237). -/
def quillRes (bound : Nat) (d : BitVec 7) (r : Quill × BitVec 6) : VRes :=
  { bound := bound, flags := r.2, land := .quill (qIdx d) r.1 }

/-- A quill word over quills alone. -/
def quillWord (g : BitVec 5) (f : VA) (s : State) (bound : Nat) (qs : List (BitVec 4)) (op : VIn → Quill × BitVec 6) :
    Host.Outcome State Fault Refusal :=
  .next (vword g s { quills := qs } (fun _ => true) fun _ x => quillRes bound f.dst (op x))

/-- `qfrom` (R242). -/
def execQfrom (g : BitVec 5) (f : VA) (s : State) : Host.Outcome State Fault Refusal :=
  let w := widthOf f.ty
  .next (vword g s { srcs := [(f.sa, w)], sh := some f.sh } (quillTile w) fun _ x =>
    quillRes 20 f.dst (canonFp ((elemsOf w 128 (x.v 0)).map (fpIn f.ty))))

/-- `qto` (R243). -/
def execQto (g : BitVec 5) (f : VA) (s : State) : Host.Outcome State Fault Refusal :=
  let w := widthOf f.ty
  .next (vword g s { quills := [qIdx f.sa], sh := some f.sh } (quillTile w) fun t x =>
    t.tileRes 8 w f.dst false 0 ((x.q 0).ds.map (qtoElem (fpOf f.ty) (rmode f.rm) (x.q 0))))

/-- `qcos` (R244). -/
def execQcos (g : BitVec 5) (f : VA) (s : State) : Host.Outcome State Fault Refusal :=
  .next (vword g s { quills := [qIdx f.sa, qIdx f.sb] } (fun _ => true) fun t x =>
    t.tileRes 16 32 f.dst false 0 [qcosVal (rmode f.rm) (x.q 0) (x.q 1)])

/-- `qdot` (R245). -/
def execQdot (g : BitVec 5) (f : VA) (s : State) : Host.Outcome State Fault Refusal :=
  .next (vword g s { quills := [qIdx f.sa, qIdx f.sb] } (fun _ => true) fun t x =>
    t.tileRes 20 32 f.dst false 0 [qdotVal (rmode f.rm) (x.q 0) (x.q 1)])

/-- `qscl` (R246): δ from the immediate, or from element 0 of a vector source. -/
def execQscl (g : BitVec 5) (f : VA) (s : State) : Host.Outcome State Fault Refusal :=
  .next (vword g s { srcs := if f.imm.msb then [(f.sb, 32)] else [], quills := [qIdx f.sa] } (fun _ => true) fun _ x =>
    quillRes 2 f.dst (qsclVal (x.q 0) (sgn 24 (if f.imm.msb then elemAt 32 0 (x.v 0) else f.imm.toNat))))

/-- `qadd` (R247). -/
def execQadd (g : BitVec 5) (f : VA) (s : State) : Host.Outcome State Fault Refusal :=
  quillWord g f s 24 [qIdx f.sa, qIdx f.sb] fun x => qaddVal (x.q 0) (x.q 1)

/-- `qsub` (R247). -/
def execQsub (g : BitVec 5) (f : VA) (s : State) : Host.Outcome State Fault Refusal :=
  quillWord g f s 24 [qIdx f.sa, qIdx f.sb] fun x => qsubVal (x.q 0) (x.q 1)

/-- `qlerp` (R247). -/
def execQlerp (g : BitVec 5) (f : VA) (s : State) : Host.Outcome State Fault Refusal :=
  quillWord g f s 24 [qIdx f.sa, qIdx f.sb] fun x => qlerpVal f.imm.toNat (x.q 0) (x.q 1)

/-- `qneg` (R246). -/
def execQneg (g : BitVec 5) (f : VA) (s : State) : Host.Outcome State Fault Refusal :=
  quillWord g f s 2 [qIdx f.sa] fun x => (qnegVal (x.q 0), 0)

/-- `qmov` (R246). -/
def execQmov (g : BitVec 5) (f : VA) (s : State) : Host.Outcome State Fault Refusal :=
  quillWord g f s 2 [qIdx f.sa] fun x => (x.q 0, 0)

/-- `qrms` (R248). -/
def execQrms (g : BitVec 5) (f : VA) (s : State) : Host.Outcome State Fault Refusal :=
  let w := widthOf f.ty
  .next (vword g s { srcs := [(f.sb, w)], quills := [qIdx f.sa], sh := some f.sh } (quillTile w) fun t x =>
    t.tileRes 12 w f.dst false 0 (((x.q 0).ds.zip (elemsOf w 128 (x.v 0))).map (fun p =>
      qrmsElem (fpOf f.ty) (rmode f.rm) (x.q 0) p.1 p.2)))

/-- `qq8` (R249): codes into v[D], scales into v[D + 1], in one event. -/
def execQq8 (g : BitVec 5) (f : VA) (s : State) : Host.Outcome State Fault Refusal :=
  .next (vword g s { quills := [qIdx f.sa] } (fun _ => true) fun t x =>
    let r := qq8Val (x.q 0)
    let put := fun (c : Nat) (l : List Nat) =>
      ({ reg := BitVec.ofNat 6 (t.phys (t.supOf .v) c), w := 8, mask := BitVec.allOnes 4096, val := vecOf 8 l } : VWrite)
    { bound := 10, flags := r.2.2, land := .vec [put f.dst.toNat r.1, put (f.dst.toNat + 1) r.2.1] })

/-- `qnget` (R250): the norm sign-extended in element 0. -/
def execQnget (g : BitVec 5) (f : VA) (s : State) : Host.Outcome State Fault Refusal :=
  .next (vword g s { quills := [qIdx f.sa] } (fun _ => true) fun t x =>
    t.tileRes 2 32 f.dst false 0 [(wrapInt 32 (x.q 0).n, 0)])

/-- `qnset` (R250): directions of q[D] are read in the same cycle. -/
def execQnset (g : BitVec 5) (f : VA) (s : State) : Host.Outcome State Fault Refusal :=
  .next (vword g s { srcs := [(f.sa, 32)], quills := [qIdx f.dst] } (fun _ => true) fun _ x =>
    quillRes 2 f.dst (qnsetVal (x.q 0) (BitVec.ofNat 24 (elemAt 32 0 (x.v 0)))))

/-- Membership of a class of `qcls` (R251). -/
def inClass (q : Quill) (c : Nat) : Bool :=
  if c = 0 then q.cls == .zero
  else if c = 1 then q.cls == .invalid
  else if c = 2 then q.cls == .finite
  else q.cls != .finite

/-- `qcls` (R251): one bit of a mask. -/
def execQcls (g : BitVec 5) (f : VA) (s : State) : Host.Outcome State Fault Refusal :=
  .next (vword g s { quills := [qIdx f.sa] } (fun _ => true) fun _ x =>
    let b : BitVec 256 := 1 <<< (f.imm.toNat % 256)
    { bound := 2, flags := 0,
      land := .mask (f.dst.setWidth 3) b (if inClass (x.q 0) (f.imm.toNat / 256 % 4) then b else 0) })

/-! ### Images (R240, R252) -/

/-- The image of a pair. -/
def quillImage (q : Quill) : List Byte :=
  bytesOfNat 256 q.dir.toNat ++ bytesOfNat 4 (q.norm.signExtend 32).toNat ++ List.replicate 4 0

/-- The touched bytes of an image. -/
def imageTouch (a : Nat) (bs : List Byte) : List Touch := bs.zipIdx.map (fun e => (a + e.2, e.1, 0xFF))

/-- `qld` (R252, R253). -/
def execQld (g : BitVec 5) (f : VM) (s : State) : Host.Outcome State Fault Refusal :=
  .next (s.issueEng .v g fun t =>
    let a := t.vmBase f
    let i := qIdx f.reg
    if a % 8 ≠ 0 then .trap 0x0C 0 (addrW a)
    else
      match t.outOf f.lvl 264 [a] with
      | some b => .trap 0x0A 0 (addrW b)
      | none =>
        if f.lvl then
          let ft := feet .die 264 [a]
          .ok ((t.didWrite [(3, i.toNat)]).issueAcc .v f.cls ft (t.reachAll ft) (acqScope f.ordq f.scope) 0
            (some f.arr.toNat) none (.load (unitPieces (imageTouch a (List.replicate 264 0))) (.quill i)))
        else if t.core.near.poisoned a 264 then .trap 0x19 0 (addrW a)
        else
          let r := quillOfImage (t.nearSee 0 a 264)
          .ok ((((t.presentV 264 [a]).didLoad (slotsOf a 264)).didWrite [(3, i.toNat)]).give .v 8 (r.2.setWidth 32)
            (.quill i r.1)))

/-- `qst` (R252, R253). -/
def execQst (g : BitVec 5) (f : VM) (s : State) : Host.Outcome State Fault Refusal :=
  .next (s.issueEng .v g fun t =>
    let a := t.vmBase f
    let i := qIdx f.reg
    if t.badRegs [(3, i.toNat)] then .trap 0x19 0 0
    else if a % 8 ≠ 0 then .trap 0x0C 0 (addrW a)
    else
      match t.outOf f.lvl 264 [a] with
      | some b => .trap 0x0A 0 (addrW b)
      | none =>
        match t.busyAt f.lvl 264 [a] with
        | some b => .trap 0x0B 0 (addrW b)
        | none =>
          let bs := quillImage (t.seeQ 7 i)
          let t1 := t.didRead [(3, i.toNat)]
          if f.lvl then
            let ft := feet .die 264 [a]
            .ok (t1.noReplay.issueAcc .v f.cls ft (t.reachAll ft) 0 (relScope f.ordq f.scope) none
              (some (stBound (t.reachAll ft))) (.store (unitPieces (imageTouch a bs))))
          else .ok ((t1.presentV 264 [a]).nearPut a bs))

end Sys2Proof.Machine
end

