-- ==== Sys2Proof/Machine/Matrix.lean ====
section
/-! DEFINITION. Matrix engine commands (R254-R270) and the beats their weights and activations take cycle by
cycle. -/

namespace Sys2Proof.Machine

/-! ### Formats -/

/-- Planes of a weight format (R258); 0 for a code that is none. -/
def planesOf (w : BitVec 4) : Nat :=
  if w == 0xB then 2 else if w == 0xC then 2 else if w == 0xD then 3 else if w == 0x9 then 4
  else if w == 0xE then 6 else if w == 0 then 8 else 0

/-- Weight passes (R258). -/
def wPasses (w : BitVec 4) : Nat := if w == 0xB then 1 else planesOf w

/-- Element bytes and activation passes of an activation format (R260). -/
def actBytes (a : BitVec 4) : Nat := if a == 1 || a == 5 then 2 else 1
def aPasses (a : BitVec 4) : Nat := if a == 0 || a == 0xF then 1 else 2

/-- Element bytes of an output format (R266). -/
def outBytes (o : BitVec 4) : Nat := if o == 3 then 4 else if o == 4 || o == 5 then 2 else 1

/-- An integer of a pair indexed by tile or latch. -/
def two (v : Vector Nat 2) (b : Bool) : Nat := v[b.toNat]?.getD 0

/-- Notes what a word of a replay window does to tiles and latches (R314-R316). -/
def State.window (s : State) (f : Window → Window) : State :=
  if s.core.seq.rpl then s.onCore (fun k => { k with seq := { k.seq with win := f k.seq.win } }) else s

/-! ### Beats of the weight and feed streams -/

/-- One beat of a slot-by-slot read: from the block the slot held at its first beat, or as the near store stands
(R124). -/
def State.beatRead (s : State) (b : Beats) (k a n : Nat) : List Byte × Beats :=
  let slot := a / 4096
  match b.snap.find? (fun e => e.1 == slot) with
  | some e => (e.2.read (a % 4096) n, b)
  | none => (s.nearSee k a n, { b with seen := insertNat slot b.seen })

/-- Whether a beat is poisoned. -/
def State.beatBad (s : State) (b : Beats) (a n : Nat) : Bool :=
  match b.snap.find? (fun e => e.1 == a / 4096) with
  | some e => e.2.poisoned (a % 4096) n
  | none => s.core.near.poisoned a n

/-- A POISON trap of a matrix word that is under way (R289, R367). -/
def State.matPoison (s : State) (ord : Nat) (secno : BitVec 12) (widx : BitVec 14) (sup : Bool) (a : Nat) : State :=
  let r : TrapRec :=
    { cause := 0x19, sub := 0, eng := .m, secno := secno, widx := widx, addr := addrW a, resume := none, sup := sup }
  let s1 := s.recordTrap r
  let s2 := if (s.core.em).retired == ord then s1.stopEng .m else s1
  s2.onCore (fun k => { k with
    mat := { k.mat with loads := k.mat.loads.filter (fun l => !(l.ord == ord && l.widx == widx)),
                        feeds := k.mat.feeds.filter (fun l => !(l.ord == ord && l.widx == widx)) },
    x := { k.x with flight := k.x.flight.filter (fun q => !(q.strm == .m && q.ord == ord && q.widx == widx)) } })

/-- The latch a weight image gives (R258, R259). -/
def latchOf (l : WLoad) : Latch :=
  { full := true, fmt := l.fmt,
    planes := (List.range l.planes).map (fun j => BitVec.ofNat 16384 (natOfBytes ((l.got.drop (2048 * j)).take 2048))),
    trans := l.trans, sc := l.sc, scales := if l.sc then (l.got.drop (2048 * l.planes)).take 512 else [] }

/-- Beats of a `mwld`. -/
def WLoad.beats (l : WLoad) : Nat := 16 * l.planes + (if l.sc then 4 else 0)

/-- Cycles of its window (R172). -/
def WLoad.bound (l : WLoad) : Nat := 16 * l.planes + (if l.sc then 16 else 0)

/-- A `mwld` reads its beat of this cycle; after the last, the latch lands at the end of the window. -/
def State.loadBeat (s : State) (l : WLoad) : State :=
  let a := if l.beat < 16 * l.planes then l.base + 128 * l.beat else l.sbase + 128 * (l.beat - 16 * l.planes)
  if s.beatBad l.at_ a 128 then s.matPoison l.ord l.secno l.widx l.sup a
  else
    let r := s.beatRead l.at_ 0 a 128
    let l1 := { l with got := l.got ++ r.1, at_ := r.2, beat := l.beat + 1 }
    let s1 := (s.present 2 0 [a / 128]).didLoad [a / 4096]
    if l1.beat < l.beats then s1.onCore (fun k => { k with mat := { k.mat with loads := k.mat.loads ++ [l1] } })
    else s1.result .m l.ord l.widx (l.bound - l.beat) true 0 (.latch l.wl (latchOf l1))

/-- The weight W(k, n) of a latch (R90). -/
def Latch.weight (l : Latch) (k n : Nat) : Int :=
  let bit := fun j => (l.planes[j]?.getD 0).getLsbD (128 * n + k)
  if l.fmt == 0xB then (if bit 0 then (if bit 1 then -1 else 1) else 0)
  else
    let p := planesOf l.fmt
    ((List.range (p - 1)).foldl (fun (a : Int) j => if bit j then a + 2 ^ j else a) 0) -
      (if bit (p - 1) then 2 ^ (p - 1) else 0)

/-- The contributions of an activation row to one column: one per K-block, with OVF and INV (R99, R261). -/
def colContribs (l : Latch) (alsb : Int) (blocks : List (Option (List Int × Int))) (n : Nat) : List (Int × Bool × Bool) :=
  blocks.zipIdx.map (fun x =>
    let b := x.2
    let ws := (l.scales[4 * n + b]?.getD 0).toNat
    match x.1 with
    | none => (0, false, true)
    | some (q, ea) =>
      if l.sc && ws == 0xFF then (0, false, true)
      else
        let p := q.zipIdx.foldl (fun (a : Int) e =>
          a + e.1 * (if l.trans then l.weight n (32 * b + e.2) else l.weight (32 * b + e.2) n)) 0
        let c := contribution p ((if l.sc then (ws : Int) - 127 else 0) + ea - alsb)
        (c.1, c.2, false))

/-- A row's landing (R261): contributions by column, INV and OVF. -/
def rowLand (l : Latch) (f : Feed) : Land :=
  let eb := actBytes f.fmt
  let codes := (List.range 128).map (fun k => natOfBytes ((f.got.drop (eb * k)).take eb))
  let blocks := (List.range 4).map (fun b =>
    feedBlock f.fmt ((codes.drop (32 * b)).take 32) ((f.scs[b]?.getD 0).toNat))
  let cs := (List.range 128).map (colContribs l (sgn 10 f.alsb.toNat) blocks)
  .row f.tile f.row (cs.map (fun c => c.map Prod.fst)) (cs.any (fun c => c.any (fun x => x.2.2)))
    (cs.any (fun c => c.any (fun x => x.2.1)))

/-- A feed reads its beat of this cycle, an MX row's scales with the row's first; after a row's last beat the
row's contributions land at the end of cycle c + (m + 1) · passes + 135. Each beat of a row is read once, in the row's
first cycles, and its later passes present none; scales in the bank of the row's first beat present no beat of their own
(DESIGN CHOICE, log entry 68). -/
def State.feedBeat (s : State) (f : Feed) : State :=
  let eb := actBytes f.fmt
  let j := f.got.length / 128
  let a := ((f.base : Int) + f.row * f.rs).toNat + 128 * j
  let sa := f.scale + 4 * f.row
  let mx := mxTy f.fmt && j == 0
  if s.beatBad f.at_ a 128 then s.matPoison f.ord f.secno f.widx f.sup a
  else if mx && s.beatBad f.at_ sa 4 then s.matPoison f.ord f.secno f.widx f.sup sa
  else
    let r := s.beatRead f.at_ 0 a 128
    let q := if mx then s.beatRead r.2 1 sa 4 else (f.scs, r.2)
    let s1 := ((s.present 3 0 (a / 128 :: (if mx && sa / 128 % 16 != a / 128 % 16 then [sa / 128] else []))).didLoad
      (a / 4096 :: (if mx then [sa / 4096] else [])))
    let f1 := { f with got := f.got ++ r.1, scs := q.1, at_ := q.2, wait := 1 }
    let keep := fun (t : State) (x : Feed) => t.onCore (fun k => { k with mat := { k.mat with feeds := k.mat.feeds ++ [x] } })
    if f1.got.length < 128 * eb then keep s1 f1
    else
      let s2 := s1.result .m f.ord f.widx (f.passes + 137 - eb) true 0
        (rowLand (s.core.mat.wl[f.wl.toNat]?.getD Latch.empty) f1)
      if f.row + 1 < f.rows then keep s2 { f1 with got := [], scs := [], row := f.row + 1, wait := f.passes + 1 - eb }
      else s2

/-- The matrix engine's beats of a cycle: weights, then the feed. -/
def State.matBeats (s : State) : State :=
  let m := s.core.mat
  let s1 := s.onCore (fun k => { k with mat := { k.mat with
    loads := [], feeds := m.feeds.filter (fun f => f.wait != 0), armed := false } })
  let s2 := m.loads.foldl State.loadBeat s1
  ((m.feeds.filter (fun f => f.wait == 0)).foldl State.feedBeat s2).bump

/-! ### `mwld` (R259) -/

def execMwld (g : BitVec 5) (f : MC) (s : State) : Host.Outcome State Fault Refusal :=
  .next (s.issueEng .m g fun t =>
    let sh := t.seeSh 10 f.sh
    let p := planesOf (shWfmt sh)
    if t.badRegs [(2, f.sh.toNat)] then .trap 0x19 0 0
    else if shReserved sh || shRows sh != 128 || shCols sh != 128 || p == 0 || (f.sc && shTrans sh) then .trap 0x03 0 0
    else if 2 ^ 20 < 4096 * f.ns.toNat + 2048 * p then .trap 0x0A 0 (addrW (2 ^ 20))
    else if two t.core.mat.used f.wl != 0 then .trap 0x10 0x3 0
    else
      let l : WLoad :=
        { wl := f.wl, sup := t.supOf .m, ord := t.ordOf .m, widx := t.widxOf .m, secno := t.secnoOf .m,
          fmt := shWfmt sh, trans := shTrans sh, sc := f.sc, base := 4096 * f.ns.toNat, sbase := 4096 * f.ns2.toNat,
          planes := p, beat := 0, got := [], at_ := { seen := [], snap := [] } }
      let t1 := ((t.didRead [(2, f.sh.toNat)]).didWrite [(4, f.wl.toNat)]).window
        (fun w => { w with loaded := w.loaded ++ [f.wl] })
      let t2 := t1.onCore (fun k => { k with mat := { k.mat with
        load := k.mat.load.setIfInBounds f.wl.toNat (max (two k.mat.load f.wl) l.bound) } })
      .ok (t2.loadBeat l))

/-! ### `macc` (R260-R262) -/

/-- The bytes of `n` rows of `len` bytes from a base at a stride lie in the near store. -/
def rowsIn (base : Nat) (rs : Int) (n len : Nat) : Bool :=
  (List.range n).all (fun m => decide (0 ≤ (base : Int) + m * rs) && decide ((base : Int) + m * rs + len ≤ 2 ^ 20))

/-- The stride of rows of `len` bytes (R260, R266). -/
def strideOf (sh : BitVec 512) (len : Nat) : Int := if shRowStride sh = 0 then (len : Int) else shRowStride sh

/-- MSEQ's cause for a `macc`, in the order of R262. A latch inside its window is neither old nor new (R259), so not
empty either: cause 0x2 (DEDUCED). -/
def maccBusy (m : Mat) (holds : Bool) (f : MC) : BitVec 8 :=
  let t := f.at_
  if two m.load f.wl != 0 then 0x2
  else if !(m.wl[f.wl.toNat]?.getD Latch.empty).full then 0x1
  else if m.feed != 0 then 0x4
  else if holds then 0x5
  else if two m.clr t != 0 then 0x6
  else 0

/-- A cell held poisoned in the first rows of a tile (R367). -/
def Mat.badRow (m : Mat) (t : Bool) (rows : Nat) : Bool :=
  m.bad.any (fun n => n / 16384 == t.toNat && decide (n % 16384 < 128 * rows))

/-- A tile is held by a `mepi`. -/
def Core.held (k : Core) (t : Bool) : Bool := k.mat.holds.any (fun h => h.tile == t && k.inHold h)

def execMacc (g : BitVec 5) (f : MC) (s : State) : Host.Outcome State Fault Refusal :=
  .next (s.issueEng .m g fun t =>
    let sh := t.seeSh 10 f.sh
    let m := shM sh
    let eb := actBytes f.fmt
    let rs := strideOf sh (128 * eb)
    let base := 4096 * f.ns.toNat
    let busy := maccBusy t.core.mat (t.core.held f.at_) f
    if t.badRegs [(2, f.sh.toNat), (4, f.wl.toNat)] then .trap 0x19 0 0
    else if shReserved sh || shAfmt sh != f.fmt || !afmtTy f.fmt || m == 0 || decide (128 < m) || shCols sh != 128 then
      .trap 0x03 0 0
    else if rs % 128 ≠ 0 then .trap 0x0C 0 (addrW base)
    else if !rowsIn base rs m (128 * eb) then .trap 0x0A 0 (addrW base)
    else if busy != 0 then .trap 0x10 busy 0
    else if t.core.mat.badRow f.at_ m then .trap 0x19 0 0
    else
      let passes := wPasses (t.core.mat.wl[f.wl.toNat]?.getD Latch.empty).fmt * aPasses f.fmt
      let x : Feed :=
        { tile := f.at_, wl := f.wl, sup := t.supOf .m, ord := t.ordOf .m, widx := t.widxOf .m, secno := t.secnoOf .m,
          fmt := f.fmt, base := base, rs := rs, scale := 4096 * f.ns2.toNat, rows := m, passes := passes,
          alsb := shAlsb sh, row := 0, wait := 0, got := [], scs := [], at_ := { seen := [], snap := [] } }
      let t1 := t.didRead [(2, f.sh.toNat), (4, f.wl.toNat)]
      let t2 := if t1.core.seq.win.cleared.contains f.at_ then t1 else t1.noReplay
      let t3 := (t2.window (fun w => { w with wrote := w.wrote ++ [f.at_] })).onCore (fun k => { k with
        mat := { k.mat with
          feed := m * passes,
          used := k.mat.used.setIfInBounds f.wl.toNat (m * passes),
          macc := k.mat.macc.setIfInBounds f.at_.toNat (max (two k.mat.macc f.at_) (m * passes + 136)) } })
      .ok (t3.feedBeat x))

/-! ### `mclr` (R263) -/

def execMclr (g : BitVec 5) (f : MC) (s : State) : Host.Outcome State Fault Refusal :=
  .next (s.issueEng .m g fun t =>
    if t.core.held f.at_ then .trap 0x10 0x5 0
    else if two t.core.mat.macc f.at_ != 0 then .trap 0x10 0x6 0
    else
      let t1 := t.window (fun w => { w with cleared := w.cleared ++ [f.at_], wrote := w.wrote ++ [f.at_] })
      let t2 := t1.onCore (fun k => { k with mat := { k.mat with clr := k.mat.clr.setIfInBounds f.at_.toNat 32 } })
      .ok (t2.result .m (t.ordOf .m) (t.widxOf .m) 32 true 0 (.tileClear f.at_)))

/-! ### `mepi` (R264-R267) -/

/-- A binary32 value of an epilogue with ESAT and ENAN. -/
abbrev Epi := Nat × Word

/-- The flags of a step's value (R266). -/
def epiFlag (f : FpFmt) (y : Nat) : Word :=
  match readFp f y with
  | .nan _ => tENAN
  | .inf _ => tESAT
  | _ => 0

/-- A step. -/
def epiStep (r : Nat × BitVec 6) : Epi := (r.1, epiFlag binary32 r.1)

def bin32 (x : Nat) : Fp := readFp binary32 x
def mul32 (a b : Nat) : Nat × BitVec 6 := mulFp binary32 .rne (bin32 a) (bin32 b)
def add32 (a b : Nat) : Nat × BitVec 6 := addFp binary32 .rne (bin32 a) (bin32 b)

/-- GELU-tanh as its nine steps (R265), with the flags of each. -/
def gelu (y : Nat) : Epi :=
  let a := epiStep (mul32 y y)
  let b := epiStep (mul32 a.1 y)
  let c := epiStep (mul32 0x3D372713 b.1)
  let d := epiStep (add32 y c.1)
  let e := epiStep (mul32 0x3F4C422A d.1)
  let t := epiStep (composite binary32 .rne .tanh e.1)
  let u := epiStep (add32 0x3F800000 t.1)
  let v := epiStep (mul32 y u.1)
  let w := epiStep (mul32 0x3F000000 v.1)
  (w.1, a.2 ||| b.2 ||| c.2 ||| d.2 ||| e.2 ||| t.2 ||| u.2 ||| v.2 ||| w.2)

/-- An activation (R265). -/
def activate (c y : Nat) : Epi :=
  if c = 1 then
    match bin32 y with
    | .nan _ => (binary32.nanBits, tENAN)
    | v => if v.neg || v.isZero then (0, 0) else (y, 0)
  else if c = 2 then epiStep (composite binary32 .rne .silu y)
  else if c = 3 then gelu y
  else (y, 0)

/-- A cell's value through scale, bias and activation (R264). -/
def epiValue (cell : Word) (alsb : Int) (sc bias : Option Nat) (act : Nat) : Epi :=
  let c := cell.toInt
  let x : Fp := .fin (decide (c < 0)) c.natAbs alsb
  let a := match sc with
    | some v => epiStep (mulFp binary32 .rne x (bin32 v))
    | none => epiStep (putFp binary32 .rne x)
  let b := match bias with
    | some v => epiStep (add32 a.1 v)
    | none => (a.1, 0)
  let d := activate act b.1
  (d.1, a.2 ||| b.2 ||| d.2)

/-- The output code of a value in a format that is no MX block form, with its flags (R266). -/
def epiOut (o : BitVec 4) (y : Nat) : Epi :=
  if o == 3 then (y, 0)
  else if o == 0 then
    match bin32 y with
    | .nan _ => (0, tENAN)
    | v => let r := fpToInt 8 .rne v; (r.1, if r.2 &&& fIV != 0 then tESAT else 0)
  else let r := putFp (fpOf o) .rne (bin32 y); (r.1, epiFlag (fpOf o) r.1)

/-- A row's output bytes, its scale codes, and its flags. -/
def epiRow (o : BitVec 4) (emax inf : Bool) (ys : List Epi) : List Byte × List Byte × Word :=
  let fl := ys.foldl (fun a y => a ||| y.2) 0
  if mxTy o then
    let qs := (runs32 4 (ys.map Prod.fst)).map (fun l => quantise o emax inf (l.map bin32))
    (qs.flatMap (fun q => q.1.map (BitVec.ofNat 8)), qs.map (fun q => BitVec.ofNat 8 q.2.1),
      qs.foldl (fun a q => a ||| (if q.2.1 = 0xFF then tENAN else 0) ||| (if q.2.2 &&& fOF != 0 then tESAT else 0)) fl)
  else
    let rs := ys.map (fun y => epiOut o y.1)
    (rs.flatMap (fun r => bytesOfNat (outBytes o) r.1), [], rs.foldl (fun a r => a ||| r.2) fl)

/-- Bytes with their near addresses. -/
def placed (a : Nat) (bs : List Byte) : Mem := bs.zipIdx.map (fun e => (a + e.2, e.1))

/-- The fields `mepi` checks of its shape (R264, R267). -/
def mepiOk (f : MC) (sh : BitVec 512) : Bool :=
  !shReserved sh && shOfmt sh == f.fmt && ofmtTy f.fmt && shRows sh != 0 && decide (shRows sh ≤ 128) &&
    shCols sh == 128 && !shLevel sh && shColStride sh == 0 && decide ((shEpi sh).toNat < 16)

/-- `mepi` (R264-R267). Scales and bias are read at issue. Row r's beats reach the banks from cycle c + 144 + 4r on, also
where the row lands earlier, and the MX scale beats follow the last row's, one a cycle and the last two together (DESIGN
CHOICE, log entry 68: R267 gives only the latest cycle). -/
def execMepi (g : BitVec 5) (f : MC) (s : State) : Host.Outcome State Fault Refusal :=
  .next (s.issueEng .m g fun t =>
    let sh := t.seeSh 10 f.sh
    let rows := shRows sh
    let eb := outBytes f.fmt
    let rs := strideOf sh (128 * eb)
    let base := 4096 * f.ns.toNat
    let sb := shBase sh
    let scaled := (shEpi sh).getLsbD 0
    let biased := (shEpi sh).getLsbD 1
    let place := fun r => ((base : Int) + (r : Nat) * rs).toNat
    let slots := uniq ((List.range rows).flatMap (fun r => slotsOf (place r) (128 * eb)) ++
      (if mxTy f.fmt then [f.ns2.toNat] else []))
    let reads := (if scaled then [sb] else []) ++ (if biased then [sb + 512] else [])
    if t.badRegs [(2, f.sh.toNat)] then .trap 0x19 0 0
    else if !mepiOk f sh then .trap 0x03 0 0
    else if rs % 128 ≠ 0 then .trap 0x0C 0 (addrW base)
    else if (scaled || biased) && sb % 4 != 0 then .trap 0x0C 0 (addrW sb)
    else if !rowsIn base rs rows (128 * eb) then .trap 0x0A 0 (addrW base)
    else if reads.any (fun a => !nearOk a 512) then .trap 0x0A 0 (addrW sb)
    else
      match slots.find? t.core.nearBusy with
      | some n => .trap 0x0B 0 (addrW (4096 * n))
      | none =>
        if two t.core.mat.macc f.at_ != 0 || two t.core.mat.clr f.at_ != 0 then .trap 0x10 0x6 0
        else if t.core.mat.badRow f.at_ rows then .trap 0x19 0 0
        else
          match reads.find? (fun a => t.core.near.poisoned a 512) with
          | some a => .trap 0x19 0 (addrW a)
          | none =>
            let scs := if scaled then t.nearSee 0 sb 512 else []
            let bis := if biased then t.nearSee 1 (sb + 512) 512 else []
            let num := fun (l : List Byte) n => natOfBytes ((l.drop (4 * n)).take 4)
            let outs := (List.range rows).map (fun r =>
              epiRow f.fmt (shEmax sh) (shInf sh) ((List.range 128).map (fun n =>
                epiValue (Sparse.get 0 t.core.mat.cells (16384 * f.at_.toNat + 128 * r + n)) (sgn 10 (shAlsb sh).toNat)
                  (if scaled then some (num scs n) else none) (if biased then some (num bis n) else none)
                  ((shEpi sh).toNat / 4))))
            let scales := placed (4096 * f.ns2.toNat) (outs.flatMap (fun o => o.2.1))
            let t0 := t.present 1 0 (linesAll 512 reads)
            let t1 := ((t0.didRead [(2, f.sh.toNat)]).didLoad (slotsAll 512 reads)).didStore slots
            let t2 := t1.onCore (fun k => { k with mat := { k.mat with
              holds := k.mat.holds.filter k.inHold ++
                [{ tile := f.at_, ord := t.ordOf .m, widx := t.widxOf .m, slots := slots }] } })
            .ok (outs.zipIdx.foldl (fun u o =>
              let r := o.2
              let due := 144 + 4 * (r + 1)
              let bytes := placed (place r) o.1.1 ++ (if r + 1 = rows then scales else [])
              let u1 := (List.range eb).foldl (fun v j => v.present 1 (144 + 4 * r + j) [place r / 128 + j]) u
              let tail := if r + 1 = rows && mxTy f.fmt then linesOf (4096 * f.ns2.toNat) (4 * rows) else []
              let u1 := tail.zipIdx.foldl (fun v l => v.present 1 (145 + 4 * r + min l.2 2) [l.1]) u1
              let u2 := u1.result .m (t.ordOf .m) (t.widxOf .m) due false 0 (.near bytes)
              if o.1.2.2 = 0 then u2
              else u2.result .m (t.ordOf .m) (t.widxOf .m) due false 0 (.tflgSet f.at_ o.1.2.2))
              t2))

/-! ### `mflg` and `mfclr` (R268) -/

/-- A tile's flag word as a read sees it: what a result in flight sets or clears is seen or not. -/
def State.seeTflg (s : State) (t : Bool) : Word :=
  (s.core.x.flight.zipIdx.foldl (fun (a : Sparse Word × Word) e =>
    let see := s.choice (slotBase 0 + e.2)
    match e.1.land with
    | .tileClear u => if u == t && see then (a.1, 0) else a
    | .tflgClear u => if u == t && see then (a.1, 0) else a
    | .tflgSet u b => if u == t && see then (a.1, a.2 ||| b) else a
    | .row u m cs inv ovf =>
      if u == t then
        let r := rowAdd a.1 (16384 * t.toNat + 128 * m) cs
        (r.1, if see then a.2 ||| (if ovf || r.2 then tOVF else 0) ||| (if inv then tINV else 0) else a.2)
      else a
    | _ => a) (s.core.mat.cells, s.core.mat.flg[t.toNat]?.getD 0)).2

/-- `mflg` (R268). Its store takes its beat at issue, at M-epilogue priority (DESIGN CHOICE, log entry 68: the manual
gives no requester, and only the cycle by which it performs). -/
def execMflg (g : BitVec 5) (f : MC) (s : State) : Host.Outcome State Fault Refusal :=
  .next (s.issueEng .m g fun t =>
    let a := 4096 * f.ns.toNat + 8 * f.at_.toNat
    if t.core.nearBusy f.ns.toNat then .trap 0x0B 0 (addrW a)
    else
      .ok (((t.present 1 0 [a / 128]).didStore [f.ns.toNat]).give .m 4 0
        (.near (placed a (bytesOfNat 8 (t.seeTflg f.at_).toNat)))))

def execMfclr (g : BitVec 5) (f : MC) (s : State) : Host.Outcome State Fault Refusal :=
  .next (s.issueEng .m g fun t =>
    .ok (t.result .m (t.ordOf .m) (t.widxOf .m) 4 true 0 (.tflgClear f.at_)))

end Sys2Proof.Machine
end

