-- ==== Sys2Proof/Machine/Privileged.lean ====
section
/-! DEFINITION. System registers and the privileged words (R305-R308, R320-R330), and the fates of requests a LATE
handler abandons (R70). -/

namespace Sys2Proof.Machine

/-! ### System registers (R305) -/

/-- SSTAT (R306). -/
def Seq.sstat (q : Seq) : Word :=
  BitVec.ofNat 64 (packHi [(1, q.rw.toNat), (2, 0), (1, q.sen.toNat), (2, 0), (1, q.ps.toNat), (1, q.sup.toNat)])

/-- An access that XPEND counts (R308). -/
def Acc.pends (a : Acc) : Bool :=
  match a.kind with
  | .xch _ => true
  | .land _ _ _ _ _ => true
  | .atom x => x.dst.isSome
  | _ => false

/-- Some queue holds thread entries no `drain` has released. -/
def Core.holding (k : Core) : Bool := engines.any (fun e => (k.eng e).queue.any (fun q => q.held))

/-- ENGSTAT (R308). -/
def Core.engstat (k : Core) : Word :=
  BitVec.ofNat 64 (packHi [(1, k.holding.toNat), (1, (!k.x.wbs.isEmpty).toNat), (1, (k.x.accs.any Acc.pends).toNat),
    (3, 0), (1, k.ex.run.isSome.toNat), (5, k.ex.queue.length), (2, 0), (1, k.ev.run.isSome.toNat),
    (5, k.ev.queue.length), (2, 0), (1, k.em.run.isSome.toNat), (5, k.em.queue.length)])

/-- A barrier slot as a register. -/
def BSlot.word (b : BSlot) : Word :=
  BitVec.ofNat 64 (packHi [(1, b.done.toNat), (1, b.arrived.toNat), (3, b.scope.toNat), (20, b.c.toNat)])

/-- Reads a system register; one not listed never reaches here, since its word raises ILLOP. -/
def State.sysRead (s : State) (n : Nat) : Word :=
  let k := s.core
  let q := k.seq
  if n = 0x000 then q.sstat
  else if n = 0x001 then q.tinfo
  else if n = 0x002 then q.taddr
  else if n = 0x003 then q.tpc.setWidth 64
  else if n = 0x004 then q.sbase.setWidth 64
  else if n = 0x005 then q.frzlim
  else if n = 0x006 then BitVec.ofNat 64 (q.req.toNat + 2 * q.force.toNat)
  else if n = 0x007 then q.prelim.setWidth 64
  else if n = 0x008 then k.engstat
  else if n = 0x009 then q.tlate.setWidth 64
  else if n = 0x00A then q.asid.setWidth 64
  else if n = 0x00B then q.ctx.setWidth 64
  else if n = 0x00C then
    BitVec.ofNat 64 (packHi [(16, q.total.toNat), (8, q.count.toNat), (7, 0), (1, q.rpl.toNat)])
  else if n < 0x060 then q.thr.get (BitVec.ofNat 5 (n - 0x040))
  else if n = 0x060 then q.thr.p.setWidth 64
  else if n = 0x061 then k.vec.rb.setWidth 64
  else if n = 0x062 then q.thr.depth.setWidth 64
  else if n = 0x063 then q.scyc
  else if n = 0x064 then k.vec.flg.setWidth 64
  else if n = 0x065 then k.mat.flg[0]
  else if n = 0x066 then k.mat.flg[1]
  else if n < 0x06C then (q.thr.lc[n - 0x068]?.getD 0).setWidth 64
  else if n < 0x070 then
    BitVec.ofNat 64 ((q.thr.lstart[n - 0x06C]?.getD 0).toNat + 65536 * (q.thr.lend[n - 0x06C]?.getD 0).toNat)
  else if n < 0x080 then (q.thr.stack[n - 0x070]?.getD 0).setWidth 64
  else if n < 0x400 then (q.slot (n - 0x200)).word
  else fieldAt (k.vec.sh[(n - 0x400) / 8]?.getD 0) (64 * ((n - 0x400) % 8)) 64

/-- FRZLIM as written (R70): clamped to 256 to 2^24. -/
def frzlimOf (v : Word) : Word := if v.ult 256 then 256 else if (0x1000000 : Word).ult v then 0x1000000 else v

/-- A write of FRZLIM (R70). -/
def Core.putFrzlim (k : Core) (v : Word) : Core := { k with seq := { k.seq with frzlim := frzlimOf v } }

/-- Both latches empty, as a change of CTX, a pre-emption and a plane flip leave them (R254, R320). -/
def Core.emptyLatches (k : Core) : Core :=
  { k with mat := { k.mat with wl := Vector.replicate 2 Latch.empty }, badReg := k.badReg.filter (fun r => r.1 != 4) }

/-- Registers a changed CTX clears (R320): vectors, masks, shapes, quills; both latches empty. -/
def Core.clearCtx (k : Core) : Core :=
  { k.emptyLatches with
    vec := { k.vec with v := Vector.replicate 64 0, m := Vector.replicate 8 0, sh := Vector.replicate 16 0,
                        q := Vector.replicate 16 Quill.zero },
    badReg := k.badReg.filter (fun r => decide (5 ≤ r.1)) }

/-- Shares that ran under the old CTX, or that no switch has named yet, take it as theirs. -/
def Core.nameCtx (k : Core) (old : BitVec 32) : Core :=
  let f := fun (x : Share) => if x.ctx.isNone then { x with ctx := some old } else x
  { k with share := f k.share, saved := k.saved.map f }

/-- The CTX of a launch's share on a core. -/
def Core.ctxOf (k : Core) (launch : Nat) : Option (BitVec 32) :=
  ((k.share :: k.saved).find? (fun x => x.launch == launch)).bind Share.ctx

/-- Bytes of payloads. -/
def payBytes (l : List Payload) : Nat := l.foldl (fun n p => n + p.len) 0

/-- What a pending access holds in the landing buffer: an exchange's early far-side data, or a returned atomic value
(R25, R69, R271). -/
def Acc.landed (a : Acc) : Nat :=
  match a.kind with
  | .xch x => 4096 * x.inn.length
  | .atom x => if x.dst.isSome && x.old.isSome then x.bytes else 0
  | _ => 0

/-- Bytes a landing buffer holds. -/
def Core.landingUsed (k : Core) : Nat := payBytes k.x.landing + (k.x.accs.map Acc.landed).sum

/-- The landing buffer has room for `n` bytes more. -/
def Core.landingRoom (k : Core) (n : Nat) : Bool := decide (k.landingUsed + n ≤ Config.landingBytes)

/-- The core takes payloads in their order while they fit: the core, what is left, and whether a payload of each kind
had to wait, behind which the later ones of the kind wait too (R278, R279). -/
def Core.takeIn (k : Core) : List Payload → List Payload → Bool → Bool → Core × List Payload
  | [], rest, _, _ => (k, rest)
  | p :: ps, rest, fullL, fullI =>
    if p.push then
      (if !fullI && decide (k.x.inflow.length < Config.inflowDepth) then
        { k with x := { k.x with inflow := k.x.inflow ++ [p] } }.takeIn ps rest fullL false
      else k.takeIn ps (rest ++ [p]) fullL true)
    else if !fullL && k.landingRoom p.len then
      { k with x := { k.x with landing := k.x.landing ++ [p] } }.takeIn ps rest false fullI
    else k.takeIn ps (rest ++ [p]) true fullI

/-- The payloads of the die's hold that a test picks come back to the core in their order as far as there is room; the
rest stay held (R320). -/
def State.takeBack (s : State) (mine : Payload → Bool) : State :=
  let held := (s.die s.myDie).hold
  let ours := fun (h : Held) => h.core == s.here && mine h.pay
  let r := s.core.takeIn ((held.filter ours).map Held.pay) [] false false
  (s.modDie s.myDie (fun d => { d with
    hold := r.2.map (fun p => ({ core := s.here, pay := p } : Held)) ++ held.filter (fun h => !ours h) })).onCore (fun _ => r.1)

/-- Payloads of other contexts go to the die's receiver hold; those held for the new one come back in their order
(R278, R320). -/
def State.moveCtx (s : State) (new : BitVec 32) : State :=
  let k := s.core
  let mine := fun (p : Payload) => k.ctxOf p.launch == some new
  let out := ((k.x.landing ++ k.x.inflow).filter (fun p => !mine p)).map (fun p => ({ core := s.here, pay := p } : Held))
  ((s.modDie s.myDie (fun d => { d with hold := d.hold ++ out })).onCore (fun c =>
    { c with x := { c.x with landing := c.x.landing.filter mine, inflow := c.x.inflow.filter mine } })).takeBack mine

/-- Held payloads for which room has come return to the core. -/
def State.refill (s : State) : State :=
  if (s.die s.myDie).hold.isEmpty then s
  else s.takeBack (fun p => s.core.ctxOf p.launch == some s.core.seq.ctx)

/-- A write of CTX (R320). -/
def State.writeCtx (s : State) (v : BitVec 32) : State :=
  let old := s.core.seq.ctx
  if v = old then s
  else (((s.onCore (fun k => k.nameCtx old)).moveCtx v).onCore Core.clearCtx).onCore (fun k => { k with seq := { k.seq with ctx := v } })

/-- Writes a barrier slot's architectural fields. -/
def BSlot.ofWord (b : BSlot) (v : Word) : BSlot :=
  { b with c := fieldAt v 0 20, scope := fieldAt v 20 3, arrived := v.getLsbD 23, done := v.getLsbD 24 }

/-- A write of PREQ: REQ newly set starts the count of PRELIM (R318). -/
def Seq.putPreq (q : Seq) (v : Word) : Seq :=
  { q with req := v.getLsbD 0, force := v.getLsbD 1, reqTicks := if q.req then q.reqTicks else 0 }

/-- Writes a system register; read-only ones and reserved fields are ignored (R305, R322). -/
def State.sysWrite (s : State) (n : Nat) (v : Word) : State :=
  let sq := fun (f : Seq → Seq) => s.onCore (fun k => { k with seq := f k.seq })
  let th := fun (f : Bank → Bank) => sq (fun q => { q with thr := f q.thr })
  let vc := fun (f : Vec → Vec) => s.onCore (fun k => { k with vec := f k.vec })
  if n = 0x000 then sq (fun q => { q with rw := v.getLsbD 7, sen := v.getLsbD 4, ps := v.getLsbD 1 })
  else if n = 0x002 then sq (fun q => { q with taddr := v })
  else if n = 0x003 then sq (fun q => { q with tpc := fieldAt v 0 14, tpcEnd := false })
  else if n = 0x004 then sq (fun q => { q with sbase := fieldAt v 0 14 })
  else if n = 0x005 then s.onCore (fun k => k.putFrzlim v)
  else if n = 0x006 then sq (fun q => q.putPreq v)
  else if n = 0x007 then sq (fun q => { q with prelim := fieldAt v 0 32 })
  else if n = 0x00A then sq (fun q => { q with asid := fieldAt v 0 16 })
  else if n = 0x00B then s.writeCtx (fieldAt v 0 32)
  else if n < 0x040 then s
  else if n < 0x060 then s.give .seq 1 0 (.sreg false (BitVec.ofNat 5 (n - 0x040)) v)
  else if n = 0x060 then th (fun b => { b with p := fieldAt v 0 8 })
  else if n = 0x061 then vc (fun x => { x with rb := fieldAt v 2 3 ++ 0#2 })
  else if n = 0x062 then th (fun b => { b with depth := fieldAt v 0 5 })
  else if n = 0x063 then sq (fun q => { q with scyc := v })
  else if n = 0x064 then vc (fun x => { x with flg := fieldAt v 0 6 |>.setWidth 32 })
  else if n = 0x065 then s.onCore (fun k => { k with mat := { k.mat with flg := k.mat.flg.set 0 (v &&& 15) } })
  else if n = 0x066 then s.onCore (fun k => { k with mat := { k.mat with flg := k.mat.flg.set 1 (v &&& 15) } })
  else if n < 0x06C then th (fun b => { b with lc := b.lc.setIfInBounds (n - 0x068) (fieldAt v 0 32) })
  else if n < 0x070 then th (fun b => { b with lstart := b.lstart.setIfInBounds (n - 0x06C) (fieldAt v 0 14),
                                                lend := b.lend.setIfInBounds (n - 0x06C) (fieldAt v 16 14) })
  else if n < 0x080 then th (fun b => { b with stack := b.stack.setIfInBounds (n - 0x070) (fieldAt v 0 14) })
  else if n < 0x400 then sq (fun q => q.setSlot (n - 0x200) ((q.slot (n - 0x200)).ofWord v))
  else
    s.give .seq 1 0 (.shape (BitVec.ofNat 4 ((n - 0x400) / 8)) (fieldMask 512 (64 * ((n - 0x400) % 8)) 64 &&& ~~~shapeReserved)
      (v.setWidth 512 <<< (64 * ((n - 0x400) % 8))))

/-- A register a system register number names is held poisoned. -/
def State.badSys (s : State) (n : Nat) : Bool :=
  if 0x040 ≤ n ∧ n < 0x060 then s.badRegs [(5, n - 0x040)]
  else decide (0x400 ≤ n) && s.badRegs [(2, (n - 0x400) / 8)]

def execRdsys (h : Head) (f : SX) (s : State) : Host.Outcome State Fault Refusal :=
  .next (s.issueSeq { priv := true } h fun t =>
    if t.badSys f.sysreg.toNat then .trap 0x19 0 0 false
    else .next (t.give .seq 2 0 (.sreg true f.reg (t.sysRead f.sysreg.toNat))))

def execWrsys (h : Head) (f : SX) (s : State) : Host.Outcome State Fault Refusal :=
  .next (s.issueSeq { priv := true, reads := [f.reg] } h fun t => .next (t.sysWrite f.sysreg.toNat (t.reg 0 f.reg)))

/-! ### Returns -/

/-- `sret` (R323). After a `pswap` that applied initial state it ignores TPC, and the core waits for the launch's
start token (R347). With a launch stop due it acts as `sret.fault` (R58). -/
def execSret (h : Head) (s : State) : Host.Outcome State Fault Refusal :=
  .next (s.issueSeq { priv := true, excl := true } h fun t =>
    if t.core.share.stop then .own t.endFault
    else .own (t.onCore (fun k =>
      let k1 := k.leaveSup h.gap.toNat
      if k.seq.fresh then
        { k1 with seq := { k1.seq with pc := 0, ended := true, half := false, late := none, sup := false },
                  share := { k1.share with phase := .flipped } }
      else { k1 with seq := { k1.seq with late := none } })))

/-- `sret.fault` (R323, R58). -/
def execSretFault (h : Head) (s : State) : Host.Outcome State Fault Refusal :=
  .next (s.issueSeq { priv := true, excl := true } h fun t => .own t.endFault)

/-! ### LATE (R70, R324) -/

/-- Returns to the frozen point of a LATE entry; past the end of the control stream the sections left run on (R58). -/
def Core.backToFreeze (k0 : Core) (f : LateFrame) (fz : Freeze) : Core :=
  let k := if f.ended then k0.release else k0
  { k with seq := { k.seq with sup := k.seq.ps, pc := f.pc, wait := f.wait, ended := f.ended, half := false,
                               rw := false, tpcEnd := false, late := none, frz := { fz with run := 0 } } }

/-- `lres` (R324): the same requests stay outstanding and the FRZLIM count starts again. -/
def execLres (h : Head) (s : State) : Host.Outcome State Fault Refusal :=
  .next (s.issueSeq { priv := true, excl := true } h fun t =>
    match t.core.seq.late with
    | none => .trap 0x1E 0 0 false
    | some f => .own (t.onCore (fun k => k.backToFreeze f f.freeze)))

/-- `labn` (R324): every late request takes its fate of R70. -/
def execLabn (h : Head) (s : State) : Host.Outcome State Fault Refusal :=
  .next (s.issueSeq { priv := true, excl := true } h fun t =>
    match t.core.seq.late with
    | none => .trap 0x1E 0 0 false
    | some f =>
      let t2 := t.abandonHeld f
      let t3 := t2.onCore (fun k => k.backToFreeze f Freeze.none)
      .own (if f.freeze.align.isSome && t3.core.share.phase == Phase.aligning then
          t3.onCore (fun k => { k with share := { k.share with phase := .entry } })
        else if f.freeze.bar.isSome || f.freeze.align.isSome then t3.fallThrough f.freeze.gap.toNat else t3))

/-! ### Queues and planes -/

/-- `drain` (R325). -/
def execDrain (h : Head) (s : State) : Host.Outcome State Fault Refusal :=
  .next (s.issueSeq { priv := true } h fun t =>
    .next (t.onCore Core.release))

/-- What `pswap` requires (R326). -/
def Core.mayPswap (k : Core) : Bool :=
  !k.holding && !k.x.accs.any Acc.pends && k.enginesIdle

/-- The share of the launch a plane was staged for: a resident one, or a fresh one. -/
def Core.shareFor (k : Core) (n : Nat) : Share :=
  (k.saved.find? (fun x => x.launch == n)).getD { Share.idle with launch := n }

/-- The engines' most recent DISPs (R61). -/
def Core.lasts (k : Core) : Vector (Option (Nat × BitVec 12)) 3 := #v[k.em.last, k.ev.last, k.ex.last]

/-- Restores them. -/
def Core.setLasts (k : Core) (l : Vector (Option (Nat × BitVec 12)) 3) : Core :=
  { k with em := { k.em with last := l[0] }, ev := { k.ev with last := l[1] }, ex := { k.ex with last := l[2] } }

/-- What the engines have started and retired of the launch (R380, R381), and its restoring. -/
def Core.tally (k : Core) : Vector (Nat × Nat) 3 :=
  #v[(k.em.started, k.em.ret), (k.ev.started, k.ev.ret), (k.ex.started, k.ex.ret)]
def Core.setTally (k : Core) (l : Vector (Nat × Nat) 3) : Core :=
  { k with em := { k.em with started := l[0].1, ret := l[0].2 }, ev := { k.ev with started := l[1].1, ret := l[1].2 },
           ex := { k.ex with started := l[2].1, ret := l[2].2 } }

/-- The share of launch `n` takes the place of the present one, which stays resident (R343, R347). -/
def Core.changeShare (k : Core) (n : Nat) : Core :=
  if n = k.share.launch then k
  else
    let rest := k.saved.filter (fun x => x.launch != n && x.launch != k.share.launch)
    let inc := k.shareFor n
    let out : Share := { k.share with last := k.lasts, counts := k.tally, credits := k.x.credits, credit := k.x.credit }
    let k1 : Core := { k with x := { k.x with credits := inc.credits, credit := inc.credit }, share := inc, saved := if k.share.phase = Phase.idle then rest else out :: rest }
    (k1.setLasts inc.last).setTally inc.counts

/-- KIND of the switch record written last is 1, a fresh launch: `pswap` reads it (R344, R347). -/
def State.swapFresh (s : State) : Bool :=
  match s.myPart with
  | some (_, x) => x.swkind == 1
  | none => false

/-- `pswap` (R326, R346, R347): the planes swap and both latches empty; for a fresh launch the initial state is applied;
the share of the incoming launch takes the place of the outgoing one, which stays resident. -/
def State.pswap (s : State) : State :=
  let fresh := s.swapFresh
  s.onCore (fun k =>
    let k1 := k.swapPlanes.emptyLatches
    let k2 := (if fresh then k1.initial k1.cur else k1).changeShare (k1.cur.launch.getD k.share.launch)
    let sen := match s.myPart with
      | some (_, x) => x.desc.sen && k1.cur.sen
      | none => false
    { k2 with
      cur := { k1.cur with init := false },
      seq := { k2.seq with pc := k1.cur.sbase, sbase := k1.cur.sbase, sen := sen, fresh := fresh, rpl := false } })

def execPswap (h : Head) (s : State) : Host.Outcome State Fault Refusal :=
  .next (s.issueSeq { priv := true, excl := true } h fun t =>
    if !t.core.mayPswap then .trap 0x1C 0 0 false
    else .own ((t.pswap).onCore (fun k => { k with seq := { k.seq with wait := 1 + h.gap.toNat } })))

/-! ### TLBs, error banks, recovery buffer, barriers (R327-R330) -/

/-- A privileged word whose effect comes at its bound. -/
def laterWord (n : Nat) (reads : List (BitVec 5)) (l : State → Land) (h : Head) (s : State) : Host.Outcome State Fault Refusal :=
  .next (s.issueSeq { priv := true, reads := reads } h fun t => .next (t.give .seq n 0 (l t)))

def execTlbiVa (h : Head) (f : SX) (s : State) :=
  laterWord 256 [f.reg] (fun t => .tlbVa t.core.seq.asid (fieldAt (t.reg 0 f.reg) 0 52)) h s
def execTlbiAsid (h : Head) (f : SX) (s : State) :=
  laterWord 256 [f.reg] (fun t => .tlbAsid (fieldAt (t.reg 0 f.reg) 0 16)) h s
def execTlbiAll (h : Head) (s : State) := laterWord 256 [] (fun _ => .tlbAll) h s

/-- A bank word as a partition's supervisor reads it (R375). -/
def bankWord (b : Vector Word 8) (p w : Nat) : Word :=
  let q := (fieldAt b[0] 33 7).toNat
  if q = p || (q = 127 && w ≤ 1) then b[w]?.getD 0 else 0

/-- `errrd` (R328, R375): reading word 0 of a record it may read sets SEEN. -/
def execErrrd (h : Head) (f : SX) (s : State) : Host.Outcome State Fault Refusal :=
  .next (s.issueSeq { priv := true, reads := [fieldAt f.sysreg 7 5] } h fun t =>
    let a := t.reg 0 (fieldAt f.sysreg 7 5)
    let bi := (fieldAt a 0 4).toNat
    let w := (fieldAt a 4 3).toNat
    let b := (t.die t.myDie).bankBase bi
    let v := bankWord b t.partNum w
    let t1 := if w = 0 && v.getLsbD 63 then
        t.modDie t.myDie (fun d => d.modBank bi (fun x => x.set 0 (x[0] ||| (1#64 <<< 62))))
      else t
    .next (t1.give .seq 8 0 (.sreg true f.reg v)))

def execErrclr (h : Head) (f : SX) (s : State) := laterWord 8 [f.reg] (fun t => .errclr (fieldAt (t.reg 0 f.reg) 0 4)) h s

/-- `parkrd` (R329): a pending slot raises XBUSY. -/
def execParkrd (h : Head) (f : SX) (s : State) : Host.Outcome State Fault Refusal :=
  .next (s.issueSeq { priv := true, reads := [fieldAt f.sysreg 7 5] } h fun t =>
    let a := t.reg 0 (fieldAt f.sysreg 7 5)
    let n := fieldAt a 8 8
    if t.core.nearBusy n.toNat then .trap 0x0B 0 (BitVec.ofNat 64 (4096 * n.toNat)) false
    else .next (t.give .seq 64 0 (.park (fieldAt a 0 8) n true f.reg)))

/-- `bar.kill` (R330): a scope code outside 2 to 5 deletes nothing. -/
def execBarKill (h : Head) (f : SX) (s : State) : Host.Outcome State Fault Refusal :=
  .next (s.issueSeq { priv := true, reads := [f.reg] } h fun t =>
    let a := t.reg 0 f.reg
    let sc : BitVec 3 := fieldAt a 9 3
    if 2 ≤ sc.toNat ∧ sc.toNat ≤ 5 then .next (t.give .seq 128 0 (.kill (fieldAt a 0 9) sc)) else .next t)

end Sys2Proof.Machine
end

