-- ==== Sys2Proof/Machine/Exchange.lean ====
section
/-! DEFINITION. Exchange words (R119-R123, R271-R276) and the message words (R277-R281), as they issue. -/

namespace Sys2Proof.Machine

/-! ### Accumulator blocks (R119) -/

/-- Bytes of cells, numbered from zero. -/
def cellBytes (l : Sparse Word) : Mem :=
  l.flatMap (fun e =>
    ((bytesOfNat 8 e.2.toNat).zipIdx.map (fun b => (8 * e.1 + b.2, b.1))).filter (fun x => x.2 != 0))

/-- Accumulator block `a`: cell `j` of it at byte 8j. -/
def Mat.accBlock (m : Mat) (a : Nat) : Store :=
  { bytes := cellBytes (Sparse.window m.cells (512 * a) 512),
    poison := (m.bad.filter (fun n => n / 512 == a)).map (· - 512 * a) }

/-- Replaces accumulator block `a`. -/
def Mat.setAccBlock (m : Mat) (a : Nat) (b : Store) : Mat :=
  { m with
    cells := Sparse.splice m.cells (512 * a) 512
      (((List.range 512).map (fun j => (j, b.word (8 * j)))).filter (fun e => e.2 != 0)),
    bad := m.bad.filter (fun n => decide (n < 512 * a)) ++ ((b.poison.filter (fun n => decide (n < 512))).map (· + 512 * a) ++
      m.bad.filter (fun n => decide (512 * a + 512 ≤ n))) }

/-! ### Places of an exchange (R272, R274, R275) -/

/-- The far value. -/
def State.xchFar (s : State) (f : XE) : Word := s.kpar .x f.fki + f.foff.signExtend 64

/-- The near value: a slot, an accumulator block, or for `xch.dm` a die block address. -/
def State.xchNear (s : State) (f : XE) : Nat := if f.nk then (s.kpar .x f.nki).toNat else f.nsl.toNat

/-- Consecutive blocks. -/
def blockRun (a k : Nat) : List Nat := (List.range k).map (· + a)

/-- A range of die block addresses is valid and stays on one die (R114, R275). -/
def State.dieRange (s : State) (a k : Nat) : Bool :=
  decide (a < 65536) && decide (a % 16384 + k ≤ 16384) && (blockRun a k).all (dieBlockOk s.myMembersOn)

/-- Both ranges lie in their levels (R272, R276). -/
def State.xchIn (s : State) (form : Form) (near far k : Nat) : Bool :=
  (match form with
   | .nd => s.dieRange far k
   | .np => decide (far < 2 ^ 50) && decide (far % 2 ^ 40 + k ≤ 2 ^ 40)
   | _ => decide (far + k ≤ 2 ^ 40)) &&
  (form != .dm || s.dieRange near k)

/-- A die block is pending under an exchange of any core of the partition (R123). -/
def State.dieNamed (s : State) (blk : Nat) : Bool :=
  s.cores.any (fun c => (s.partOf c.1).map Prod.fst == some s.partNum && c.2.diePendingOwn blk)

/-- An accumulator block is named by an exchange under way. -/
def Core.accNamed (k : Core) (blk : Nat) : Bool :=
  k.x.accs.any (fun a =>
    match a.kind with
    | .xch x => x.form == .am && x.near.contains blk
    | _ => false)

/-- A block of either side is pending or holds landing-marked bytes (R123, R276, R278). -/
def State.xchBusy (s : State) (form : Form) (near far : List Nat) : Bool :=
  (match form with
   | .dm => near.any s.dieNamed
   | .am => near.any s.core.accNamed
   | _ => near.any s.core.nearBusy) ||
  (form == .nd && far.any s.dieNamed)

/-- Blocks the exchange buffer holds (R121). -/
def Core.buffered (k : Core) : Nat :=
  k.x.accs.foldl (fun n a =>
    match a.kind with
    | .xch x => n + x.near.length
    | _ => n) 0 + k.x.wbs.foldl (fun n w => n + w.blocks) 0

/-- A tile is held, or inside an `mclr` or `macc` window (R270, R275). -/
def Core.tileBusy (k : Core) (t : Bool) : Bool := k.held t || two k.mat.macc t != 0 || two k.mat.clr t != 0

/-- What is ordered before a word, through what is ordered before that: each access names earlier ones only, so one pass
from the newest back finds all. -/
def Core.closure (k : Core) (ids : List Nat) : List Nat :=
  k.x.accs.foldr (fun a l => if l.contains a.id then l ++ a.after else l) ids

/-- An exchange or `xland` ordered before a word falls due after it (R151). -/
def State.xord (s : State) (cls : BitVec 4) (foot : List Foot) (reach rel arr : Nat) : Bool :=
  let b := s.core.closure (s.before .x cls foot reach rel)
  s.core.x.accs.any (fun a =>
    b.contains a.id &&
      (match a.kind, a.due with
       | .xch _, some d => decide (arr < d)
       | .land _ _ _ _ _, some d => decide (arr < d)
       | _, _ => false))

/-- A whole near slot as a word reads it (R22). -/
def State.nearBlockSee (s : State) (k n : Nat) : Store :=
  if s.core.nearNews.isEmpty then s.core.near.block n
  else { Store.ofBytes (s.nearSee k (4096 * n) 4096) with poison := (s.core.near.block n).poison }

/-- The home of a block of another package: what the tenant's VBN names under that package's tables (R118). -/
def State.remoteHome (s : State) (pkg vbn : Nat) : Home :=
  { pod := true, pbn := (1024 * s.partNum + pkg) * 2 ^ 36 + Config.remotePbn s.partNum pkg vbn % 2 ^ 36 }

/-- Bytes an exchange touches. -/
def State.xchFoot (s : State) (form : Form) (near far : List Nat) (pkg : Nat) : List Foot :=
  (match form with
   | .dm => feet .die 4096 (near.map (4096 * ·))
   | .am => []
   | _ => feet .near 4096 (near.map (4096 * ·))) ++
  (match form with
   | .nd => feet .die 4096 (far.map (4096 * ·))
   | .np => feet (.pod pkg) 4096 (far.map (fun v => 4096 * (s.remoteHome pkg v).pbn))
   | _ => feet (.main s.core.seq.asid) 4096 (far.map (4096 * ·)))

/-- The far side of a form lies in this package's main memory. -/
def Form.main : Form → Bool
  | .nm => true
  | .dm => true
  | .am => true
  | _ => false

/-- The outgoing copies taken at issue; a die side is read at its banks later (R121, R150). -/
def State.xchOut (s : State) (form : Form) (near : List Nat) : List Store :=
  match form with
  | .dm => []
  | .am => near.map s.core.mat.accBlock
  | _ => near.map (s.nearBlockSee 0)

/-- A pending access of a core. -/
def Core.acc? (k : Core) (id : Nat) : Option Acc := k.x.accs.find? (fun a => a.id == id)

/-- The ASID and byte address of the `i`-th translation of an access, and what it needs. -/
def Acc.wants (a : Acc) (i : Nat) : Option (BitVec 16 × Nat × Need) :=
  let asid := (a.foot.findSome? (fun f =>
    match f.sp with
    | .main n => some n
    | _ => none)).getD 0
  match a.kind with
  | .xch x => if x.xl[i]? == some Xlat.wait then some (asid, 4096 * (x.far[i]?.getD 0), Need.write) else none
  | .atom x => if i = 0 ∧ x.xl = .wait then some (asid, x.addr, if x.aop = 12 then .readAtomic else .atomic) else none
  | _ => none

/-- What a queued walk asks for; none where its access is gone. -/
def State.walkWants (s : State) (w : Nat × Nat × Nat) : Option (BitVec 16 × Nat × Need) :=
  ((s.coreAt w.1).acc? w.2.1).bind (fun a => a.wants w.2.2)

/-- The partition, ASID and page of a queued miss: misses of one page make one walk (R361). -/
def State.walkPage (s : State) (w : Nat × Nat × Nat) : Option (Nat × BitVec 16 × Nat) :=
  (s.walkWants w).map (fun r => (((s.partOf w.1).map Prod.fst).getD 127, r.1, r.2.1 / 65536))

/-- A miss joins its die's queue: one of 64 walks, or one with a walk under way; at a full queue it waits at its core. -/
def State.joinWalks (s : State) (w : Nat × Nat × Nat) : State :=
  let d := dieOf w.1
  let q := (s.die d).walks
  let pages := q.map s.walkPage
  if q.contains w then s
  else if pages.contains (s.walkPage w) || decide (pages.eraseDups.length < 64) then
    s.modDie d (fun x => { x with walks := x.walks ++ [w] })
  else s

/-- Requests that wait for the walker join its queue (R361). -/
def State.queueWalks (s : State) (id : Nat) (xl : List Xlat) : State :=
  ((xl.zipIdx.filter (fun e => e.1 == Xlat.wait)).map (fun e => (s.here, id, e.2))).foldl State.joinWalks s

/-- An exchange begins: pending marks, outgoing copies, requests, credits (R121, R133, R275); in supervisor state the
bucket is held as it stood (R319). -/
def State.xchStart (s : State) (form : Form) (f : XE) (near far : List Nat) (pkg : Nat) (foot : List Foot) : State :=
  let xl := if form.main then far.zipIdx.map (fun e => s.lookup (slotBase 2 + e.2) .write (4096 * e.1)) else []
  let x : Xch :=
    { form := form, near := near, far := far, pkg := pkg, farVal := s.xchFar f, xl := xl, out := s.xchOut form near,
      inn := [], arrived := false, taken := form != .dm }
  let s1 := if form == .dm || form == .am then s else s.presentBlocks 0 0 near
  let s2 := s1.onCore (fun k => { k with x := { k.x with
    credits := if form.main && !s.supOf .x then k.x.credits - near.length else k.x.credits } })
  (s2.issueAcc .x f.cls foot (if form == .np then 5 else 4) 0 0 (some f.arr.toNat) none (.xch x)).queueWalks s.core.x.nid xl

/-- An exchange word (R275, R276, R331). -/
def xchWord (form : Form) (g : BitVec 5) (f : XE) (s : State) : Host.Outcome State Fault Refusal :=
  .next (s.issueEng .x g fun t =>
    let v := t.xchFar f
    let k := f.cnt.toNat + 1
    let a := t.xchNear f
    let pkg := if form == .np then v.toNat / 2 ^ 40 else 0
    let near := blockRun a k
    let far := blockRun (if form == .np then v.toNat % 2 ^ 40 else v.toNat) k
    let foot := t.xchFoot form near far pkg
    if form == .am && !t.supOf .x then .trap 0x02 0 0
    else if !t.xchIn form a v.toNat k then .trap 0x0A 0 v
    else if t.xchBusy form near far then .trap 0x0B 0 v
    else if Config.xchBufferBlocks < k + t.core.buffered then .trap 0x11 0 v
    else if form == .am && near.any (fun b => t.core.tileBusy (decide (32 ≤ b))) then .trap 0x10 0x6 0
    else if t.xord f.cls foot (if form == .np then 5 else 4) 0 f.arr.toNat then .trap 0x1D 0 v
    else .ok (t.xchStart form f near far pkg foot))

def execXchNd (g : BitVec 5) (f : XE) (s : State) := xchWord .nd g f s
def execXchNm (g : BitVec 5) (f : XE) (s : State) := xchWord .nm g f s
def execXchDm (g : BitVec 5) (f : XE) (s : State) := xchWord .dm g f s
def execXchNp (g : BitVec 5) (f : XE) (s : State) := xchWord .np g f s
def execXchAm (g : BitVec 5) (f : XE) (s : State) := xchWord .am g f s

/-! ### Messages (R273, R277-R281) -/

/-- Fields of a send descriptor (R273). -/
def descNet (v : Word) : Bool := v.getLsbD 31
def descPkg (v : Word) : Nat := (fieldAt v 21 10 : BitVec 10).toNat
def descTag (v : Word) : Nat := (fieldAt v 12 4 : BitVec 4).toNat
def descCore (v : Word) : Nat := (fieldAt v 0 9 : BitVec 9).toNat

/-- A bad descriptor (R273). -/
def State.badDesc (s : State) (v : Word) (push : Bool) : Bool :=
  v &&& 0xFFFFFFFF001F0E00 != 0 || (!descNet v && (descPkg v != 0 || decide (s.core.share.n ≤ descCore v))) ||
    (descNet v && descPkg v == s.nib.pkgId) || (push && descTag v != 0)

/-- k[KI] or zero, plus OFF, modulo 2^64 (R163). -/
def State.xtBase (s : State) (f : XT) : Nat := baseOff (if f.bk then s.kpar .x f.ki else 0) f.off

/-- The core a logical id of a launch on a partition names (R51). -/
def State.coreOf (s : State) (p l : Nat) : Nat :=
  match s.part? p with
  | some x => (s.members x)[l]?.getD 0
  | none => 0

/-- `n` near bytes from `a`, a multiple of 8, with the poison of the words they touch, numbered from zero. -/
def State.payloadSee (s : State) (k a n : Nat) : Store :=
  { bytes := ((s.nearSee k a n).zipIdx.map (fun e => (e.2, e.1))).filter (fun e => e.2 != 0),
    poison := (s.core.near.poison.filter (fun w => decide (a / 8 ≤ w) && decide (8 * w < a + n))).map (· - a / 8) }

/-- `xsend` and `xpush`: the payload is read at issue and delivered later (R277). -/
def sendWord (push : Bool) (g : BitVec 5) (f : XT) (s : State) : Host.Outcome State Fault Refusal :=
  .next (s.issueEng .x g fun t =>
    let a := t.xtBase f
    let n := f.len.toNat
    let v := t.kpar .x f.kd
    if a % 8 ≠ 0 then .trap 0x0C 0 (addrW a)
    else if !nearOk a n then .trap 0x0A 0 (addrW a)
    else if t.badDesc v push then .trap 0x12 0 v
    else
      let data := t.payloadSee 0 a n
      let pkg := if descNet v then some (descPkg v) else none
      let reach := if descNet v then 5
        else if dieOf (t.coreOf t.partNum (descCore v)) = t.myDie then 3 else 4
      let t1 := ((t.present 0 0 (linesOf a n)).didLoad (slotsOf a n)).noReplay
      .ok (t1.issueAcc .x f.cls [] reach 0 0 none
        (some (if reach = 3 then 96 else if reach = 4 then 200 else t.figures.plat))
        (if push then .push pkg (descCore v) data n else .send pkg (descCore v) (descTag v) data n)))

def execXsend (g : BitVec 5) (f : XT) (s : State) := sendWord false g f s
def execXpush (g : BitVec 5) (f : XT) (s : State) := sendWord true g f s

/-- `xland`: its near bytes are landing-marked until its arrival cycle (R277, R278). It reads the core's landing buffer,
whose smallest scope is `.die` (R136). -/
def execXland (g : BitVec 5) (f : XT) (s : State) : Host.Outcome State Fault Refusal :=
  .next (s.issueEng .x g fun t =>
    let a := t.xtBase f
    let n := f.len.toNat
    let v := t.kpar .x f.kd
    let pkg := if descNet v then some (descPkg v) else none
    let foot := feet .near n [a]
    if a % 8 ≠ 0 then .trap 0x0C 0 (addrW a)
    else if !nearOk a n then .trap 0x0A 0 (addrW a)
    else if t.badDesc v false then .trap 0x12 0 v
    else if (slotsOf a n).any t.core.nearBusy then .trap 0x0B 0 (addrW a)
    else if t.xord f.cls foot 3 0 f.arr.toNat then .trap 0x1D 0 (addrW a)
    else .ok (t.issueAcc .x f.cls foot 3 0 0 (some f.arr.toNat) none (.land pkg (descCore v) (descTag v) a n)))

end Sys2Proof.Machine
end

