-- ==== Sys2Proof/Machine/Atomic.lean ====
section
/-! DEFINITION. Atomic words (R282-R286), as they issue. -/

namespace Sys2Proof.Machine

/-- k[KI] or zero, plus OFF, modulo 2^64: the near destination (R163). -/
def State.xaBase (s : State) (f : XA) : Nat := baseOff (if f.bk then s.kpar .x f.ki else 0) f.off

/-- Bytes of a target: W, or a 32-byte cell (R283, R284). -/
def targetBytes (aop w : Nat) : Nat := if 10 ≤ aop then 32 else w

/-- The low bytes of a parameter. -/
def lowWord (n : Nat) (v : Word) : Word := BitVec.ofNat 64 (v.toNat % 2 ^ (8 * n))

/-- Issues an atomic of operation `aop` (10, 11, 12 for `xbinit`, `xbadd`, `xbread`) whose value takes `n` bytes;
`ret` where it returns one (R285, R286). -/
def atomWord (aop n : Nat) (ret : Bool) (need : Need) (g : BitVec 5) (f : XA) (s : State) :
    Host.Outcome State Fault Refusal :=
  .next (s.issueEng .x g fun t =>
    let v := t.kpar .x f.ka
    let a := v.toNat
    let size := targetBytes aop n
    let d := t.xaBase f
    let acq := acqScope f.ordq f.scope
    let rel := relScope f.ordq f.scope
    let foot := feet (if f.al then .main t.core.seq.asid else .die) size [a]
    let reach := if f.al then 4 else t.reachAll foot
    let all := foot ++ (if ret then feet .near n [d] else [])
    if a % size ≠ 0 then .trap 0x0C 0 v
    else if ret && d % n != 0 then .trap 0x0C 0 (addrW d)
    else if (if f.al then decide (2 ^ 52 < a + size) else !t.dieOk a size) then .trap 0x0A 0 v
    else if ret && !nearOk d n then .trap 0x0A 0 (addrW d)
    else if !f.al && (slotsOf a size).any t.core.diePendingOwn then .trap 0x0B 0 v
    else if ret && (slotsOf d n).any t.core.nearBusy then .trap 0x0B 0 (addrW d)
    else if ret && t.xord f.cls all reach rel f.arr.toNat then .trap 0x1D 0 v
    else
      let xl := if f.al then t.lookup (slotBase 2) need a else .ok { pbn := 0, key := 0, at_ := true, w := true }
      let x : Atom :=
        { aop := aop, bytes := n, main := f.al, addr := a, v := lowWord (min n 8) (t.kpar .x f.kv),
          cv := lowWord (min n 8) (t.kpar .x f.kc), xl := xl, dst := if ret then some d else none, joined := false,
          old := none, poisoned := false }
      .ok ((t.noReplay.issueAcc .x f.cls all reach acq rel (if ret then some f.arr.toNat else none)
        (if ret then none else some (if f.al then t.figures.mlat else 64)) (.atom x)).queueWalks t.core.x.nid [xl]))

def execXatom (g : BitVec 5) (f : XA) (s : State) := atomWord f.aop.toNat (2 ^ f.w.toNat) true .atomic g f s
def execXred (g : BitVec 5) (f : XA) (s : State) := atomWord f.aop.toNat (2 ^ f.w.toNat) false .atomic g f s
def execXbinit (g : BitVec 5) (f : XA) (s : State) := atomWord 10 4 false .atomic g f s
def execXbadd (g : BitVec 5) (f : XA) (s : State) := atomWord 11 4 false .atomic g f s
def execXbread (g : BitVec 5) (f : XA) (s : State) := atomWord 12 4 true .readAtomic g f s

end Sys2Proof.Machine
end

