-- ==== Sys2Proof/Machine/Barrier.lean ====
section
/-! DEFINITION. Named barriers (R197-R200). -/

namespace Sys2Proof.Machine

/-- Cores of the partition in the issuing core's group at a scope (R13, R197, R199); over the pod with the cores the
tenant holds on the other packages (R118). -/
def State.groupSize (s : State) (scope : BitVec 3) : Nat :=
  match s.myPart with
  | some (_, x) =>
    if scope == 5 then
      (s.members x).length + (((List.range 1024).filter (· != s.nib.pkgId)).map (Config.podCores s.partNum)).sum
    else ((s.members x).filter (fun c => groupOf c scope == groupOf s.here scope)).length
  | none => 1

/-- The barrier number as a trap's address. -/
def barAddr (b : BitVec 9) : Word := BitVec.ofNat 64 b.toNat

/-- `bar.init` (R198, R199). -/
def execBarInit (h : Head) (f : SN) (s : State) : Host.Outcome State Fault Refusal :=
  .next (s.issueSeq { reads := [f.sa] } h fun t =>
    let c := t.reg 0 f.sa
    if (t.core.seq.slot f.bar.toNat).arrived then .trap 0x0D 0 (barAddr f.bar) false
    else if c == 0 || decide (t.groupSize f.scope < c.toNat) then .trap 0x0E 0 (barAddr f.bar) false
    else
      let sl : BSlot :=
        { c := c.setWidth 20, scope := f.scope, arrived := false, done := false }
      .next (t.onCore (fun k0 =>
        let k := k0.dropResult k0.seq.sup f.bar
        { k with seq := k.seq.setSlot f.bar.toNat sl })))

/-- Whether a core may arrive: C set, scope as set, no arrival outstanding (R199). -/
def State.mayArrive (s : State) (f : SN) : Bool :=
  let sl := s.core.seq.slot f.bar.toNat
  sl.c != 0 && sl.scope == f.scope && !sl.arrived

/-- Arrives (R145, R198): a release at the scope, which performs at the barrier object; it ends a replay window. Once
nothing holds it, it reaches the object within the limit of the completion, which counts from then (R197, log entry 46). -/
def State.arrive (s : State) (f : SN) (fn : Option (BitVec 3)) (v : Word) : State :=
  let sl := s.core.seq.slot f.bar.toNat
  let before := (s.core.unperformed.filter (fun a =>
    a.strm == .seq && !a.isArrive && decide (a.reach ≤ f.scope.toNat))).map Acc.id
  let t := s.noReplay
  (t.addAcc (t.newAcc .seq 0 [] 0 0 f.scope.toNat none (some (t.barLimit f.scope)) before (.arrive f.bar f.scope sl.c fn v))).onCore (fun k0 =>
    let k := k0.dropResult k0.seq.sup f.bar
    { k with seq := k.seq.setSlot f.bar.toNat { sl with arrived := true } })

/-- Waits for the done mark: leaves at once where it is set, else freezes from the next cycle (R198). -/
def State.waitBar (s : State) (f : SN) (dst : Option (BitVec 5)) (gap : BitVec 5) : State :=
  let w : BarWait := { bar := f.bar, scope := f.scope, dst := dst }
  if (s.core.seq.slot f.bar.toNat).done then s.exitBar w (1 + gap.toNat)
  else s.onCore (fun k => { k with seq := { k.seq with
    frz := { k.seq.frz with bar := some w, start := true, gap := gap, ticks := 0 }, half := false } })

/-- `bar.arr` (R198). -/
def execBarArr (h : Head) (f : SN) (s : State) : Host.Outcome State Fault Refusal :=
  .next (s.issueSeq {} h fun t =>
    if !t.mayArrive f then .trap 0x0E 0 (barAddr f.bar) false else .next (t.arrive f none 0))

/-- `bar.wait` (R198, R199): with neither mark set, BARSEQ. The word's scope is not held against the slot's: it waits for
the done mark, and a withdrawal goes by the word's scope (DESIGN CHOICE, log entry 68). -/
def execBarWait (h : Head) (f : SN) (s : State) : Host.Outcome State Fault Refusal :=
  .next (s.issueSeq {} h fun t =>
    let sl := t.core.seq.slot f.bar.toNat
    if !sl.arrived && !sl.done then .trap 0x0E 0 (barAddr f.bar) false else .own (t.waitBar f none h.gap))

/-- An arrival with a wait in one word; resumed in its wait half it only waits (R198, R313), and does so again where that
wait ends in BARSEQ (DESIGN CHOICE, log entry 68). -/
def syncWord (h : Head) (f : SN) (fn : Option (BitVec 3)) (dst : Option (BitVec 5)) (s : State) :
    Host.Outcome State Fault Refusal :=
  .next (s.issueSeq { reads := if fn.isSome && !s.core.seq.half then [f.sa] else [] } h fun t =>
    let sl := t.core.seq.slot f.bar.toNat
    if t.core.seq.half then
      if !sl.arrived && !sl.done then .trap 0x0E 0 (barAddr f.bar) false else .own (t.waitBar f dst h.gap)
    else if !t.mayArrive f then .trap 0x0E 0 (barAddr f.bar) false
    else .own ((t.arrive f fn (t.reg 0 f.sa)).waitBar f dst h.gap))

def execBarSync (h : Head) (f : SN) (s : State) := syncWord h f none none s
def execBarRed (h : Head) (f : SN) (s : State) := syncWord h f (some f.fn) (some f.dst) s

end Sys2Proof.Machine
end

