-- ==== Sys2Proof/Machine/Engine.lean ====
section
/-! DEFINITION. When a core is frozen, and the events of its engines: section starts and retirements, results
landing, landings at their arrival cycles, and the end of a bank-conflict freeze. An event whose condition does
not hold changes nothing. -/

namespace Sys2Proof.Machine

/-! ### Events -/

/-- An event of core `c`: where its condition holds on that core, it acts there. -/
def State.atCore (s : State) (c : Nat) (ok : State → Bool) (f : State → State) : Host.Outcome State Fault Refusal :=
  if ok (s.focus c) then .next (f (s.focus c)).bump else .next s

/-- An event of no core. -/
def State.whenOk (s : State) (ok : Bool) (f : State → State) : Host.Outcome State Fault Refusal :=
  if ok then .next (f s).bump else .next s

/-- Changes a pending access. -/
def Core.modAcc (k : Core) (id : Nat) (f : Acc → Acc) : Core :=
  { k with x := { k.x with accs := k.x.accs.map (fun a => if a.id == id then f a else a) } }

/-- An access is over. -/
def State.endAcc (s : State) (id : Nat) : State :=
  s.onCore (fun k => { k with x := { k.x with accs := k.x.accs.filter (fun a => a.id != id) } })

/-! ### Freezes (R24, R66, R68) -/

/-- The data of a landing is present, and what is ordered before it has performed (R68, R142). -/
def Core.present (k : Core) (a : Acc) : Bool :=
  match a.kind with
  | .xch x => x.arrived && k.clearFor a
  | .land _ _ _ _ _ => (k.claim a).isSome && k.clearFor a
  | _ => a.performed

/-- A landing is late. -/
def Core.lateNow (k : Core) : Bool := k.x.accs.any (fun a => a.due == some 0 && !k.paused a && !k.present a)

/-- The core is frozen or stopped: no word issues, no section starts, SCYC holds (R24, R66, R379). -/
def Core.frozen (k : Core) : Bool :=
  let f := k.seq.frz
  k.obs.stopped || f.bankOn || f.lateOn || k.lateNow || k.seq.lateDue || ((f.align.isSome || f.bar.isSome) && !f.start)

/-! ### Sections (R60-R64, R156, R233) -/

/-- The engines an AFTER field 1 and 2 name, in a stream's header (R42). -/
def otherEngines : Stream → Stream × Stream
  | .m => (.v, .x)
  | .v => (.m, .x)
  | _ => (.m, .v)

/-- An AFTER check passes (R61). -/
def Core.afterOk (k : Core) (q : QEntry) (e : Stream) (f : BitVec 12) : Bool :=
  f == 0xFFF ||
    (match q.last[engIdx e]?.getD none with
     | some (o, n) => n == f && decide (o < (k.eng e).retired)
     | none => false)

/-- What stops a section at its start: POISON for a header word held poisoned, ILLOP for a faulty header, ORDER for an
AFTER check. -/
def Core.startFault (k : Core) (e : Stream) (q : QEntry) (h : Header) : Option (BitVec 8) :=
  if k.cur.poisoned ((k.cur.find e q.secno.toNat).getD 0) 8 then some 0x19
  else if h.faulty e then some 0x01
  else if !k.afterOk q (otherEngines e).1 h.after1 || !k.afterOk q (otherEngines e).2 h.after2 then some 0x04
  else none

/-- The entry at an engine's queue head may start (R60, R311). -/
def Core.mayStart (k : Core) (e : Stream) : Bool :=
  let x := k.eng e
  !k.frozen && x.run == none && x.gap == 0 && !k.seq.draining &&
    (match x.queue with
     | q :: _ => !q.fresh && !q.held && !q.failed
     | [] => false)

/-- Byte offset of a section's header; the plane's start where the plane has none. -/
def Core.headerAt (k : Core) (e : Stream) (q : QEntry) : Nat := (k.cur.find e q.secno.toNat).getD 0

/-- The head entry starts, or raises its trap and stays (R60-R62). -/
def State.startSection (s : State) (e : Stream) : State :=
  match (s.core.eng e).queue with
  | [] => s
  | q :: rest =>
    let a := s.core.headerAt e q
    let h := s.core.cur.header a
    match s.core.startFault e q h with
    | some c =>
      let r : TrapRec :=
        { cause := c, sub := 0, eng := e, secno := q.secno, widx := 0, addr := 0, resume := none, sup := q.sup }
      (s.recordTrap r).onCore (fun k => k.modEng e (fun x => { x with queue := { q with failed := true } :: rest }))
    | none =>
      let r : Running := { entry := q, hdr := h, base := a + 8, next := 0, wait := 0, stopped := false }
      let s1 := s.onCore (fun k =>
        let k1 := k.modEng e (fun x => { x with queue := rest, run := some r, started := x.started + 1 })
        if h.rot then { k1 with vec := { k1.vec with rb := k1.vec.rb + 4 } } else k1)
      s1.note 0x1 e q.secno.toNat 0 s1.core.seq.scyc

def execSectionStart (c : Nat) (e : Stream) (s : State) : Host.Outcome State Fault Refusal :=
  s.atCore c (fun t => e != .seq && t.core.mayStart e) (fun t => t.startSection e)

/-- A running section has retired (R63): its last word has issued, or a trap stopped it, and nothing of it is
under way. -/
def Core.mayRetire (k : Core) (e : Stream) : Bool :=
  let x := k.eng e
  let n := x.retired
  match x.run with
  | some r =>
    (r.stopped || decide (r.hdr.len.toNat ≤ r.next)) &&
      k.x.flight.all (fun q => !(q.strm == e && q.ord == n)) && k.x.accs.all (fun a => !(a.strm == e && a.ord == n)) &&
      (e != .m || (k.mat.loads.all (fun l => l.ord != n) && k.mat.feeds.all (fun f => f.ord != n)))
  | none => false

/-- The section retires; a GAP still to run holds the next start (R64). -/
def State.retireSection (s : State) (e : Stream) : State :=
  match (s.core.eng e).run with
  | some r =>
    (s.onCore (fun k => k.modEng e (fun x => { x with run := none, gap := r.wait, retired := x.retired + 1, ret := x.ret + 1, fences := [] }))).note
      0x2 e r.entry.secno.toNat 0 s.core.seq.scyc
  | none => s

def execSectionRetire (c : Nat) (e : Stream) (s : State) : Host.Outcome State Fault Refusal :=
  s.atCore c (fun t => e != .seq && t.core.mayRetire e) (fun t => t.retireSection e)

/-! ### Results (R22, R65) -/

/-- Removes an element of a list. -/
def dropAt {α : Type} (l : List α) (i : Nat) : List α := l.take i ++ l.drop (i + 1)

/-- A due clear of the flags a result raises, which comes first in its cycle (R227, R268). -/
def Result.clearsFor (q r : Result) : Bool :=
  q.due == 0 &&
    (match q.land, r.land with
     | .tflgClear t, .row u _ _ _ _ => t == u
     | .tflgClear t, .tflgSet u _ => t == u
     | .tileClear t, .tflgSet u _ => t == u
     | .vflgClear _, _ => r.flags != 0
     | _, _ => false)

/-- A result of the same matrix word whose write comes first (R267). -/
def Result.leads (q r : Result) : Bool :=
  q.strm == .m && r.strm == .m && q.ord == r.ord && q.widx == r.widx && q.land.meets r.land

/-- The `i`-th result in flight may land: at its bound, or earlier where it need not wait for it; not before a due clear
of its flags, nor before an earlier write of its word to a place of its own. -/
def Core.mayLandAt (k : Core) (i : Nat) : Bool :=
  match k.x.flight[i]? with
  | some r =>
    (r.due == 0 || !r.exact) && k.x.flight.all (fun q => !q.clearsFor r) && (k.x.flight.take i).all (fun q => !q.leads r)
  | none => false

/-- The `i`-th result in flight lands. -/
def execResultLanding (c i : Nat) (s : State) : Host.Outcome State Fault Refusal :=
  s.atCore c (fun t => t.core.mayLandAt i)
    (fun t => match t.core.x.flight[i]? with
      | some r => (t.onCore (fun k => { k with x := { k.x with flight := dropAt k.x.flight i } })).landResult r
      | none => t)

/-! ### Landings (R25, R68, R277, R283) -/

/-- A result a pending access lands. -/
def Acc.result (a : Acc) (flags : BitVec 32) (l : Land) : Result :=
  { strm := a.strm, ord := a.ord, widx := a.widx, due := 0, exact := true, raced := a.raced, flags := flags, land := l }

/-- Near bytes land from the X stream, with the poison of the words that hold them (R367). -/
def State.landNear (s : State) (a : Acc) (ad : Nat) (bs : List Byte) (poison : List Nat) : State :=
  let s1 := (s.present 0 0 (linesOf ad bs.length)).landResult (a.result 0 (.near (bs.zipIdx.map (fun e => (ad + e.2, e.1)))))
  s1.onCore (fun k => { k with near := { k.near with
    poison := poison.foldl (fun l w => insertNat (ad / 8 + w) l) k.near.poison } })

/-- An `xland` claims its payload: XLEN where the lengths differ (R277, R281). -/
def State.landPayload (s : State) (a : Acc) (i ad n : Nat) : State :=
  match s.core.x.landing[i]? with
  | some p =>
    let s1 := ((s.onCore (fun k => { k with x := { k.x with landing := dropAt k.x.landing i } })).endAcc a.id).noReplay
    if p.len ≠ n then s1.laterTrap a 0x13 0 (addrW ad)
    else s1.landNear a ad (p.data.read 0 n) p.data.poison
  | none => s

/-- A landing at its arrival cycle. -/
def State.land (s : State) (a : Acc) : State :=
  match a.kind with
  | .load ps d =>
    match ps.find? Piece.poisoned with
    | some p => (s.endAcc a.id).laterTrap a 0x19 0 (addrW p.addr)
    | none => let r := loadLand ps d; (s.endAcc a.id).landResult (a.result r.2 r.1)
  | .land _ _ _ ad n =>
    match s.core.claim a with
    | some i => s.landPayload a i ad n
    | none => s
  | .atom x =>
    match x.dst, x.old with
    | some ad, some v =>
      (s.endAcc a.id).landNear a ad (bytesOfNat x.bytes v.toNat) (if x.poisoned then [0] else [])
    | _, _ => s
  | _ => s

/-- A landing other than an exchange's is due and present. -/
def Core.mayLand (k : Core) (a : Acc) : Bool :=
  a.due == some 0 && k.present a && !k.paused a && !k.seq.frz.lateOn &&
    (match a.kind with
     | .load _ _ => true
     | .land _ _ _ _ _ => true
     | .atom x => x.dst.isSome
     | _ => false)

def execLandingDue (c id : Nat) (s : State) : Host.Outcome State Fault Refusal :=
  s.atCore c (fun t => match t.core.acc? id with
      | some a => t.core.mayLand a
      | none => false)
    (fun t => match t.core.acc? id with
      | some a => t.land a
      | none => t)

/-! ### Bank conflicts (R18) -/

def execBankConflictEnd (c : Nat) (s : State) : Host.Outcome State Fault Refusal :=
  s.atCore c (fun t => t.core.seq.frz.bankOn && t.core.seq.frz.bank == 0)
    (fun t => (t.noteFreeze 1).onCore (fun k => { k with seq := { k.seq with
      frz := { k.seq.frz with bankOn := false, ticks := 0 } } }))

end Sys2Proof.Machine
end

