-- ==== Sys2Proof/Machine/Banks.lean ====
section
/-! DEFINITION. Accesses as they perform at die banks and OML ports: die loads and stores, atomics, and entries of
merged reductions (R123, R124, R142, R148, R152, R153, R283, R284). -/

namespace Sys2Proof.Machine

/-! ### Lines and entries (R152) -/

/-- Some entry of a line has not applied. -/
def State.lineHeld (s : State) (main : Bool) (line : Nat) : Bool :=
  s.entries.any (fun e => e.main == main && e.line == line)

/-- The line's open entry closes. -/
def State.closeLine (s : State) (main : Bool) (line : Nat) : State :=
  { s with entries := s.entries.map (fun (e : Entry) => if e.main == main && e.line == line then { e with closed := true } else e) }

/-- The physical line of the die store that holds a die byte of the focus core's partition. -/
def State.dieLine (s : State) (a : Nat) : Nat := (diePlace s.myMembersOn a).2 / 128

/-- A die block is pending at its banks under an exchange of any core of the partition (R123). -/
def State.dieMarked (s : State) (blk : Nat) : Bool :=
  s.cores.any (fun c => (s.partOf c.1).map Prod.fst == some s.partNum && c.2.diePendingBank blk)

/-! ### Die loads and stores (R123, R124, R148) -/

/-- The events of a load or store. -/
def Acc.pieces (a : Acc) : List Piece :=
  match a.kind with
  | .load ps _ => ps
  | .store ps => ps
  | _ => []

/-- The events changed. -/
def Acc.setPieces (a : Acc) (ps : List Piece) : Acc :=
  match a.kind with
  | .load _ d => { a with kind := .load ps d }
  | .store _ => { a with kind := .store ps }
  | _ => a

/-- Changes one of a list. -/
def modAt {α : Type} (l : List α) (i : Nat) (f : α → α) : List α :=
  l.zipIdx.map (fun e => if e.2 = i then f e.1 else e.1)

/-- A performed access that lands nothing is over. -/
def State.dropIfDone (s : State) (id : Nat) : State :=
  match s.core.acc? id with
  | some a => if a.performed && a.due.isNone then s.endAcc id else s
  | none => s

/-- A load's event reads: from the block its slot held at the access's first beat, or from the banks. -/
def State.readPiece (s : State) (a : Acc) (p : Piece) : Piece :=
  match a.snap.find? (fun e => e.1 == p.addr / 4096) with
  | some e =>
    { p with data := e.2.read (p.addr % 4096) p.len, done := true, poisoned := e.2.poisoned (p.addr % 4096) p.len }
  | none =>
    { p with data := s.dieRead s.myMembersOn p.addr p.len, done := true,
             poisoned := s.dieStore.poisoned (diePlace s.myMembersOn p.addr).2 p.len }

/-- A store's event writes; a word written whole loses its poison. -/
def State.writePiece (s : State) (p : Piece) : State :=
  let m := s.dieStore.writeDie s.myMembersOn p.addr (p.data.zip p.en)
  let w := (diePlace s.myMembersOn p.addr).2 / 8
  let full := p.len == 8 && p.en.all (· == 0xFF)
  { s with dieStore := if full then { m with poison := m.poison.filter (· != w) } else m }

/-- The events of the beat refused at its bank, written nowhere (R123). -/
def refuseBeat (ps : List Piece) (a : Nat) : List Piece :=
  ps.map (fun (p : Piece) => if p.addr / 128 == a / 128 then { p with done := true } else p)

/-- The die of a die byte's home. -/
def State.homeDie (s : State) (a : Nat) : Nat := dieOf (diePlace s.myMembersOn a).1

/-- The dies an event's data leaves and reaches. -/
def State.pieceWay (s : State) (a : Acc) (p : Piece) : Nat × Nat :=
  match a.kind with
  | .load _ _ => (s.homeDie p.addr, s.myDie)
  | _ => (s.myDie, s.homeDie p.addr)

/-- The event's beat meets a failed link (R396). -/
def State.pieceCut (s : State) (a : Acc) (p : Piece) : Bool :=
  p.len != 0 && s.linkFailed (s.pieceWay a p).1 (s.pieceWay a p).2

/-- What becomes of an event whose path has failed: a load's bytes come poisoned, a store's are lost (DEDUCED, log
entry 70). -/
def Piece.cut (p : Piece) : Piece := { p with data := List.replicate p.len 0, done := true, poisoned := true }

/-- One event performs at its bank. -/
def State.performUnit (s : State) (a : Acc) (u : Nat) (p : Piece) : State :=
  if s.pieceCut a p then
    (s.onCore (fun k => k.modAcc a.id (fun x => x.setPieces (modAt a.pieces u Piece.cut)))).dropIfDone a.id
  else if p.len != 0 && s.lineHeld false (s.dieLine p.addr) then s.closeLine false (s.dieLine p.addr)
  else
    match a.kind with
    | .load ps d =>
      (s.onCore (fun k => k.modAcc a.id (fun x => { x with kind := .load (modAt ps u (s.readPiece a)) d }))).dropIfDone a.id
    | .store ps =>
      if p.len != 0 && s.dieMarked (p.addr / 4096) then
        ((s.onCore (fun k => k.modAcc a.id (fun x => x.setPieces (refuseBeat ps p.addr)))).laterTrap a 0x0B 0
          (addrW p.addr)).dropIfDone a.id
      else
        ((s.writePiece p).onCore (fun k =>
          k.modAcc a.id (fun x => x.setPieces (modAt ps u (fun q => { q with done := true }))))).dropIfDone a.id
    | _ => s

/-- An event may go its way: nothing ordered before its access is left, and the partition owns an opportunity on the link,
or the link has failed (R142, R350). -/
def State.mayGo (s : State) (a : Acc) (p : Piece) : Bool :=
  !p.done && s.core.clearFor a && (p.len == 0 || s.pieceCut a p || s.fadOpen (s.pieceWay a p).1 (s.pieceWay a p).2)

/-- The event `u` of a load or store may perform. -/
def State.mayPerform (s : State) (id u : Nat) : Bool :=
  match s.core.acc? id with
  | some a =>
    (match a.pieces[u]? with
     | some p => s.mayGo a p
     | none => false)
  | none => false

def execAccessPerform (c id u : Nat) (s : State) : Host.Outcome State Fault Refusal :=
  s.atCore c (fun t => t.mayPerform id u) (fun t =>
    match t.core.acc? id with
    | some a =>
      (match a.pieces[u]? with
       | some p => t.performUnit a u p
       | none => t)
    | none => t)

/-! ### Atomics (R283, R284) -/

/-- The new value of a target; none where it is left unwritten. A cell whose reserved bits are set becomes the free
value `fr` (R106), except under `xbinit`, which writes every bit of it. -/
def atomNew (aop bytes old v cv fr : Nat) : Option Nat :=
  let n := 8 * bytes
  match aop with
  | 0 => some ((old + v) % 2 ^ n)
  | 1 => some (if sgn n v < sgn n old then v else old)
  | 2 => some (if sgn n old < sgn n v then v else old)
  | 3 => some (min old v)
  | 4 => some (max old v)
  | 5 => some (old &&& v)
  | 6 => some (old ||| v)
  | 7 => some (old ^^^ v)
  | 8 => some v
  | 9 => if old = cv then some v else none
  | 10 => some (cellInit v)
  | 11 => some (if cellOk old then cellAdd old v else fr)
  | _ => if cellOk old then none else some fr

/-- The value a returning atomic lands. -/
def atomOld (aop old fr : Nat) : Nat :=
  if aop = 12 then (if cellOk old then cellRead old else fr % 2 ^ 32) else old

/-- The place of a target: in the die stores, or in main memory by its leaf. -/
def State.atomPlace (s : State) (x : Atom) (l : Leaf) : Nat :=
  if x.main then 4096 * l.pbn + x.addr % 4096 else (diePlace s.myMembersOn x.addr).2

/-- Reads a target: its value, and whether it comes poisoned. A home that is parked or on a failed channel returns
poisoned data (R127). -/
def State.atomRead (s : State) (main : Bool) (key : BitVec 11) (a n : Nat) : Nat × Bool :=
  if main then
    let r := s.mainRead key a n
    (natOfBytes r.1, r.2 || s.lostBlock (a / 4096))
  else (s.dieStore.num a n, s.dieStore.poisoned a n)

/-- Writes a target. -/
def State.atomWrite (s : State) (main : Bool) (key : BitVec 11) (a n v : Nat) : State :=
  if main then s.mainWrite key a (bytesOfNat n v) else { s with dieStore := s.dieStore.write a (bytesOfNat n v) }

/-- A free cell for the present event: any value of the cell's format, its reserved bits 63:20 zero (R10, R106). -/
def State.freeCell (s : State) (k : Nat) : Nat :=
  (Config.free 256 (16777216 * s.free + k) &&& ~~~(fieldMask 256 20 44)).toNat

/-- An atomic's read half was uncorrectable: `n` updates are lost (R153). The target is named by its physical address, or
by its die byte address. -/
def State.raiseLost (s : State) (main : Bool) (p : Nat) (a : Nat) (n : Nat) (ev : BitVec 8 → Word → Word → ErrEv) : State :=
  if main then s.raiseAt (p / 4096) (ev 0x20 (BitVec.ofNat 64 p) (BitVec.ofNat 64 n))
  else
    let c := p / Config.shareBytes
    s.raise (dieOf c) (bankOfCore c) (ev 0x10 (BitVec.ofNat 64 a) (BitVec.ofNat 64 n))

/-- An atomic reads and writes its operand in one event; a poisoned operand is not written, and a returned value
lands poisoned (R153). -/
def State.performAtom (s : State) (a : Acc) (x : Atom) (l : Leaf) : State :=
  let n := targetBytes x.aop x.bytes
  let p := s.atomPlace x l
  let r := s.atomRead x.main l.key p n
  let fr := s.freeCell 0
  let s1 :=
    if r.2 then s.raiseLost x.main p x.addr 1 (fun src ad d => s.coreEvent 0x0A src ad d a.strm a.secno a.widx)
    else
      match atomNew x.aop x.bytes r.1 x.v.toNat x.cv.toNat fr with
      | some v => s.atomWrite x.main l.key p n v
      | none => s
  if x.dst.isSome then
    s1.onCore (fun k => k.modAcc a.id (fun b => { b with
      kind := .atom { x with old := some (BitVec.ofNat 64 (atomOld x.aop r.1 fr)), poisoned := r.2 } }))
  else s1.endAcc a.id

/-- A word that merges: a reduction or binned add that returns nothing (R152). -/
def Atom.merges (x : Atom) : Bool := x.dst.isNone && (decide (x.aop ≤ 7) || x.aop == 11)

/-- A reduction joins the open entry of its line, or opens one; behind a lock the entry is closed at once. -/
def State.joinEntry (s : State) (a : Acc) (x : Atom) (l : Leaf) (lock : Bool) : State :=
  let p := s.atomPlace x l
  let m : Member := { core := s.here, acc := a.id, addr := p, key := l.key, v := x.v }
  let fits := fun (e : Entry) => e.main == x.main && e.line == p / 128 && !e.closed
  let same := fun (e : Entry) => fits e && e.aop == x.aop && e.bytes == x.bytes
  let e0 : Entry := { main := x.main, line := p / 128, aop := x.aop, bytes := x.bytes, members := [m], closed := lock }
  let s1 :=
    if !lock && s.entries.any same then
      { s with entries := s.entries.map (fun (e : Entry) => if same e then { e with members := e.members ++ [m] } else e) }
    else
      let t := s.closeLine x.main (p / 128)
      { t with entries := t.entries ++ [e0] }
  s1.onCore (fun k => k.modAcc a.id (fun b => { b with kind := .atom { x with joined := true } }))

/-- Cause of an abandonment or of XAFLT for a fault (R126, R286, R359). -/
def faultCause (kind : BitVec 8) : BitVec 8 := if isXlatFault kind then 1 else 2

/-- A translation fault on a request of the core in focus is traced and may freeze its blotter (R384, R389). -/
def State.noteFault (s : State) (a : Acc) (kind : BitVec 8) (ad : Word) : State :=
  let s1 := s.note 0xC a.strm a.secno.toNat a.widx.toNat ad
  if isXlatFault kind then s1.blotTrigger s1.here 3 else s1

/-- The path to an atomic's die home has failed. -/
def State.atomCut (s : State) (x : Atom) : Bool := !x.main && s.linkFailed s.myDie (s.homeDie x.addr)

/-- An atomic whose path has failed does not perform; a value it returns comes poisoned (DEDUCED, log entry 70). -/
def State.loseAtom (s : State) (a : Acc) (x : Atom) : State :=
  if x.dst.isSome then
    s.onCore (fun k => k.modAcc a.id (fun b => { b with kind := .atom { x with old := some (Config.free 64 (16777216 * s.free)), poisoned := true } }))
  else s.endAcc a.id

/-- An atomic reaches its home (R285, R286). -/
def State.atomArrive (s : State) (a : Acc) (x : Atom) : State :=
  match x.xl with
  | .wait => s
  | .bad kind lvl =>
    let ad := faultAddr kind lvl (x.addr / 4096) 0
    ((s.noteFault a kind ad).endAcc a.id).laterTrap a 0x15 (faultCause kind) ad
  | .ok l =>
    let p := s.atomPlace x l
    if s.atomCut x then s.loseAtom a x
    else if !x.main && s.dieMarked (x.addr / 4096) then (s.endAcc a.id).laterTrap a 0x0B 0 (addrW x.addr)
    else if x.merges then s.joinEntry a x l (x.main && s.locked (Home.near l.pbn))
    else if s.lineHeld x.main (p / 128) then s.closeLine x.main (p / 128)
    else s.performAtom a x l

/-- An atomic's path carries it: its channel, or a link on which the partition owns an opportunity; a path that has failed
gives it its fate. -/
def State.atomWay (s : State) (x : Atom) (l : Leaf) : Bool :=
  if x.main then s.carries l.pbn || s.broken l.pbn else s.atomCut x || s.fadOpen s.myDie (s.homeDie x.addr)

/-- An atomic may reach its home: translated, not held, its path there; one that does not merge waits for a locked home,
and a value it returns before its arrival cycle for room in the landing buffer (R69, R125, R142). -/
def State.mayAtom (s : State) (id : Nat) : Bool :=
  match s.core.acc? id with
  | some a =>
    (match a.kind with
     | .atom x =>
       x.old.isNone && !x.joined && s.core.clearFor a &&
         (match x.xl with
          | .wait => false
          | .bad _ _ => true
          | .ok l =>
            s.atomWay x l && (!x.main || x.merges || !s.locked (Home.near l.pbn)) &&
              (x.dst.isNone || a.due == some 0 || s.core.landingRoom x.bytes))
     | _ => false)
  | none => false

def execAtomicPerform (c id : Nat) (s : State) : Host.Outcome State Fault Refusal :=
  s.atCore c (fun t => t.mayAtom id) (fun t =>
    match t.core.acc? id with
    | some a =>
      (match a.kind with
       | .atom x => t.atomArrive a x
       | _ => t)
    | none => t)

/-! ### Merged entries (R152, R153) -/

/-- An entry may apply: it is the oldest of its line, and its home is not locked, nor on a channel that carries no traffic. -/
def State.mayApply (s : State) (i : Nat) : Bool :=
  match s.entries[i]? with
  | some e =>
    (s.entries.take i).all (fun x => !(x.main == e.main && x.line == e.line)) &&
      (!e.main || (!s.locked (Home.near (e.line / 32)) && (s.carries (e.line / 32) || s.broken (e.line / 32))))
  | none => false

/-- One member's update. -/
def State.applyMember (s : State) (e : Entry) (m : Member) : State :=
  let n := targetBytes e.aop e.bytes
  match atomNew e.aop e.bytes (s.atomRead e.main m.key m.addr n).1 m.v.toNat 0 (s.freeCell m.acc) with
  | some v => s.atomWrite e.main m.key m.addr n v
  | none => s

/-- The access of a member is over. -/
def State.endMember (s : State) (m : Member) : State :=
  s.modCore m.core (fun k => { k with x := { k.x with accs := k.x.accs.filter (fun a => a.id != m.acc) } })

/-- The record of a merged entry whose target is poisoned: of its first member's partition, its DETAIL the members
lost. -/
def State.entryLost (s : State) (e : Entry) : State :=
  match e.members.find? (fun m => (s.atomRead e.main m.key m.addr (targetBytes e.aop e.bytes)).2) with
  | some m =>
    let p := ((s.partOf m.core).map Prod.fst).getD 127
    let a := ((s.coreAt m.core).acc? m.acc).map (fun b => match b.kind with
      | .atom x => x.addr
      | _ => 0)
    s.raiseLost e.main m.addr (a.getD 0) e.members.length (fun src ad d => plainEvent 0x0A src p ad d)
  | none => s

/-- All members apply in one event; where a target is poisoned, the entry writes nothing and its loss is recorded
(R153). -/
def State.applyEntry (s : State) (i : Nat) (e : Entry) : State :=
  let bad := e.members.any (fun m => (s.atomRead e.main m.key m.addr (targetBytes e.aop e.bytes)).2)
  let s1 := if bad then s.entryLost e else e.members.foldl (fun t m => t.applyMember e m) s
  let s2 := e.members.foldl State.endMember s1
  { s2 with entries := dropAt s2.entries i }

def execMergedEntryApply (i : Nat) (s : State) : Host.Outcome State Fault Refusal :=
  s.whenOk (s.mayApply i) (fun t =>
    match t.entries[i]? with
    | some e => t.applyEntry i e
    | none => t)

end Sys2Proof.Machine
end

