-- ==== Sys2Proof/Machine/Xfer.lean ====
section
/-! DEFINITION. The later phases of exchanges (R121-R128, R378), payloads reaching their receivers (R277-R280),
credits (R133) and the walker (R361). -/

namespace Sys2Proof.Machine

/-! ### Cores of one partition -/

/-- Changes every core of the focus core's partition. -/
def State.mapPart (s : State) (f : Core → Core) : State :=
  let p := s.partNum
  let s1 := { s with
    others := s.others.map (fun (e : Nat × Core) => if (s.partOf e.1).map Prod.fst == some p then (e.1, f e.2) else e) }
  s1.onCore f

/-! ### Abandonment (R126) -/

/-- A main form's physical blocks, once every pair is translated. -/
def leavesOf : List Xlat → Option (List Leaf)
  | [] => some []
  | .ok l :: r => (leavesOf r).map (l :: ·)
  | _ :: _ => none

/-- The first fault among translations: its pair, kind and level. -/
def firstBad (xl : List Xlat) : Option (Nat × BitVec 8 × Nat) :=
  xl.zipIdx.findSome? (fun e =>
    match e.1 with
    | .bad k l => some (e.2, k, l)
    | _ => none)

/-- The homes an exchange names, each with its key: main blocks by their leaves, or blocks of another package (R118). -/
def State.xchHomes (s : State) (x : Xch) (ls : List Leaf) : List (Home × BitVec 11) :=
  if x.form == .np then x.far.map (fun v => (s.remoteHome x.pkg v, Config.remoteKey s.partNum x.pkg v))
  else ls.map (fun l => (Home.near l.pbn, l.key))

/-- Two pairs of an exchange name one home (R276). -/
def twice (hs : List (Home × BitVec 11)) : Bool := !decide (hs.map Prod.fst).Nodup

/-- Raises an event of the core in focus where its source unit's events go; `ad` is a near, die or main byte address
(R371, R372). -/
def State.raiseSrc (s : State) (src : BitVec 8) (ad : Nat) (ev : ErrEv) : State :=
  if src = 0x10 then s.raiseDie ad ev
  else if src = 0x20 ∨ src = 0x21 then s.raiseAt (ad / 4096) ev
  else if src = 0x30 ∨ src = 0x31 then s.raise s.myDie 14 ev
  else s.raiseHere ev

/-- An exchange is abandoned: its marks, locks and copies go, and XABND is raised. -/
def State.abandonXch (s : State) (a : Acc) (cause : BitVec 8) (ad : Word) : State :=
  (s.dropAcc a.id).laterTrap a 0x14 cause ad

/-- An exchange is abandoned for a cause 3 to 5, which is recorded at the unit where it arose (R126, R371). -/
def State.failXch (s : State) (a : Acc) (x : Xch) (cause : Nat) (src : BitVec 8) (ad : Nat) : State :=
  (s.raiseSrc src ad (s.coreEvent 0x08 src (BitVec.ofNat 64 ad) (BitVec.ofNat 64 cause) a.strm a.secno a.widx)).abandonXch a
    (BitVec.ofNat 8 cause) x.farVal

/-! ### Far-side data (R121-R125, R150) -/

/-- Some beat of a die block is part written by a store of the core. -/
def Core.midBeat (k : Core) (blk : Nat) : Bool :=
  k.x.accs.any (fun a =>
    match a.kind with
    | .store ps => ps.any (fun p => p.addr / 4096 == blk && p.done && p.len != 0 &&
        ps.any (fun q => q.addr / 128 == p.addr / 128 && !q.done))
    | _ => false)

/-- Die blocks of an exchange, and the die they lie on. -/
def Xch.dies (x : Xch) : List Nat := if x.form == .nd then x.far else if x.form == .dm then x.near else []
def Xch.dieAt (x : Xch) : Option Nat := x.dies.head?.map (· / 16384)

/-- Accesses ordered before an exchange that touch its places have performed (R150). -/
def Core.placeClear (k : Core) (a : Acc) : Bool :=
  a.after.all (fun i => k.x.accs.all (fun b => b.id != i || b.performed || !footsMeet b.foot a.foot))

/-- The path of an exchange has failed: where, and the address it names. The link to its die blocks, or the channel of one
of its main homes (R126, R396). -/
def State.xchCut (s : State) (x : Xch) (ls : List Leaf) : Option (BitVec 8 × Nat) :=
  match x.dieAt with
  | some d => if s.linkFailed d s.myDie then some (0x30, 0) else (ls.find? (fun l => s.broken l.pbn)).map (fun l => (0x21, 4096 * l.pbn))
  | none => (ls.find? (fun l => s.broken l.pbn)).map (fun l => (0x21, 4096 * l.pbn))

/-- A home may be read: it is not locked, and a main one lies on a channel that carries traffic and holds an entry of the
partition (R125, R132). -/
def State.homeOpen (s : State) (h : Home) : Bool :=
  !s.locked h && (h.pod || (s.carries h.pbn && s.hasSlot s.partNum h.pbn))

/-- The way to the die blocks of an exchange is open, and none of their beats is part written. -/
def State.dieOpen (s : State) (x : Xch) : Bool :=
  (match x.dieAt with
   | some d => s.fadOpen d s.myDie
   | none => true) &&
  x.dies.all (fun b => s.cores.all (fun c => !((s.partOf c.1).map Prod.fst == some s.partNum && c.2.midBeat b)))

/-- The data may be taken in: the landing buffer has room for it, or its arrival cycle has come (R25, R69). -/
def Core.takes (k : Core) (a : Acc) (x : Xch) : Bool := a.due == some 0 || k.landingRoom (4096 * x.near.length)

/-- Far-side data may arrive, or the exchange meets its fate. -/
def State.mayArriveX (s : State) (a : Acc) (x : Xch) : Bool :=
  !x.arrived && s.core.placeClear a &&
    ((firstBad x.xl).isSome ||
      (match leavesOf x.xl with
       | none => false
       | some ls =>
         let hs := s.xchHomes x ls
         twice hs || (s.xchCut x ls).isSome || (hs.all (fun h => s.homeOpen h.1) && s.dieOpen x && s.core.takes a x)))

/-- Lines of the homes and die blocks of an exchange. -/
def State.xchLines (s : State) (x : Xch) (ls : List Leaf) : List (Bool × Nat) :=
  ls.flatMap (fun (l : Leaf) => (List.range 32).map (fun i => (true, 32 * l.pbn + i))) ++
    x.dies.flatMap (fun b => (List.range 32).map (fun i => (false, s.dieLine (4096 * b + 128 * i))))

/-- A home's block as an exchange reads it; a parked home gives its stale words, all poisoned (R127, R378). -/
def State.readHome (s : State) (h : Home × BitVec 11) : Store :=
  let b := if h.1.pod then s.remote.block h.1.pbn else s.mainBlock h.2 h.1.pbn
  if s.isParked h.1 then b.allPoison else b

/-- Data has arrived for an exchange: its homes are locked, and a die side is read at its banks. -/
def State.takeIn (s : State) (a : Acc) (x : Xch) (hs : List (Home × BitVec 11)) (inn : List Store) : State :=
  let out := if x.form == .dm then x.near.map (s.dieBlock s.myMembersOn) else x.out
  let s1 := { s with locks := s.locks ++ hs.map (fun (h : Home × BitVec 11) => ({ home := h.1, key := h.2, core := s.here, id := a.id } : Lock)) }
  s1.onCore (fun k => k.modAcc a.id (fun b => { b with
    kind := .xch { x with inn := inn, out := out, arrived := true, taken := true } }))

/-- The data as it stands at the far side. -/
def State.takeFar (s : State) (a : Acc) (x : Xch) (ls : List Leaf) : State :=
  let hs := s.xchHomes x ls
  s.takeIn a x hs (if x.form == .nd then x.far.map (s.dieBlock s.myMembersOn) else hs.map s.readHome)

/-- Kinds of fault another package's walk may meet (R357). -/
def podKinds : List (BitVec 8) := [0x01, 0x02, 0x03, 0x04, 0x05, 0x06, 0x11, 0x13]

/-- What another package's walk makes of a request: a fault of some pair, kind and level, or none. Its tables are its own,
so it is open (R118, R359; log entry 8). -/
def State.podFault (s : State) (x : Xch) : Option (Nat × BitVec 8 × Nat) :=
  if x.form == .np && s.choice 1 then
    let n := fun (i m : Nat) => (Config.free 32 (16777216 * s.free + i)).toNat % m
    some (n 2 x.far.length, podKinds[n 3 podKinds.length]?.getD 0x01, n 4 4)
  else none

/-- A translation or key fault of a pair abandons the exchange (R126, R359). -/
def State.faultXch (s : State) (a : Acc) (x : Xch) (f : Nat × BitVec 8 × Nat) : State :=
  let ad := faultAddr f.2.1 f.2.2 (x.far[f.1]?.getD 0) x.pkg
  (s.noteFault a f.2.1 ad).abandonXch a (faultCause f.2.1) ad

/-- Far-side data arrives, or the exchange is abandoned (R126). A parked home is read poisoned by a supervisor's
restoring exchange; any other reads poison or is abandoned, by a free choice. -/
def State.arriveX (s : State) (a : Acc) (x : Xch) : State :=
  match firstBad x.xl, leavesOf x.xl with
  | some f, _ => s.faultXch a x f
  | none, none => s
  | none, some ls =>
    let hs := s.xchHomes x ls
    match s.podFault x, s.xchCut x ls, hs.find? (fun h => s.isParked h.1) with
    | some f, _, _ => s.faultXch a x f
    | none, some c, _ => s.failXch a x 5 c.1 c.2
    | none, none, p =>
      if twice hs then s.abandonXch a 1 x.farVal
      else if p.isSome && !a.sup && s.choice 0 then
        s.failXch a x 5 (if x.form == .np then 0x31 else 0x20) (4096 * (p.elim 0 (fun h => h.1.pbn)))
      else
        let lines := (s.xchLines x ls).filter (fun e => s.lineHeld e.1 e.2)
        if lines.isEmpty then s.takeFar a x ls else lines.foldl (fun t e => t.closeLine e.1 e.2) s

def execFarDataArrival (c id : Nat) (s : State) : Host.Outcome State Fault Refusal :=
  s.atCore c (fun t => match t.core.acc? id with
      | some a => (match a.kind with
        | .xch x => t.mayArriveX a x
        | _ => false)
      | none => false)
    (fun t => match t.core.acc? id with
      | some a => (match a.kind with
        | .xch x => t.arriveX a x
        | _ => t)
      | none => t)

/-! ### Commit (R122, R124) -/

/-- A beat-by-beat near read keeps the block it began with (R124). -/
def Beats.keep (b : Beats) (slot : Nat) (old : Store) : Beats :=
  if b.seen.contains slot && b.snap.all (fun e => e.1 != slot) then { b with snap := b.snap ++ [(slot, old)] } else b

/-- The matrix engine's reads under way keep the old blocks of slots. -/
def Mat.keep (m : Mat) (near : Store) (slots : List Nat) : Mat :=
  let f := fun (b : Beats) => slots.foldl (fun b n => b.keep n (near.block n)) b
  { m with loads := m.loads.map (fun l => { l with at_ := f l.at_ }),
           feeds := m.feeds.map (fun l => { l with at_ := f l.at_ }) }

/-- A die load that touches a block keeps the old one where its first beat is performed, and else reads every beat of
it again (R124). -/
def Acc.keepDie (a : Acc) (blk : Nat) (old : Store) : Acc :=
  match a.kind with
  | .load ps d =>
    let mine := ps.filter (fun p => p.addr / 4096 == blk && p.len != 0)
    match mine.map (fun p => p.addr / 128) with
    | [] => a
    | b :: bs =>
      let first := bs.foldl min b
      if mine.any (fun p => p.addr / 128 == first && p.done) then
        (if a.snap.any (fun e => e.1 == blk) then a else { a with snap := a.snap ++ [(blk, old)] })
      else
        { a with kind := .load (ps.map (fun p => if p.addr / 4096 == blk then { p with done := false, poisoned := false } else p)) d }
  | _ => a

/-- Writes a die block at a commit. -/
def State.commitDie (s : State) (blk : Nat) (new : Store) : State :=
  let ms := s.myMembersOn
  let old := s.dieBlock ms blk
  (s.mapPart (fun k => { k with x := { k.x with accs := k.x.accs.map (fun a => a.keepDie blk old) } })).setDieBlock ms blk new

/-- The near side takes the far blocks. -/
def State.commitNear (s : State) (x : Xch) : State :=
  let ps := x.near.zip x.inn
  match x.form with
  | .dm => ps.foldl (fun t e => t.commitDie e.1 e.2) s
  | .am => s.onCore (fun k => { k with mat := ps.foldl (fun m e => m.setAccBlock e.1 e.2) k.mat })
  | _ =>
    (s.onCore (fun k => { k with
      mat := k.mat.keep k.near x.near,
      near := ps.foldl (fun m e => m.setBlock e.1 e.2) k.near })).presentBlocks 0 0 x.near

/-- The far side takes the outgoing copies: die blocks at once, others by write-back. -/
def State.commitFar (s : State) (a : Acc) (x : Xch) : State :=
  match x.form with
  | .nd => (x.far.zip x.out).foldl (fun t e => t.commitDie e.1 e.2) s
  | _ =>
    let hs := s.xchHomes x ((leavesOf x.xl).getD [])
    let w : WriteBack :=
      { id := a.id, homes := (hs.zip x.out).map (fun e => ({ home := e.1.1, key := e.1.2, block := e.2, passed := 0 } : HomeWrite)),
        blocks := x.near.length, sup := a.sup, token := s.core.share.token }
    s.onCore (fun k => { k with x := { k.x with wbs := k.x.wbs ++ [w] } })

/-- The number of a form in a trace record (R389). -/
def Form.code : Form → Nat
  | .nd => 0
  | .nm => 1
  | .dm => 2
  | .np => 3
  | .am => 4

/-- All pairs commit in one event. -/
def State.commit (s : State) (a : Acc) (x : Xch) : State :=
  let s1 := (((s.endAcc a.id).noReplay).commitNear x).commitFar a x
  s1.note 0x7 a.strm a.secno.toNat a.widx.toNat
    (BitVec.ofNat 64 (x.farVal.toNat % 2 ^ 40 + 2 ^ 40 * (x.near.length - 1) + 2 ^ 44 * x.form.code))

def execExchangeCommit (c id : Nat) (s : State) : Host.Outcome State Fault Refusal :=
  s.atCore c (fun t => match t.core.acc? id with
      | some a => (match a.kind with
        | .xch _ => a.due == some 0 && t.core.present a && !t.core.paused a && !t.core.seq.frz.lateOn
        | _ => false)
      | none => false)
    (fun t => match t.core.acc? id with
      | some a => (match a.kind with
        | .xch x => t.commit a x
        | _ => t)
      | none => t)

/-! ### Write-back (R121, R127, R128, R409) -/

/-- Partitions whose mailbox home is a physical block. -/
def State.homesOf (s : State) (pbn : Nat) : List (Nat × BitVec 11) :=
  s.parts.filterMap (fun e =>
    match e.2.desc.home with
    | some (b, k) => if b == pbn then some (e.1, k) else none
    | none => none)

/-- A write-back that leaves a mailbox home with STATUS 0x00 asks Nib to take the command (R409). -/
def State.askHome (s : State) (pbn : Nat) : State :=
  (s.homesOf pbn).foldl (fun t e =>
    if (t.mainRead e.2 (4096 * pbn + 2) 1).1 == [0] && !t.nib.asked.contains (.part e.1) then
      { t with nib := { t.nib with asked := t.nib.asked ++ [.part e.1] } }
    else t) s

/-- A home's block is written, but for the beats that have passed the port already; a supervisor's restoring exchange ends
its parked state (R365, R378). -/
def State.writeHome (s : State) (sup : Bool) (h : HomeWrite) : State :=
  if h.home.pod then { s with remote := s.remote.setBlock h.home.pbn h.block }
  else
    let s1 := s.mainWriteBeats h.key h.home.pbn h.passed (32 - h.passed) h.block
    (if sup then { s1 with parked := s1.parked.filter (fun e => e.1 != h.home) } else s1).askHome h.home.pbn

/-- The lowest free entry of a recovery buffer. -/
def Die.freeEntry (d : Die) : Nat :=
  ((List.range (d.recovery.length + 1)).find? (fun i => (Sparse.find d.recovery i).isNone)).getD 0

/-- A home's copy is parked in a die's recovery buffer, and a fatal event is raised (R127). -/
def State.park (s : State) (d : Nat) (h : HomeWrite) (ev : Nat → Nat → ErrEv) : State :=
  let i := (s.die d).freeEntry
  let s1 := s.modDie d (fun k => { k with recovery := Sparse.put k.recovery i { home := h.home, key := h.key, block := h.block } })
  { s1 with parked := (h.home, d) :: s1.parked.filter (fun e => e.1 != h.home) }.raise d 15 (ev (h.home.pbn % 2 ^ 36) i)

/-- A copy of the core in focus is parked on its die. -/
def State.parkHere (s : State) (h : HomeWrite) : State :=
  s.park s.myDie h (fun pbn i => s.coreEvent 0x0D 0x38 (BitVec.ofNat 64 pbn) (BitVec.ofNat 64 i) .x 0 0)

/-- A write-back ends: its locks and buffer space are released. -/
def State.endWb (s : State) (id : Nat) : State :=
  { s.onCore (fun k => { k with x := { k.x with wbs := k.x.wbs.filter (fun w => w.id != id) } }) with
    locks := s.locks.filter (fun l => !(l.core == s.here && l.id == id)) }

/-- A write-back of the core. -/
def Core.wb? (k : Core) (id : Nat) : Option WriteBack := k.x.wbs.find? (fun w => w.id == id)

/-- The path of a home being written has failed. -/
def State.homeCut (s : State) (h : HomeWrite) : Bool := !h.home.pod && s.broken h.home.pbn

/-- A home can be written: over the network, or on a channel that carries traffic and holds an entry of the partition. -/
def State.homeReady (s : State) (h : HomeWrite) : Bool :=
  h.home.pod || (s.carries h.home.pbn && s.hasSlot s.partNum h.home.pbn)

def execWriteBackDone (c id : Nat) (s : State) : Host.Outcome State Fault Refusal :=
  s.atCore c (fun t => match t.core.wb? id with
      | some w => w.homes.all t.homeReady
      | none => false)
    (fun t => match t.core.wb? id with
      | some w => (w.homes.foldl (fun u h => u.writeHome w.sup h) t).endWb id
      | none => t)

/-! ### Failed paths (R126-R128, R280, R369) -/

/-- A committed exchange a path of which fails: homes on a failed channel are parked, and of those `on` the path the first,
and others by free choices; the rest are written. -/
def State.failWb (s : State) (w : WriteBack) (on : HomeWrite → Bool) : State :=
  (w.homes.zipIdx.foldl (fun t e =>
    if s.homeCut e.1 || (on e.1 && (e.2 == w.homes.findIdx on || s.choice e.2)) then t.parkHere e.1
    else t.writeHome w.sup e.1) s).endWb w.id

/-- The homes a path failure strikes: those on failed channels; any, where no channel has failed. -/
def State.struck (s : State) (w : WriteBack) (h : HomeWrite) : Bool := s.homeCut h || !w.homes.any s.homeCut

/-- Some of the first `n` words of a store poisoned: one that a free value picks, and any others by free choices (R128,
R280). -/
def State.damage (s : State) (base n : Nat) (m : Store) : Store :=
  let pick := (Config.free 16 (16777216 * s.free + base)).toNat % n
  { m with poison := normNat (m.poison ++ (List.range n).filter (fun i => i == pick || s.choice (base + 1 + i))) }

/-- The traffic of a pending access meets a failed path. -/
def State.failAcc (s : State) (a : Acc) : State :=
  let put := fun (f : AccKind) => s.onCore (fun k => k.modAcc a.id (fun b => { b with kind := f }))
  match a.kind with
  | .xch x =>
    if x.arrived then s
    else if x.form == .np then s.failXch a x 5 0x31 0
    else
      match leavesOf x.xl with
      | some (l :: _) => s.failXch a x 5 0x21 (4096 * l.pbn)
      | _ => if x.dies.isEmpty then s else s.failXch a x 5 0x30 0
  | .send p d t m n => put (.send p d t (s.damage 0 ((n + 7) / 8) m) n)
  | .push p d m n => put (.push p d (s.damage 0 ((n + 7) / 8) m) n)
  | .load ps d => (put (.load (ps.map (fun p => if p.done then p else p.cut)) d)).dropIfDone a.id
  | .store ps => (put (.store (ps.map (fun p => if p.done then p else p.cut)))).dropIfDone a.id
  | .atom x => if x.old.isSome || x.joined then s else s.loseAtom a x
  | _ => s

def execPathFailure (c id : Nat) (s : State) : Host.Outcome State Fault Refusal :=
  s.atCore c (fun t => (t.core.acc? id).isSome || (t.core.wb? id).isSome) (fun t =>
    match t.core.acc? id, t.core.wb? id with
    | some a, _ => t.failAcc a
    | none, some w => t.failWb w (t.struck w)
    | none, none => t)

/-! ### Payloads (R271, R277-R280, R320, R404) -/

/-- The core accepts payloads of a launch now: its share of the launch is in place, under its context. -/
def Core.accepts (k : Core) (launch : Nat) : Bool :=
  k.share.launch == launch && (k.share.ctx == none || k.share.ctx == some k.seq.ctx)

/-- The core still has a share of a launch that has not ended. -/
def Core.holds (k : Core) (launch : Nat) : Bool :=
  (k.share :: k.saved).any (fun x => x.launch == launch && x.phase != .done && x.phase != .idle && x.phase != .swapOut)

/-- A payload of the same kind for the core's launch waits in the die's receiver hold, and goes first (R278). -/
def State.behind (s : State) (rcv : Nat) (p : Payload) : Bool :=
  (s.die (dieOf rcv)).hold.any (fun h => h.core == rcv && h.pay.launch == p.launch && h.pay.push == p.push)

/-- A payload goes into the die's receiver hold; none where it has no room. -/
def State.holdPay (s : State) (rcv : Nat) (p : Payload) : Option State :=
  let d := dieOf rcv
  if payBytes ((s.die d).hold.map Held.pay) + p.len ≤ Config.holdBytes then
    some (s.modDie d (fun x => { x with hold := x.hold ++ [{ core := rcv, pay := p }] }))
  else none

/-- A payload comes to a core: discarded where its `xland` was abandoned or the share has ended, taken into the
landing buffer or inflow queue, or held; none where there is no room. -/
def State.take (s : State) (rcv : Nat) (p : Payload) : Option State :=
  let k := s.coreAt rcv
  if !p.push && k.x.voids.contains (p.launch, p.pkg, p.src, p.tag) then
    some (s.setCore rcv { k with x := { k.x with voids := k.x.voids.erase (p.launch, p.pkg, p.src, p.tag) } })
  else if !k.holds p.launch then
    some (s.raise (dieOf rcv) (bankOfCore rcv) { plainEvent 0x0C 0x05 s.partNum 0 1 with ofCore := true, core := BitVec.ofNat 9 rcv })
  else if !k.accepts p.launch || s.behind rcv p then s.holdPay rcv p
  else if p.push then
    (if k.x.inflow.length < Config.inflowDepth then some (s.setCore rcv { k with x := { k.x with inflow := k.x.inflow ++ [p] } })
    else none)
  else if k.landingRoom p.len then some (s.setCore rcv { k with x := { k.x with landing := k.x.landing ++ [p] } })
  else none

/-- The access of a sender in the package is over. -/
def State.endSender (s : State) : Option (Nat × Nat) → State
  | some (c, id) => s.modCore c (fun k => { k with x := { k.x with accs := k.x.accs.filter (fun a => a.id != id) } })
  | none => s

/-- A payload of a sender reaches a core; a push that finds no room, or others waiting, waits behind them at the receiving
die, its access still under way (R279). An `xsend` without room waits at its source (R69). -/
def State.receive (s : State) (src : Option (Nat × Nat)) (rcv : Nat) (p : Payload) : Option State :=
  match if p.push && !(s.coreAt rcv).x.waiting.isEmpty then none else s.take rcv p with
  | some t => some (t.endSender src)
  | none =>
    if p.push then some (s.modCore rcv (fun k => { k with x := { k.x with waiting := k.x.waiting ++ [(src, p)] } })) else none

/-- Pushes that wait at the core in focus enter its queue as entries come free, in their order (R279). -/
def State.takeWaiting (s : State) : List (Option (Nat × Nat) × Payload) → State
  | [] => s
  | w :: r =>
    match (s.onCore (fun k => { k with x := { k.x with waiting := r } })).take s.here w.2 with
    | some t => (t.endSender w.1).takeWaiting r
    | none => s

/-- What has waited for room enters the core: held payloads, then pushes. -/
def State.letIn (s : State) : State :=
  let t := s.refill
  t.takeWaiting t.core.x.waiting

/-- The index of a core among its partition's cores (R273). -/
def State.partIndex (s : State) (c : Nat) : Nat :=
  match s.myPart with
  | some (_, x) => (s.members x).findIdx (· == c)
  | none => 0

/-- A frame for a peer is sent and kept until it is acknowledged (R404), with the core and access that wait for that; core
512 stands for none. -/
def State.podPut (s : State) (pkg : Nat) (who : Nat × Nat) (body : PodBody) : State :=
  let p := (s.peers.find? (fun x => x.pkg == pkg)).getD { pkg := pkg, next := 0, expect := 0, unacked := [] }
  let fr : PodFrame := { pkg := s.nib.pkgId, seq := p.next, body := body }
  { s with peers := { p with next := p.next + 1, unacked := p.unacked ++ [(fr, who.1, who.2, 0, 0)] } ::
      s.peers.filter (fun x => x.pkg != pkg) }

/-- A frame of an access of the core in focus. -/
def State.podSend (s : State) (pkg id : Nat) (body : PodBody) : State := s.podPut pkg (s.here, id) body

/-- A frame of an access waits for its acknowledgement. -/
def State.podSent (s : State) (id : Nat) : Bool :=
  s.peers.any (fun p => p.unacked.any (fun e => e.2.1 == s.here && e.2.2.1 == id))

/-- The send descriptor of a pod message (R273). -/
def podDesc (pkg tag core : Nat) : Word := BitVec.ofNat 64 (2 ^ 31 + pkg * 2 ^ 21 + tag * 2 ^ 12 + core)

/-- A message leaves for another package; XDEST where that package holds no such core of the tenant (R273, R289). -/
def State.podGo (s : State) (a : Acc) (pkg tag core : Nat) (body : PodBody) : State :=
  if Config.podCores s.partNum pkg ≤ core then (s.endAcc a.id).laterTrap a 0x12 0 (podDesc pkg tag core)
  else s.podSend pkg a.id body

/-- The payload of a message within the package. -/
def State.payloadOf (s : State) (tag len : Nat) (m : Store) (push : Bool) : Payload :=
  { launch := s.core.share.launch, pkg := none, src := s.core.share.lcore, tag := tag, len := len, data := m, push := push }

/-- A payload performs at its receiver, poisoned where its link has failed (R280, R396). -/
def State.deliver (s : State) (a : Acc) (rcv : Nat) (p : Payload) : Option State :=
  let q := if s.linkFailed s.myDie (dieOf rcv) then { p with data := s.damage 0 ((p.len + 7) / 8) p.data } else p
  if s.linkFailed s.myDie (dieOf rcv) || s.fadOpen s.myDie (dieOf rcv) then s.receive (some (s.here, a.id)) rcv q else none

/-- A push of the core waits at a receiver (R279). -/
def State.pushWaits (s : State) (id : Nat) : Bool :=
  s.cores.any (fun c => c.2.x.waiting.any (fun w => w.1 == some (s.here, id)))

/-- Messages of an earlier issue of the core to the same place go first (R278); a push that waits at its receiver has gone. -/
def State.oldest (s : State) (a : Acc) : Bool :=
  s.core.x.accs.all (fun b => decide (a.id ≤ b.id) ||
    (match a.kind, b.kind with
     | .send p d t _ _, .send q e u _ _ => !(p == q && d == e && t == u)
     | .push p d _ _, .push q e _ _ => !(p == q && d == e) || s.pushWaits b.id
     | _, _ => true))

/-- What an `xsend` does next; none while it cannot. -/
def State.sendStep (s : State) (id : Nat) : Option State :=
  match s.core.acc? id with
  | some a =>
    if !s.core.clearFor a || !s.oldest a then none
    else
      match a.kind with
      | .send none d t m n => s.deliver a (s.coreOf s.partNum d) (s.payloadOf t n m false)
      | .send (some p) d t m n =>
        if s.podSent id then none
        else some (s.podGo a p t d (.send s.partNum d (s.partIndex s.here) t (m.read 0 n) m.poison))
      | _ => none
  | none => none

/-- What an `xpush` does next; none while it cannot. -/
def State.pushStep (s : State) (id : Nat) : Option State :=
  match s.core.acc? id with
  | some a =>
    if !s.core.clearFor a || !s.oldest a || s.pushWaits id then none
    else
      match a.kind with
      | .push none d m n => s.deliver a (s.coreOf s.partNum d) (s.payloadOf 0 n m true)
      | .push (some p) d m n =>
        if s.podSent id then none
        else some (s.podGo a p 0 d (.push s.partNum d (s.partIndex s.here) (m.read 0 n) m.poison))
      | _ => none
  | none => none

def execPayloadDelivery (c id : Nat) (s : State) : Host.Outcome State Fault Refusal :=
  s.atCore c (fun t => (t.sendStep id).isSome) (fun t => (t.sendStep id).getD t)

def execInflowPush (c id : Nat) (s : State) : Host.Outcome State Fault Refusal :=
  s.atCore c (fun t => (t.pushStep id).isSome) (fun t => (t.pushStep id).getD t)

/-! ### Credits (R133) -/

/-- A credit is due. -/
def State.creditDue (s : State) : Bool :=
  decide (s.core.x.credits < Config.creditMax) && decide (s.figures.mrate ≤ s.core.x.credit)

def execCreditRefill (c : Nat) (s : State) : Host.Outcome State Fault Refusal :=
  s.atCore c State.creditDue (fun t => t.onCore (fun k => { k with
    x := { k.x with credits := k.x.credits + 1, credit := k.x.credit - t.figures.mrate } }))

/-! ### The walker (R357, R360, R361) -/

/-- Physical addresses of the entries a walk reads. -/
def walkPath (s : State) (p : Nat) (x : Config.Descriptor) (tkey : BitVec 11) (va : Nat) : Nat → Nat → List Nat
  | 0, _ => []
  | n + 1, t =>
    let l := 3 - n
    if !inWindow x t (tableBytes l) then []
    else
      let a := t + 8 * (va / 2 ^ levelShift l % levelEntries l)
      a :: (match entryStep s p x l (BitVec.ofNat 64 (natOfBytes (s.mainRead tkey a 8).1)) with
        | .ok (.inr t') => walkPath s p x tkey va n t'
        | _ => [])

/-- The entries a walk under an ASID of a partition reads. -/
def State.walkReads (s : State) (p : Nat) (asid : BitVec 16) (va : Nat) : List Nat :=
  match s.part? p with
  | some x =>
    (match x.desc.bindings.find? (fun b => b.asid == asid) with
     | some b => walkPath s p x.desc b.tkey va 4 b.root
     | none => [])
  | none => []

/-- Gives a translation its result. -/
def Acc.setXlat (a : Acc) (i : Nat) (r : Xlat) : Acc :=
  match a.kind with
  | .xch x => { a with kind := .xch { x with xl := modAt x.xl i (fun _ => r) } }
  | .atom x => { a with kind := .atom { x with xl := r } }
  | _ => a

/-- A walk's result as a request uses it. -/
def xlatOf (r : Except XFault (Word × Nat)) (n : Need) (va : Nat) : Xlat :=
  match r with
  | .error (k, l) => .bad k l
  | .ok (e, l) =>
    match permit n e l va with
    | .ok f => .ok f
    | .error (k, m) => .bad k m

/-- Misses of a die's cores that wait for the walker, queued or at their cores. -/
def State.misses (s : State) (d : Nat) : List (Nat × Nat × Nat) :=
  (s.cores.filter (fun e => dieOf e.1 == d)).flatMap (fun e => e.2.x.accs.flatMap (fun a =>
    ((List.range 16).filter (fun i => (a.wants i).isSome)).map (fun i => (e.1, a.id, i))))

/-- The walker finishes the walk at the head of its queue; misses of the same page join it, and misses that a full queue
kept at their cores come in (R361). -/
def State.finishWalk (s : State) (d : Nat) (c p : Nat) (asid : BitVec 16) (va : Nat) : State :=
  let r := s.walk p asid va
  let shift := match r with
    | .ok (_, l) => levelShift l
    | .error _ => 16
  let joins := fun (t : State) (w : Nat × Nat × Nat) =>
    match t.walkWants w with
    | some (b, v, n) =>
      if b == asid && v / 2 ^ shift == va / 2 ^ shift && ((t.partOf w.1).map Prod.fst == some p) then
        t.modCore w.1 (fun k => k.modAcc w.2.1 (fun a => a.setXlat w.2.2 (xlatOf r n v)))
      else t
    | none => t
  let s1 := (s.die d).walks.foldl joins s
  let s2 := s1.modDie d (fun x => { x with walks := x.walks.filter (fun w => (s1.walkWants w).isSome) })
  let s3 := (s2.misses d).foldl State.joinWalks s2
  match r with
  | .ok (e, l) => s3.fillTlb c { part := p, asid := asid, vpage := va / 65536, level := l, entry := e }
  | .error _ => s3

/-- A table entry of the walk lies in a locked home, or on a channel that carries no traffic (R361, R398). -/
def State.walkBlocked (s : State) (p : Nat) (asid : BitVec 16) (va : Nat) : Bool :=
  (s.walkReads p asid va).any (fun a =>
    s.locked (Home.near (a / 4096)) || !(s.carries (a / 4096) || s.broken (a / 4096)))

/-- The walk at the head of a die's queue; entries of merged reductions on its lines apply first (R152). -/
def State.walkStep (s : State) (d : Nat) (w : Nat × Nat × Nat) : State :=
  match s.walkWants w with
  | none => s.modDie d (fun x => { x with walks := x.walks.drop 1 })
  | some (asid, va, _) =>
    let p := match s.partOf w.1 with
      | some (n, _) => n
      | none => 127
    let held := (s.walkReads p asid va).filter (fun a => s.lineHeld true (a / 128))
    if held.isEmpty then s.finishWalk d w.1 p asid va else held.foldl (fun t a => t.closeLine true (a / 128)) s

/-- A queued walk may run: it is the die's oldest, and no table entry it reads is held. -/
def State.mayWalk (s : State) (c id i : Nat) : Bool :=
  match (s.die (dieOf c)).walks with
  | w :: _ =>
    w == (c, id, i) &&
      (match s.walkWants w with
       | none => true
       | some (asid, va, _) =>
         !s.walkBlocked (match s.partOf c with
           | some (n, _) => n
           | none => 127) asid va)
  | [] => false

def execTranslationWalk (c id i : Nat) (s : State) : Host.Outcome State Fault Refusal :=
  s.whenOk (s.mayWalk c id i) (fun t => t.walkStep (dieOf c) (c, id, i))

end Sys2Proof.Machine
end

