-- ==== Sys2Proof/Machine/Time.lean ====
section
/-! DEFINITION. Time: what a tick of a die's clock does to its cores, to the die and to the package (R18, R66-R71,
R379-R390); beacons, releases and alignment (R72-R74, R396); barriers at their objects (R197-R199). -/

namespace Sys2Proof.Machine

/-! ### Bank conflicts (R18, R387) -/

/-- Puts a number into a list in rising order. -/
def sortIn (n : Nat) : List Nat → List Nat
  | [] => [n]
  | k :: r => if n ≤ k then n :: k :: r else k :: sortIn n r

/-- The requesters of a bank's beats in a cycle, in priority order. -/
def bankBeats (bs : List (Nat × Nat)) (b : Nat) : List Nat :=
  ((bs.filter (fun e => e.2 % 16 == b)).map Prod.fst).foldr sortIn []

/-- Beats beyond the first at the fullest bank. -/
def conflict (bs : List (Nat × Nat)) : Nat := (List.range 16).foldl (fun m b => max m ((bankBeats bs b).length - 1)) 0

/-- A saturating 32-bit counter. -/
def satInc (v : BitVec 32) : BitVec 32 := if v == BitVec.allOnes 32 then v else v + 1

/-- In frozen cycle `j` each bank charges the requester of its beat after the `j` served before (R387). -/
def chargeAt (m : Sparse (BitVec 32)) (bs : List (Nat × Nat)) (j : Nat) : Sparse (BitVec 32) :=
  (List.range 16).foldl (fun m b =>
    match (bankBeats bs b)[j]? with
    | some r => Sparse.set 0 m (16 * r + b) (satInc (Sparse.get 0 m (16 * r + b)))
    | none => m) m

/-! ### The end of a cycle -/

/-- An engine's counters; a section that stands still keeps its own. -/
def Engine.cycle (x : Engine) (still : Bool) : Engine :=
  { x with queue := x.queue.map (fun q => { q with fresh := false }),
           run := if still then x.run else x.run.map (fun r => { r with wait := r.wait - 1 }), gap := x.gap - 1 }

/-- The matrix engine's windows and streams. -/
def Mat.cycle (m : Mat) : Mat :=
  { m with feed := m.feed - 1, load := m.load.map (· - 1), used := m.used.map (· - 1), macc := m.macc.map (· - 1),
           clr := m.clr.map (· - 1), feeds := m.feeds.map (fun f => { f with wait := f.wait - 1 }),
           armed := !(m.loads.isEmpty && m.feeds.isEmpty) }

/-- A cycle of a pending access: towards its arrival cycle, and, where nothing holds it, towards its bound (R142, R172). -/
def Acc.cycle (a : Acc) (held : Bool) : Acc :=
  { a with due := a.due.map (· - 1), by_ := if held then a.by_ else a.by_.map (· - 1) }

/-- Cycles of the exchange engine: windows, accesses but for those that stand still, and the time towards the next credit,
which counts in user state (R133, R319). -/
def XEng.cycle (x : XEng) (still held : Acc → Bool) (sup : Bool) : XEng :=
  { x with flight := x.flight.map (fun r => { r with due := r.due - 1 }),
           accs := x.accs.map (fun a => if still a then a else a.cycle (held a)),
           credit := if sup then x.credit else if x.credits < Config.creditMax then x.credit + 1 else 0 }

/-- SCYC counts while the thread's share runs, in user state (R24, R305). The cycles of an `sret` are still the
supervisor's: SCYC is in force from the first resumed word (R323). -/
def Core.counts (k : Core) : Bool := !k.seq.sup && k.seq.back == 0 && (k.share.phase == .running || k.share.phase == .entry || k.share.phase == .ending)

/-- A cycle of SCYC ends: everything counted in cycles goes on, and a bank conflict of the cycle freezes the core
(R18, R66). -/
def Core.endCycle (k : Core) : Core :=
  let bs := k.obs.beats.headD []
  let n := conflict bs
  { k with
    seq := { k.seq with
      wait := k.seq.wait - 1, back := k.seq.back - 1,
      scyc := if k.counts then k.seq.scyc + 1 else k.seq.scyc,
      frz := { k.seq.frz with start := false, bankOn := n != 0, bank := n, run := 0,
                              ticks := if k.seq.frz.align.isSome || k.seq.frz.bar.isSome then k.seq.frz.ticks else 0 } },
    em := k.em.cycle (k.pausedRun .m), ev := k.ev.cycle (k.pausedRun .v), ex := k.ex.cycle (k.pausedRun .x),
    mat := k.mat.cycle,
    x := k.x.cycle k.paused (fun a => !k.clearFor a) k.seq.sup,
    obs := { k.obs with
      beats := k.obs.beats.drop 1, jam := if n = 0 then [] else bs,
      steps := if k.counts then k.obs.steps.map (· - 1) else k.obs.steps } }

/-- A `bar.kill` on its way, whose bound is counted in ticks (R330). -/
def Result.ticks (r : Result) : Bool :=
  match r.land with
  | .kill _ _ => true
  | _ => false

/-- In a frozen tick: results in flight whose bound counts ticks come nearer to it, and all of them while the core runs
its results out. -/
def XEng.settle (x : XEng) (all : Bool) : XEng :=
  { x with flight := x.flight.map (fun r => if all || r.ticks then { r with due := r.due - 1 } else r) }

/-- The results in flight go on though the core stands: in a stop, and once LATE is raised (R312, R379). -/
def Core.settles (k : Core) : Bool := k.obs.stopped || k.seq.lateDue

/-- Arrivals on their way to their objects go on through a freeze: their limits are in ticks (R197). -/
def Core.ageArrivals (k : Core) : Core :=
  { k with x := { k.x with accs := k.x.accs.map (fun a =>
      if a.isArrive && !k.paused a && k.clearFor a then a.cycle false else a) } }

/-- A tick of a frozen or stopped core (R67, R70, R386, R387). -/
def Core.frozenTick (k0 : Core) : Core :=
  let go := k0.settles
  let k : Core := { k0 with
    mat := if go then k0.mat.cycle else k0.mat, x := k0.ageArrivals.x.settle go,
    obs := if go then { k0.obs with beats := k0.obs.beats.drop 1 } else k0.obs }
  let f := k.seq.frz
  if k.obs.stopped then k
  else
    let late := f.lateOn || k.lateNow || (k.seq.lateDue && f.bar.isNone && f.align.isNone)
    let i := if f.bankOn then 0 else if late then 1 else if f.bar.isSome then 2 else 3
    let o := if f.bankOn && f.bank != 0 then { k.obs with cmx := chargeAt k.obs.cmx k.obs.jam (conflict k.obs.jam + 1 - f.bank) } else k.obs
    { k with
      seq := { k.seq with frz := { f with
        bank := f.bank - 1, lateOn := k.lateNow, ticks := f.ticks + 1,
        run := if !k.seq.lateDue && !k.seq.sup && (late || f.bar.isSome || f.align.isSome) then f.run + 1 else 0 } },
      obs := if k.seq.sup then o else { o with frz := o.frz.setIfInBounds i ((o.frz[i]?.getD 0) + 1) } }

/-- What every tick counts: PRELIM, the watchdog while a launch is VALID and the share has not ended (R318, R385), the
time since the blotter's clock mark. -/
def Core.everyTick (k : Core) (valid : Bool) : Core :=
  let watch := valid && k.share.phase != .done && k.share.phase != .swapOut
  { k with
    seq := { k.seq with reqTicks := if k.seq.req then k.seq.reqTicks + 1 else k.seq.reqTicks },
    obs := { k.obs with
      issued := false, hit := false, bsince := k.obs.bsince + 1,
      wdogCnt := if k.obs.issued then 0 else if watch then k.obs.wdogCnt + 1 else k.obs.wdogCnt } }

/-- The implicit PALIGN of R52: the core freezes, also again after a return from the supervisor, unless the alignment is
met. -/
def State.realign (s : State) : State :=
  let k := s.core
  if k.share.phase == .aligning && !k.seq.sup && !k.seq.draining && k.seq.pre.isNone && k.seq.frz.align.isNone then
    (if s.alignMet 4 k.share.lbt then s.onCore (fun k => { k with share := { k.share with phase := .entry } })
     else s.onCore (fun k => { k with seq := { k.seq with frz := { k.seq.frz with align := some (4, k.share.lbt), gap := 0 } } }))
  else s

/-- A launch of the core's partition is VALID. -/
def State.validHere (s : State) : Bool :=
  match s.myPart with
  | some (_, x) => x.valid
  | none => false

/-- A blotter that has recorded writes a clock mark after 2^20 ticks without one (R390). -/
def State.blotMark (s : State) : State :=
  let o := s.core.obs
  if o.ben && !o.bfrozen && !o.bmark && decide (2 ^ 20 ≤ o.bsince) then
    let m := s.markWord s.myDie
    let now := s.tick
    s.onCore (fun k => { k with obs := k.obs.putMark now m })
  else s

/-- A tick of the core in focus; what has waited for room then comes in. -/
def State.tickCore (s : State) : State :=
  let v := s.validHere
  let k := s.core
  if k.frozen then
    let s1 := s.onCore (fun k => k.frozenTick.everyTick v)
    let s2 := if k.seq.frz.lateOn && !s1.core.seq.frz.lateOn then
        (s1.noteFreeze 0).onCore (fun k => { k with seq := { k.seq with frz := { k.seq.frz with ticks := 0 } } })
      else s1
    s2.realign.blotMark.letIn
  else (s.onCore (fun k => k.endCycle.everyTick v)).realign.blotMark.letIn

/-- Ticks each listed core. -/
def State.tickCores (s : State) : List Nat → State
  | [] => s
  | c :: r => ((s.focus c).tickCore).tickCores r

/-- A tick of a die: TICK, the events of its banks taken (R374), the sideband's and rings' ages, and the retries of the
last 1,024 ticks (R71, R72, R371, R390, R396). -/
def Die.step (d : Die) : Die :=
  { d with
    tick := d.tick + 1, beaconed := false, silent := d.silent.map (· + 1), today := [],
    side := d.side.map (fun m => (m.1, m.2 + 1)),
    retries := d.retries.map (fun l => l.filter (fun t => decide ((d.tick + 1 - t).toNat < 1024))),
    rings := d.rings.map (fun r => { r with sinceMark := r.sinceMark + 1 }), stretch := d.stretch - 1,
    drift := if (d.tick + 1).toNat % 512 = 0 then 0 else d.drift }

/-- A launch ages while it is ready and not running (R342). -/
def Launch.step (l : Launch) : Launch := if l.ready && !l.running then { l with age := l.age + 1 } else l

/-- Hundredths by which the present period of a die differs from the nominal one: up to an eighth more in a stretched
cycle, and then less while the controller trims. Of each 512 ticks the sum stays within 85, so that over any 1,024 the mean
keeps to 0.25 % (R393; DESIGN CHOICE, log entry 71). -/
def Die.deviation (d : Die) (n : Nat) : Int :=
  if d.stretch ≠ 0 then min (Int.ofNat (n % 13)) (85 - d.drift)
  else if 0 < d.drift then -(Int.ofNat (n % 2)) else 0

/-- What counts on die 0's clock: the reference count at the nominal frequency, in the periods as the controller makes them
(R393, R394), the age of launches, and unacknowledged frames (R404). -/
def State.stepPackage (s0 : State) : State :=
  let nom := s0.nib.nom.toNat
  let more := (s0.die 0).deviation (Config.free 4 (16777216 * s0.free)).toNat
  let s := s0.modDie 0 (fun d => { d with drift := d.drift + more })
  let p := (Int.ofNat (s.refPhase + 100) + more).toNat
  { s with
    refCount := if nom != 0 && decide (nom ≤ p) then s.refCount + 1 else s.refCount,
    refPhase := if nom != 0 && decide (nom ≤ p) then p - nom else p,
    parts := s.parts.map (fun (e : Nat × Part) => (e.1, { e.2 with table := e.2.table.map Launch.step })),
    peers := s.peers.map (fun (p : Peer) => { p with
      unacked := p.unacked.map (fun u => (u.1, u.2.1, u.2.2.1, u.2.2.2.1, u.2.2.2.2 + 1)) }) }

/-- Each die whose bit is set ticks; focus returns to the core it was on. -/
def State.tickDies (s : State) (set : BitVec 4) : State :=
  let t0 := (s.tickCores ((s.cores.map Prod.fst).filter (fun c => set.getLsbD (dieOf c)))).focus s.here
  let t1 := (List.range 4).foldl (fun v d => if set.getLsbD d then v.ringFlush d else v) t0
  let t := { t1 with barMsgs := t1.barMsgs.map (fun (m : BarMsg) => if set.getLsbD (dieOf m.core) then { m with age := m.age + 1 } else m) }
  let u := { t with dies := Vector.ofFn (fun (i : Fin 4) => if set.getLsbD i.val then t.dies[i].step else t.dies[i]) }
  if set.getLsbD 0 then u.stepPackage else u

/-- Of the dies `m`, those whose tick keeps every two TICK values within 8,192 of each other (R71). -/
def State.abreast (s : State) (m : BitVec 4) : BitVec 4 :=
  let ok := fun d => (List.range 4).all (fun e => m.getLsbD e || decide (((s.die d).tick - (s.die e).tick).toInt < Config.tickSkew))
  BitVec.ofNat 4 ((List.range 4).foldl (fun n d => if m.getLsbD d && ok d then n + 2 ^ d else n) 0)

/-- Time goes on by a tick of the dies next in `clocks`, of all four when it is empty. -/
def State.pass (s : State) : State :=
  match s.clocks with
  | [] => (s.tickDies 0xF).bump
  | m :: r => { s.tickDies (s.abreast m) with clocks := r }.bump

/-! ### Beacons (R72, R396) -/

/-- Dies a die's links still reach. -/
def State.linked (s : State) (d : Nat) : List Nat :=
  (List.range 4).filter (fun e => e != d && !(s.die d).failed.getLsbD e && (s.die e).warm)

/-- Puts a message on the sideband of a link. -/
def State.sendSide (s : State) (d : Nat) (m : SideMsg) : State := s.modDie d (fun x => { x with side := x.side ++ [(m, 0)] })

/-- The die's beacon of this tick is due. -/
def State.beaconDue (s : State) (d : Nat) : Bool :=
  decide (d < 4) && !(s.die d).beaconed && (s.die d).tick.toNat % 32 == 0

def execBeaconSend (d : Nat) (s : State) : Host.Outcome State Fault Refusal :=
  s.whenOk (s.beaconDue d) (fun t =>
    ((t.linked d).foldl (fun u e => u.sendSide e (.beacon d (t.die d).tick)) t).modDie d (fun x => { x with beaconed := true }))

/-- A sideband message arrives between 38 and 40 receiver ticks after it was sent. -/
def sideOk (a : Nat) : Bool := decide (38 ≤ a)

/-- Message `i` on the way to a die. -/
def Die.msg (d : Die) (i : Nat) : Option (SideMsg × Nat) := d.side[i]?

/-- Whether a message is a beacon that may arrive. -/
def beaconOk : Option (SideMsg × Nat) → Bool
  | some (.beacon _ _, a) => sideOk a
  | _ => false

def execBeaconReceive (d i : Nat) (s : State) : Host.Outcome State Fault Refusal :=
  s.whenOk (beaconOk ((s.die d).msg i)) (fun t =>
    match (t.die d).msg i with
    | some (.beacon src v, _) =>
      t.modDie d (fun x =>
        let y := { x with side := dropAt x.side i }
        if x.failed.getLsbD src then y
        else { y with beacon := x.beacon.setIfInBounds src v, silent := x.silent.setIfInBounds src 0 })
    | _ => t)

/-- A link's sideband has been silent for 512 ticks. -/
def State.beaconLost (s : State) (d e : Nat) : Bool :=
  (s.linked d).contains e && decide (512 ≤ (s.die d).silent[e]?.getD 0)

def execBeaconTimeout (d e : Nat) (s : State) : Host.Outcome State Fault Refusal :=
  s.whenOk (s.beaconLost d e) (fun t =>
    let u := (t.modDie d (fun x => { x with failed := x.failed ||| (1#4 <<< e) })).modDie e
      (fun x => { x with failed := x.failed ||| (1#4 <<< d) })
    { u with nib := { u.nib with lostLinks := (d, e) :: u.nib.lostLinks } }.raise d 14 (plainEvent 0x07 0x30 127 0 0))

/-! ### PALIGN (R74, R190) -/

/-- The core is frozen in PALIGN. -/
def Core.inAlign (k : Core) : Option (BitVec 3 × Word) := if k.seq.frz.start then none else k.seq.frz.align

/-- A release is due for the core's alignment: its die observes TICKMIN at the target and has sent none that covers it. -/
def State.releaseDue (s : State) : Bool :=
  match s.core.inAlign with
  | some (sc, g) =>
    sc == 4 && !s.tickMin.ult g && !(s.die s.myDie).sentRel s.partNum g
  | none => false

/-- The core's die sends a release and sets its exit tick. -/
def State.release (s : State) : State :=
  match s.core.inAlign, s.myPart with
  | some (_, g), some (p, x) =>
    let d := s.myDie
    let s1 := s.modDie d (fun k => { k with rels := k.rels ++ [{ part := p, value := g, exit := some (k.tick + 40) }] })
    ((s.diesOf x).filter (· != d)).foldl (fun t e => t.sendSide e (.release d p g)) s1
  | _, _ => s

def execReleaseSend (c : Nat) (s : State) : Host.Outcome State Fault Refusal := s.atCore c State.releaseDue State.release

/-- The cores of a partition on a die frozen in PALIGN(`.pkg`) at or below a value. -/
def State.aligned (s : State) (d p : Nat) (v : Word) : List Nat :=
  (s.cores.filter (fun e => dieOf e.1 == d && (s.partOf e.1).map Prod.fst == some p &&
    (match e.2.inAlign with
     | some (sc, g) => sc == 4 && !v.ult g
     | none => false))).map Prod.fst

/-- They resume. -/
def State.resumeAll (s : State) : List Nat → State
  | [] => s
  | c :: r => ((s.focus c).leaveAlign).resumeAll r

/-- Whether a message is a release that may arrive. -/
def releaseOk : Option (SideMsg × Nat) → Bool
  | some (.release _ _ _, a) => sideOk a
  | _ => false

def execReleaseReceive (d i : Nat) (s : State) : Host.Outcome State Fault Refusal :=
  s.whenOk (releaseOk ((s.die d).msg i)) (fun t =>
    match (t.die d).msg i with
    | some (.release src p v, _) =>
      if (t.die d).failed.getLsbD src then t.modDie d (fun x => { x with side := dropAt x.side i })
      else
        let u := t.modDie d (fun x => { x with
          side := dropAt x.side i,
          rels := x.rels.filter (fun r => !(r.part == p && r.exit == none && !v.ult r.value)) ++
            [{ part := p, value := v, exit := none }] })
        (u.resumeAll (u.aligned d p v)).focus t.here
    | _ => t)

/-- The greatest value of a release a die sent for a partition whose exit tick has come. -/
def Die.exitValue (d : Die) (p : Nat) : Option Word :=
  d.rels.foldl (fun m r =>
    match r.exit with
    | some t =>
      if r.part == p && !d.tick.ult t then
        (match m with
         | some v => if v.ult r.value then some r.value else some v
         | none => some r.value)
      else m
    | none => m) none

/-- Cores that leave at an exit tick. -/
def State.exiting (s : State) (d p : Nat) : List Nat :=
  match (s.die d).exitValue p with
  | some v => s.aligned d p v
  | none => []

def execPalignExitTick (d p : Nat) (s : State) : Host.Outcome State Fault Refusal :=
  s.whenOk (!(s.exiting d p).isEmpty) (fun t => (t.resumeAll (t.exiting d p)).focus t.here)

/-- A `.quad` or `.die` alignment is over. -/
def State.localMet (s : State) : Bool :=
  match s.core.inAlign with
  | some (sc, g) => sc != 4 && !s.tick.ult g
  | none => false

def execPalignLocalResume (c : Nat) (s : State) : Host.Outcome State Fault Refusal :=
  s.atCore c State.localMet State.leaveAlign

/-! ### Barriers (R197-R199) -/

/-- Combines two reduction values (R198). -/
def barCombine (fn : BitVec 3) (a b : Word) : Word :=
  if fn == 0 then a + b
  else if fn == 1 then (if b.slt a then b else a)
  else if fn == 2 then (if a.slt b then b else a)
  else if fn == 3 then a &&& b
  else if fn == 4 then a ||| b
  else a ^^^ b

/-- The value of a generation: of its `bar.red` arrivals; none where it has none. -/
def barValue (l : List Arrival) : Option Word :=
  (l.filterMap (fun a => a.fn.map (fun f => (f, a.v)))).foldl (fun m x =>
    match m with
    | none => some x.2
    | some v => some (barCombine x.1 v x.2)) none

/-- C of a generation: its first arrival's (R197). -/
def barCount (l : List Arrival) : BitVec 20 := (l.head?.map Arrival.c).getD 0

/-- Arrivals of one generation carry different counts, or different functions (R199). -/
def barMixed (l : List Arrival) : Bool :=
  l.any (fun a => a.c != barCount l) ||
    (match l.filterMap Arrival.fn with
     | [] => false
     | f :: r => r.any (· != f))

/-- Two objects are one. -/
def BarObj.same (a b : BarObj) : Bool := a.part == b.part && a.bar == b.bar && a.scope == b.scope && a.group == b.group

/-- The completions of a generation, one for each core of the package that arrived, `age` ticks after its last arrival. -/
def BarObj.done (o : BarObj) (age : Nat) : List BarMsg :=
  (o.got.filter (fun x => decide (x.core < Config.cores))).map (fun x =>
    { core := x.core, launch := x.launch, sup := x.sup, bar := o.bar, scope := o.scope,
      val := if barMixed o.got then none else barValue o.got, bad := barMixed o.got, age := age })

/-- An object receives an arrival made `age` ticks ago; the last of a generation completes it. -/
def State.arriveAt (s : State) (o : BarObj) (a : Arrival) (age : Nat) : State :=
  let o1 := (s.barriers.find? (fun x => x.same o)).getD o
  let o2 := { o1 with got := o1.got ++ [a] }
  let rest := s.barriers.filter (fun x => !x.same o)
  if o2.got.length < (barCount o2.got).toNat then { s with barriers := o2 :: rest }
  else { s with barriers := rest, barMsgs := s.barMsgs ++ o2.done age }

/-- An arrival reaches its object; one at `.pod` also goes to the pod's other packages (R404). -/
def State.arriveBar (s : State) (a : Acc) (bar : BitVec 9) (scope : BitVec 3) (c : BitVec 20) (fn : Option (BitVec 3))
    (v : Word) : State :=
  let x : Arrival := { core := s.here, launch := s.core.share.launch, sup := a.sup, c := c, fn := fn, v := v }
  let o : BarObj := { part := s.partNum, bar := bar, scope := scope, group := groupOf s.here scope, got := [] }
  let s1 := (s.endAcc a.id).arriveAt o x ((a.by_.map (fun n => s.barLimit scope - n)).getD 0)
  if scope == 5 then
    s1.peers.foldl (fun t p => t.podSend p.pkg a.id (.arrive t.partNum bar.toNat c.toNat fn v)) s1
  else s1

def execBarrierArrival (c id : Nat) (s : State) : Host.Outcome State Fault Refusal :=
  s.atCore c (fun t => match t.core.acc? id with
      | some a => (match a.kind with
        | .arrive _ _ _ _ _ => t.core.clearFor a
        | _ => false)
      | none => false)
    (fun t => match t.core.acc? id with
      | some a => (match a.kind with
        | .arrive b sc n fn v => t.arriveBar a b sc n fn v
        | _ => t)
      | none => t)

/-- A completion on its way to the core for a barrier. -/
def State.barMsg (s : State) (b : Nat) : Option BarMsg := s.barMsgs.find? (fun m => m.core == s.here && m.bar.toNat == b)

/-- A completion reaches the core, in either state: it is kept for its wait, and the slot, where it is that of the launch in
place and holds an arrival, is marked done (R198, R199). -/
def Core.takeMsg (k : Core) (m : BarMsg) : Core :=
  let sl := k.seq.slot m.bar.toNat
  let q := { k.seq with results := k.seq.results ++ [{ launch := m.launch, sup := m.sup, bar := m.bar, val := m.val, bad := m.bad }] }
  { k with seq := if k.share.launch == m.launch && sl.arrived then q.setSlot m.bar.toNat { sl with done := true } else q }

/-- The core stands in a wait for a barrier whose slot is marked done. -/
def Core.waitOver (k : Core) (b : Nat) : Bool :=
  match k.seq.frz.bar with
  | some w => w.bar.toNat == b && !k.seq.frz.start && (k.seq.slot b).done
  | none => false

/-- The wait is left. -/
def State.leaveWait (s : State) (b : Nat) : State :=
  match s.core.seq.frz.bar with
  | some w => if s.core.waitOver b then (s.noteFreeze 3).exitBar w s.core.seq.frz.gap.toNat else s
  | none => s

/-- A completion is taken, and a wait for it ends. -/
def State.takeMsg (s : State) (b : Nat) : State :=
  match s.barMsg b with
  | some m => ({ s with barMsgs := s.barMsgs.erase m }.onCore (fun k => k.takeMsg m)).leaveWait b
  | none => s.leaveWait b

def execBarrierDone (c b : Nat) (s : State) : Host.Outcome State Fault Refusal :=
  s.atCore c (fun t => (t.barMsg b).isSome || t.core.waitOver b) (fun t => t.takeMsg b)

end Sys2Proof.Machine
end

