-- ==== Sys2Proof/Machine/Traps.lean ====
section
/-! DEFINITION. The events of traps: entry at a boundary, LATE, replay, pre-emption, and the stop of a launch (R58, R70,
R77, R78, R310-R318). -/

namespace Sys2Proof.Machine

/-! ### Boundaries (R77, R78) -/

/-- The control stream issues nothing more: every cycle holds a boundary (R58). -/
def Core.silent (k : Core) : Bool :=
  !k.seq.sup && (k.seq.ended || (k.share.phase != .running && k.share.phase != .entry))

/-- A sequencer boundary (R78); before a tile entry there is none until the entry has come. -/
def Core.atBoundary (k : Core) : Bool :=
  let f := k.seq.frz
  !k.obs.stopped && !f.bankOn && !f.lateOn && !k.lateNow && !k.seq.lateDue &&
    (if f.align.isSome || f.bar.isSome then !f.start
     else k.silent || (k.seq.wait == 0 && (k.seq.sup || k.share.phase != .entry)))

/-- Every section queued or running carries the `drain` flag (R77). -/
def Core.drainPoint (k : Core) : Bool :=
  engines.all (fun e =>
    (k.eng e).queue.all (fun q => (k.cur.header (k.headerAt e q)).drain) &&
      (match (k.eng e).run with
       | some r => r.hdr.drain
       | none => true))

/-- A launch stop is being taken: the core drains to its end (R58). -/
def Share.stopping (x : Share) : Bool := x.stop && x.fault

/-- A core leaves PALIGN or a barrier wait for a trap, a pre-emption or a stop; of a barrier word the wait half
remains (R313). -/
def State.thaw (s : State) : State :=
  let f := s.core.seq.frz
  let s1 := if f.align.isSome then s.noteFreeze 2 else if f.bar.isSome then s.noteFreeze 3 else s
  s1.onCore (fun k => { k with seq := { k.seq with
    half := k.seq.half || f.bar.isSome, frz := { k.seq.frz with align := none, bar := none, start := false, ticks := 0 } } })

/-! ### Trap entry (R311) -/

/-- A recorded trap is due at a boundary, or its drain is over. -/
def Core.trapReady (k : Core) : Bool :=
  k.seq.trapped && !k.share.stopping &&
    (if k.seq.draining then k.quiet && !k.seq.replays && !k.frozen else k.atBoundary)

/-- A debug stop for the entry under way is over. -/
def Core.entered (k : Core) : Core := { k with obs := { k.obs with entryStop := false } }

/-- An entry goes on: the debug port is closed for stops, or the stop before it has been made (R380). -/
def State.mayEnter (s : State) : Bool := !s.stopsOpen || s.core.obs.entryStop

/-- The core begins to drain; drained, it enters the supervisor or its share ends. -/
def State.trapStep (s : State) : State :=
  if s.core.seq.draining then s.takeNext.onCore Core.entered
  else s.thaw.onCore (fun k => { k with seq := { k.seq with draining := true, pre := none } })

def execTrapEntry (c : Nat) (s : State) : Host.Outcome State Fault Refusal :=
  s.atCore c (fun t => t.core.trapReady && (!t.core.seq.draining || t.mayEnter)) State.trapStep

/-! ### Replay (R316) -/

/-- The drained core replays its window. -/
def Core.replayReady (k : Core) : Bool := k.seq.draining && !k.share.stopping && k.seq.replays && k.quiet && !k.frozen

/-- An engine's queue is discarded. -/
def Engine.discard (x : Engine) : Engine := { x with queue := [], disp := x.retired }

/-- What the window's words wrote is cleared: tiles and latches. -/
def Mat.undo (m : Mat) (w : Window) : Mat :=
  let hit := fun (n : Nat) => w.wrote[n]?.getD false
  let off := fun (n : Nat) (x : Latch) => if w.loaded[n]?.getD false then Latch.empty else x
  { m with cells := m.cells.filter (fun e => !hit (e.1 / 16384)), bad := m.bad.filter (fun n => !hit (n / 16384)),
           wl := #v[off 0 m.wl[0], off 1 m.wl[1]] }

/-- The checkpoint is restored, and its `disp` issues again in the cycle it had; the other traps of the window go with it. -/
def Core.restore (k : Core) (c : Ckpt) : Core :=
  let q := k.seq
  let k1 : Core :=
    { k with
      seq := { q with thr := c.thr, pc := c.word, scyc := c.scyc, count := q.count + 1, total := q.total + 1,
                      traps := [], draining := false, pre := none, wait := 0, half := false, ended := false, frz := Freeze.none, win := Window.empty },
      em := k.em.discard, ev := k.ev.discard, ex := k.ex.discard,
      vec := { k.vec with rb := c.rb, flg := c.vflg },
      mat := { k.mat.undo q.win with flg := c.tflg },
      share := { k.share with phase := .running, tile := c.tile },
      badReg := k.badReg.filter (fun r => r.1 != 5 && !(r.1 == 4 && q.win.loaded[r.2.1]?.getD false)) }
  k1.setLasts c.last

/-- The window is replayed, and the replay recorded as a corrected error. -/
def State.doReplay (s : State) : State :=
  match s.core.seq.ckpt, firstTrap (s.core.seq.traps.filter TrapRec.bad) with
  | some c, some r =>
    (s.raiseHere (s.coreEvent 0x03 (curedSrc r.cause) 0 0 r.eng r.secno r.widx)).onCore (fun k => k.restore c)
  | _, _ => s

def execReplay (c : Nat) (s : State) : Host.Outcome State Fault Refusal :=
  s.atCore c (fun t => t.core.replayReady) State.doReplay

/-! ### Pre-emption (R318) -/

/-- The shares a PREEMPT may interrupt; one that is done only where a supervisor can switch it away. -/
def Core.mayPreempt (k : Core) : Bool :=
  match k.share.phase with
  | .aligning => true
  | .entry => true
  | .running => true
  | .ending => true
  | .done => k.seq.sen
  | _ => false

/-- A set PREQ.REQ meets a boundary with no trap recorded (R310). -/
def Core.asked (k : Core) : Bool :=
  k.seq.req && !k.seq.sup && !k.seq.trapped && !k.seq.draining && k.seq.pre.isNone && !k.share.stop && k.mayPreempt &&
    k.atBoundary

/-- PRELIM is reached. -/
def Seq.overdue (q : Seq) : Bool := decide (q.prelim.toNat ≤ q.reqTicks)

/-- The control stream stops; every section dispatched runs on, one that was held included. -/
def State.beginPreempt (s : State) : State :=
  s.thaw.onCore (fun k0 =>
    let k := k0.release
    { k with seq := { k.seq with pre := some (!k.drainPoint, k.seq.scyc) } })

/-- The record of a PREEMPT. -/
def preemptRec (pc : BitVec 14) : TrapRec :=
  { cause := 0x1B, sub := 0, eng := .seq, secno := 0, widx := pc, addr := 0, resume := none, sup := false }

/-- The entry, with every queue empty and both latches emptied (R254). SCYC is again what it was when the control stream
stopped, so the next word finds the cycle it would have had (R294; DEDUCED, log entry 65). -/
def State.enterPreempt (s : State) : State :=
  let p := s.core.seq.pre.getD (false, s.core.seq.scyc)
  (s.takeTrap (preemptRec s.core.seq.pc) p.1).onCore (fun k => { k.entered.emptyLatches with
    seq := { k.seq with req := false, reqTicks := 0, scyc := p.2 } })

/-- Its sections have run out. -/
def Core.preemptDrained (k : Core) : Bool :=
  k.seq.pre.isSome && !k.seq.trapped && !k.share.stop && k.enginesIdle && k.quiet && !k.frozen

def execPreemptEntry (c : Nat) (s : State) : Host.Outcome State Fault Refusal :=
  s.atCore c (fun t => (t.core.preemptDrained && t.mayEnter) || (t.core.asked && (t.core.seq.force || t.core.drainPoint)))
    (fun t => if t.core.seq.pre.isSome then t.enterPreempt else t.beginPreempt)

def execPrelimExpiry (c : Nat) (s : State) : Host.Outcome State Fault Refusal :=
  s.atCore c (fun t => t.core.asked && t.core.seq.overdue) State.beginPreempt

/-! ### LATE (R70, R312) -/

/-- A run of counted freeze ticks has reached FRZLIM. -/
def Core.limitReached (k : Core) : Bool :=
  !k.seq.sup && !k.obs.stopped && !k.seq.lateDue && k.frozen && k.seq.frz.run != 0 &&
    decide (k.seq.frzlim.toNat ≤ k.seq.frz.run)

def execFrzlimExpiry (c : Nat) (s : State) : Host.Outcome State Fault Refusal :=
  s.atCore c (fun t => t.core.limitReached)
    (fun t => t.onCore (fun k => { k with seq := { k.seq with lateDue := true } }))

/-- Bit of TLATE for a request. -/
def Acc.lateKind (a : Acc) : Nat :=
  match a.kind with
  | .xch _ => 0
  | .land _ _ _ _ _ => 1
  | .load _ _ => 2
  | _ => 3

/-- What TADDR names of a late request. -/
def Acc.lateAddr (a : Acc) : Word :=
  match a.kind with
  | .xch x => x.farVal
  | .land none src tag _ _ => BitVec.ofNat 64 (4096 * tag + src)
  | .land (some p) src tag _ _ => podDesc p tag src
  | .load ps _ => addrW ((ps.head?.map Piece.addr).getD 0)
  | .atom x => addrW x.addr
  | _ => 0

/-- TLATE. -/
def Core.tlateOf (k : Core) (as : List Acc) : BitVec 6 :=
  as.foldl (fun m a => m ||| (1#6 <<< a.lateKind)) 0 ||| (if k.seq.frz.bar.isSome then 16 else 0) |||
    (if k.seq.frz.align.isSome then 32 else 0)

/-- The record of a LATE: the first late request, else the barrier or the PALIGN. -/
def Core.lateRec (k : Core) (as : List Acc) : TrapRec :=
  let pc := k.seq.pc
  match as with
  | a :: _ => { cause := 0x16, sub := 0, eng := a.strm, secno := a.secno, widx := a.widx, addr := a.lateAddr, resume := none, sup := false }
  | [] =>
    let ad := match k.seq.frz.bar, k.seq.frz.align with
      | some w, _ => barAddr w.bar
      | none, some g => g.2
      | none, none => 0
    { cause := 0x16, sub := 0, eng := .seq, secno := 0, widx := pc, addr := ad, resume := none, sup := false }

/-- Every late request takes its fate of R70, a barrier wait included. -/
def State.abandonLate (s : State) : State :=
  let s1 := (s.core.x.accs.filter Acc.late).foldl State.abandon s
  match s1.core.seq.frz.bar with
  | some w => s1.withdraw w
  | none => s1

/-- An access can still perform before a LATE entry, and so does (R146): nothing it waits for, a late request first of all,
is left outstanding by the entry. Exchanges and `xland` words wait for their arrival cycles. -/
def State.performsFirst (s : State) (a : Acc) : Bool :=
  !a.late &&
    (match a.kind with
     | .xch _ => false
     | .land _ _ _ _ _ => false
     | .send _ _ _ _ _ => (s.sendStep a.id).isSome
     | .push _ _ _ _ => (s.pushStep a.id).isSome
     | .atom x => s.mayAtom a.id || (s.core.clearFor a && x.xl == .wait)
     | .arrive _ _ _ _ _ => s.core.clearFor a
     | .load ps _ => ps.any (s.mayGo a)
     | .store ps => ps.any (s.mayGo a))

/-- The results in flight have landed, and the accesses that can have performed. -/
def State.lateReady (s : State) : Bool :=
  let k := s.core
  k.seq.lateDue && !k.obs.stopped && k.x.flight.isEmpty && k.mat.loads.isEmpty && k.mat.feeds.isEmpty &&
    !k.x.accs.any s.performsFirst

/-- The trace record of the freeze that a LATE entry ends (R389). -/
def State.noteLate (s : State) : State :=
  s.noteFreeze (if s.core.lateNow then 0 else if s.core.seq.frz.bar.isSome then 3 else 2)

/-- LATE is entered, its requests left outstanding; with no supervisor, or while a stop is taken, they are abandoned and
the core drains to its end (R58, R304). -/
def State.enterLate (s : State) : State :=
  let k := s.core
  let as := k.x.accs.filter Acc.late
  let r := k.lateRec as
  if !k.seq.sen || k.share.stopping then
    s.abandonLate.thaw.onCore (fun k => { k with seq := { k.seq.record r with lateDue := false, draining := true, pre := none } })
  else
    let f : LateFrame :=
      { pc := k.seq.pc, wait := k.seq.wait, ended := k.seq.ended, freeze := { k.seq.frz with ticks := 0 }, nid := k.x.nid,
        runs := #v[k.em.run.isSome, k.ev.run.isSome, k.ex.run.isSome] }
    let ti := tinfoOf r false (k.seq.trapped || k.seq.req)
    (s.noteLate.note 0x3 r.eng r.secno.toNat r.widx.toNat ti).onCore (fun c =>
      let c1 := c.entered.enterSup ti r.addr k.seq.pc k.seq.ended
      { c1 with seq := { c1.seq with late := some f, tlate := k.tlateOf as } })

def execLateEntry (c : Nat) (s : State) : Host.Outcome State Fault Refusal :=
  s.atCore c (fun t => t.lateReady && t.mayEnter) State.enterLate

/-! ### The stop of a launch (R58) -/

/-- A share runs or, its start token received, is to run. -/
def Share.live (x : Share) : Bool :=
  x.phase != .idle && x.phase != .flipped && x.phase != .swapOut && x.phase != .done

/-- Another core's share of the launch has ended with FAULT. -/
def State.peerFaulted (s : State) : Bool :=
  s.others.any (fun e => e.2.share.launch == s.core.share.launch && e.2.share.fault && (s.partOf e.1).map Prod.fst == some s.partNum)

/-- A stop falls due on the core. -/
def State.stopFalls (s : State) : Bool :=
  s.core.share.live && !s.core.share.fault && !s.core.share.stop && s.peerFaulted

/-- The core takes a stop that is due: in user state, at a boundary or frozen. -/
def Core.takesStop (k : Core) : Bool :=
  k.share.stop && !k.share.fault && !k.seq.sup && !k.obs.stopped && k.share.live &&
    (k.atBoundary || k.frozen || (k.share.phase == .entry && k.seq.wait == 0))

/-- The core has drained to its stop. -/
def Core.stopDrained (k : Core) : Bool := k.share.stopping && !k.seq.sup && k.quiet && !k.frozen

/-- The stop falls due, is taken, or ends the share with FAULT. -/
def State.stopStep (s : State) : State :=
  if s.core.stopDrained then
    (if s.core.share.phase == .swapIn then s.endFault.onCore (fun k => { k with share := { k.share with parvbn := 0 } })
     else s.endFault)
  else if s.core.takesStop then
    s.abandonLate.thaw.onCore (fun k => { k with
      seq := { k.seq with draining := true, pre := none, lateDue := false }, share := { k.share with fault := true } })
  else s.onCore (fun k => { k with share := { k.share with stop := true } })

def execLaunchStop (c : Nat) (s : State) : Host.Outcome State Fault Refusal :=
  s.atCore c (fun t => t.core.stopDrained || t.core.takesStop || t.stopFalls) State.stopStep

/-! ### Writes of CTX and FRZLIM (R70, R320) -/

def execCtxWrite (c : Nat) (v : BitVec 32) (s : State) : Host.Outcome State Fault Refusal :=
  s.atCore c (fun t => t.core.seq.sup && !t.core.frozen) (fun t => t.writeCtx v)

def execFrzlimWrite (c : Nat) (v : Word) (s : State) : Host.Outcome State Fault Refusal :=
  s.atCore c (fun t => t.core.seq.sup && !t.core.frozen) (fun t => t.onCore (fun k => k.putFrzlim v))

end Sys2Proof.Machine
end

