-- ==== Sys2Proof/Machine/Sched.lean ====
section
/-! DEFINITION. The launch scheduler: the registers of the launch window, submission, readiness, aging, choice,
acceptance, staging and pre-emption by priority (R48, R49, R334-R351, R359). -/

namespace Sys2Proof.Machine

/-! ### Memory as the launch hardware reaches it (R359) -/

/-- Bytes read under a partition's own ASID; none where the translation or the key faults or the data comes poisoned. -/
def State.schedRead (s : State) (p va n : Nat) : Option (List Byte) :=
  match s.translateP p .read va with
  | .ok l =>
    let r := s.mainRead l.key (4096 * l.pbn + va % 4096) n
    if r.2 || s.lostBlock l.pbn then none else some r.1
  | .error _ => none

/-- A write under a partition's own ASID; none where it faults. -/
def State.schedWrite (s : State) (p va : Nat) (bs : List Byte) : Option State :=
  match s.translateP p .write va with
  | .ok l => if s.lostBlock l.pbn then none else some (s.mainWrite l.key (4096 * l.pbn + va % 4096) bs)
  | .error _ => none

/-- An access by the launch hardware waits: its home is locked (R125), or reductions of its line have still to
apply (R152). -/
def State.schedWaits (s : State) (p va : Nat) : Bool :=
  match s.translateP p .read va with
  | .ok l => s.locked (Home.near l.pbn) || s.lineHeld true ((4096 * l.pbn + va % 4096) / 128)
  | .error _ => false

/-- A block transfer waits: its home is locked, or the partition holds no entry on its channel (R132). -/
def State.blockWaits (s : State) (p vbn : Nat) : Bool :=
  match s.translateP p .read (4096 * vbn) with
  | .ok l => !s.hasSlot p l.pbn || s.locked (Home.near l.pbn) || (List.range 32).any (fun i => s.lineHeld true (32 * l.pbn + i))
  | .error _ => false

/-- An event of the scheduler: bank 15 of die 0 (R372). -/
def State.schedEvent (s : State) (p : Nat) : State := s.raise 0 15 (plainEvent 0x10 0x41 p 0 0)

/-! ### The loop-nest record (R48, R49) -/

/-- Doubleword `i` of a record. -/
def Launch.w (l : Launch) (i : Nat) : Word := BitVec.ofNat 64 (natOfBytes ((l.raw.drop (8 * i)).take 8))

def Launch.floorPrio (l : Launch) : Nat := (fieldAt (l.w 0) 58 2).toNat
def Launch.ncore (l : Launch) : Nat := (fieldAt (l.w 0) 48 10).toNat
def Launch.img (l : Launch) : Nat := (fieldAt (l.w 0) 0 40).toNat
def Launch.serp (l : Launch) : BitVec 8 := fieldAt (l.w 1) 48 8
def Launch.ndim (l : Launch) : Nat := (fieldAt (l.w 1) 40 4).toNat
def Launch.parvbn (l : Launch) : Nat := (fieldAt (l.w 1) 0 40).toNat
def Launch.volbase (l : Launch) : Nat := (fieldAt (l.w 2) 32 6).toNat
/-- The dimension visited at position `j`. -/
def Launch.order (l : Launch) (j : Nat) : Nat := (fieldAt (l.w 2) (3 * j) 3).toNat
/-- The extent of dimension `d`. -/
def Launch.ext (l : Launch) (d : Nat) : Nat := (fieldAt (l.w (3 + d / 4)) (16 * (d % 4)) 16).toNat
def Launch.prev (l : Launch) : BitVec 3 := fieldAt (l.w 6) 60 3
/-- Prerequisite token `j`. -/
def Launch.pre (l : Launch) (j : Nat) : BitVec 20 := fieldAt (l.w 6) (20 * j) 20
def Launch.shareNo (l : Launch) : Nat := (fieldAt (l.w 7) 20 4).toNat
def Launch.token (l : Launch) : BitVec 20 := fieldAt (l.w 7) 0 20
def Launch.doneva (l : Launch) : Nat := (fieldAt (l.w 8) 0 52).toNat
/-- Prerequisites of a record. -/
def Launch.pres (l : Launch) : List (BitVec 20) := ((List.range 3).filter (fun j => l.prev.getLsbD j)).map l.pre
/-- T, the number of tiles. -/
def Launch.tiles (l : Launch) : Nat := (List.range l.ndim).foldl (fun a d => a * l.ext d) 1

/-- Reserved fields of words 0 to 8. -/
def lnrReserved : List Word :=
  [0xF000FF0000000000, 0xFF00F00000000000, 0xFFFFFFC0FF000000, 0, 0, 0, 0x8000000000000000, 0xFFFFFFFFFF000000,
   0xFFF0000000000000]

/-- A reserved field is nonzero. -/
def Launch.reserved (l : Launch) : Bool :=
  lnrReserved.zipIdx.any (fun e => l.w e.2 &&& e.1 != 0) || (l.raw.drop 72).any (· != 0)

/-- The check of R49 fails, for a partition of `cores` cores. -/
def Launch.bad (l : Launch) (cores : Nat) : Bool :=
  let n := l.ndim
  l.reserved || l.ncore == 0 || decide (cores < l.ncore) || n == 0 || decide (8 < n) ||
    (List.range 8).any (fun d => if d < n then l.ext d == 0 else l.ext d != 0) ||
    !(List.range n).all (fun d => (List.range n).any (fun j => l.order j == d)) ||
    l.serp >>> n != 0 || (l.volbase != 0 && decide (l.volbase < 32)) || l.pres.contains l.token ||
    l.doneva % 8 != 0 || decide (2 ^ 40 < l.tiles)

/-- The starting priority (R337, R342). -/
def Launch.startPrio (l : Launch) : Nat := max l.ring l.floorPrio

/-! ### The launch window (R336) -/

/-- RERR is set; RERRJ names the ring of the first error. -/
def Part.err (x : Part) (j : Nat) : Part :=
  { x with rerr := true, rerrj := if x.rerr then x.rerrj else BitVec.ofNat 2 j }

/-- A ring meets a refused entry or tail: it stops taking entries. -/
def Part.stopRing (x : Part) (j : Nat) : Part := { x.err j with stopped := x.stopped ||| (1#4 <<< j) }

/-- Every ring is empty. -/
def Part.ringsEmpty (x : Part) : Bool := x.rtail == x.rhead

/-- A write of RTAIL. -/
def Part.putTail (x : Part) (j : Nat) (v : Word) : Part := { x with rtail := x.rtail.setIfInBounds j (fieldAt v 0 12) }

/-- A write of RBASE: ignored, with RERR, where it would change while a ring is not empty. -/
def Part.putBase (x : Part) (j : Nat) (v : Word) : Part :=
  let b : BitVec 52 := fieldAt v 12 40 ++ 0#12
  if b == x.rbase[j]?.getD 0 then x
  else if x.ringsEmpty then { x with rbase := x.rbase.setIfInBounds j b } else x.err j

/-- A write of SZ. -/
def Part.putSz (x : Part) (v : Word) : Part :=
  let n : BitVec 4 := fieldAt v 0 4
  if n.toNat < 4 ∨ 12 < n.toNat ∨ (n ≠ x.sz ∧ x.ringsEmpty = false) then x.err 0 else { x with sz := n }

/-- 1 written to RERR clears it, and every stopped ring resumes. -/
def Part.clearErr (x : Part) : Part := { x with rerr := false, stopped := 0 }

def execRtailWrite (p j : Nat) (v : Word) (s : State) : Host.Outcome State Fault Refusal :=
  s.whenOk (s.part? p).isSome (fun t => t.modPart p (fun x => x.putTail j v))
def execRbaseWrite (p j : Nat) (v : Word) (s : State) : Host.Outcome State Fault Refusal :=
  s.whenOk (s.part? p).isSome (fun t => t.modPart p (fun x => x.putBase j v))
def execSzWrite (p : Nat) (v : Word) (s : State) : Host.Outcome State Fault Refusal :=
  s.whenOk (s.part? p).isSome (fun t => t.modPart p (fun x => x.putSz v))
def execRerrClear (p : Nat) (s : State) : Host.Outcome State Fault Refusal :=
  s.whenOk (s.part? p).isSome (fun t => t.modPart p Part.clearErr)

/-! ### Submission (R337-R339) -/

/-- Entries a ring holds by its counts. -/
def Part.ringLoad (x : Part) (j : Nat) : Nat := ((x.rtail[j]?.getD 0) - (x.rhead[j]?.getD 0)).toNat

/-- Ring `j` has an entry to take. -/
def Part.ringActive (x : Part) (j : Nat) : Bool :=
  decide (j < 4) && x.en && !x.stopped.getLsbD j && x.ringLoad j != 0

/-- Address of the entry at RHEAD. -/
def Part.entryVa (x : Part) (j : Nat) : Nat :=
  (x.rbase[j]?.getD 0).toNat + 8 * ((x.rhead[j]?.getD 0).toNat % 2 ^ x.sz.toNat)

/-- Address of a token's byte (R340). -/
def Part.tokenVa (x : Part) (t : BitVec 20) : Nat := x.desc.tokbase + t.toNat

/-- The entry at RHEAD: none where it is refused or its read faults. -/
def State.ringEntry (s : State) (p : Nat) (x : Part) (j : Nat) : Option Nat :=
  if 2 ^ x.sz.toNat < x.ringLoad j then none
  else
    match s.schedRead p (x.entryVa j) 8 with
    | some bs => let e := natOfBytes bs; if e % 128 = 0 ∧ e < 2 ^ 52 then some e else none
    | none => none

/-- The record an entry names, as a launch. -/
def launchOf (x : Part) (j va : Nat) (bs : List Byte) : Launch :=
  let l : Launch :=
    { num := x.nextNum, ring := j, lnrVa := va, raw := bs, seed := x.seed, prio := 0, age := 0, ready := false,
      resident := false, running := false, accepting := false, outrank := false, staged := false, sets := (0, 0, 0), tokens := [], lbt := 0, status := none }
  { l with prio := l.startPrio }

/-- What submitting ring `j`'s entry leads to; none while it must wait: 64 launches are held, the token is still
pending, or a home it reads is locked. -/
def State.submitStep (s : State) (p : Nat) (x : Part) (j : Nat) : Option State :=
  let stop := s.setPart p (x.stopRing j)
  if s.schedWaits p (x.entryVa j) then none
  else
    match s.ringEntry p x j with
    | none => some stop
    | some e =>
      if Config.launchMax ≤ x.table.length ∨ s.schedWaits p e then none
      else
        match s.schedRead p e 128 with
        | none => some stop
        | some bs =>
          let l := launchOf x j e bs
          let tv := x.tokenVa l.token
          if s.schedWaits p tv then none
          else
            match s.schedRead p tv 1 with
            | none => some stop
            | some b =>
              if b == [0xFF] then none
              else
                match s.schedWrite p tv [0xFF] with
                | none => some stop
                | some t =>
                  some (t.setPart p { x with
                    table := x.table ++ [l], nextNum := x.nextNum + 1,
                    rhead := x.rhead.setIfInBounds j ((x.rhead[j]?.getD 0) + 1) })

/-- The submission of ring `j`, which the higher rings precede (R338). -/
def State.submitNow (s : State) (p j : Nat) : Option State :=
  match s.part? p with
  | some x =>
    if x.ringActive j && ((List.range 4).filter (fun i => decide (j < i))).all (fun i =>
        !x.ringActive i || (s.submitStep p x i).isNone) then s.submitStep p x j
    else none
  | none => none

def execSubmit (p j : Nat) (s : State) : Host.Outcome State Fault Refusal :=
  s.whenOk (s.submitNow p j).isSome (fun t => (t.submitNow p j).getD t)

/-! ### Readiness and aging (R341, R342) -/

/-- Changes launch `n` of a partition. -/
def Part.modLaunch (x : Part) (n : Nat) (f : Launch → Launch) : Part :=
  { x with table := x.table.map (fun l => if l.num = n then f l else l) }

/-- Launch `n` of a partition. -/
def Part.launch? (x : Part) (n : Nat) : Option Launch := x.table.find? (fun l => l.num == n)

/-- The bytes of a launch's prerequisites; none for one that faults. -/
def State.preBytes (s : State) (p : Nat) (x : Part) (l : Launch) : List (Option Byte) :=
  l.pres.map (fun t => (s.schedRead p (x.tokenVa t) 1).map (fun b => b.headD 0))

/-- A launch's readiness can be judged now, and it is ready. -/
def State.becomesReady (s : State) (p : Nat) (x : Part) (l : Launch) : Bool :=
  !l.ready && l.status.isNone && l.pres.all (fun t => !s.schedWaits p (x.tokenVa t)) &&
    (let bs := s.preBytes p x l; bs.contains none || bs.all (fun b => b != some 0xFF))

/-- It becomes ready; with a prerequisite that is not OK it is to complete with DEPFAIL. -/
def State.makeReady (s : State) (p : Nat) (x : Part) (l : Launch) : State :=
  let bs := s.preBytes p x l
  let fail := bs.any (fun b => b != some 0)
  let s1 := s.setPart p (x.modLaunch l.num (fun y => { y with ready := true, status := if fail then some 1 else none }))
  if bs.contains none then s1.schedEvent p else s1

/-- The launch at an index of a partition's table. -/
def State.launchAt (s : State) (p i : Nat) : Option (Part × Launch) :=
  match s.part? p with
  | some x => (x.table[i]?).map (fun l => (x, l))
  | none => none

def execLaunchReady (p i : Nat) (s : State) : Host.Outcome State Fault Refusal :=
  s.whenOk (match s.launchAt p i with
      | some (x, l) => s.becomesReady p x l
      | none => false)
    (fun t => match t.launchAt p i with
      | some (x, l) => t.makeReady p x l
      | none => t)

/-- An aging step is due. -/
def Part.agingDue (x : Part) (l : Launch) : Bool :=
  x.age != 0 && l.ready && !l.running && decide (l.prio < 3) && decide (x.age.toNat ≤ l.age)

def execAgingStep (p i : Nat) (s : State) : Host.Outcome State Fault Refusal :=
  s.whenOk (match s.launchAt p i with
      | some (x, l) => x.agingDue l
      | none => false)
    (fun t => match t.launchAt p i with
      | some (x, l) => t.setPart p (x.modLaunch l.num (fun y => { y with prio := y.prio + 1, age := y.age - x.age.toNat }))
      | none => t)

/-! ### Profiles (R349-R351) -/

/-- The profile a launch uses: its SHARE's, or profile 0. -/
def Part.profileOf (x : Part) (l : Launch) : Nat := if l.shareNo < x.desc.profiles.length then l.shareNo else 0

/-- A partition's own entries take the H of a profile. -/
def State.installProfile (s : State) (p : Nat) (x : Part) (n : Nat) : State :=
  match x.desc.profiles[n]? with
  | some f =>
    { s with
      chanTab := x.desc.chanEntries.foldl (fun m i => Sparse.set freeEntry m i (slotEntry p f.hostChan i)) s.chanTab,
      fadTab := x.desc.fadEntries.foldl (fun m i => Sparse.set freeEntry m i (slotEntry p f.hostFad i)) s.fadTab }
  | none => s

/-! ### Staging (R345) -/

/-- What a kernel image gives a plane, or the status its launch completes with. -/
inductive Image where
  | ok (p : Plane)
  | bad
  | fault
  deriving DecidableEq, Repr

/-- Blocks of an image from its second on. -/
def State.imageBlocks (s : State) (p first : Nat) : Nat → Option (List (List Byte))
  | 0 => some []
  | n + 1 =>
    match s.schedRead p (4096 * first) 4096, s.imageBlocks p (first + 1) n with
    | some b, some r => some (b :: r)
    | _, _ => none

/-- Strictly ascending. -/
def ascending : List Nat → Bool
  | a :: b :: r => decide (a < b) && ascending (b :: r)
  | _ => true

/-- The fields of an image's header: plane length, slot numbers. -/
def headerLen (h : List Byte) : Nat := natOfBytes (h.take 4)
def headerSlots (h : List Byte) : List Nat :=
  ((h.drop 64).take (natOfBytes ((h.drop 4).take 2))).map BitVec.toNat

/-- A header breaks a limit (R345). -/
def headerBad (h : List Byte) : Bool :=
  let n := natOfBytes ((h.drop 4).take 2)
  let l := headerSlots h
  decide (headerLen h < 12) || decide (131072 < headerLen h) || decide (255 < n) || !ascending l || l.contains 255 ||
    (h[8]?.getD 0) &&& 0xFE != 0 || ((h.drop 9).take 55).any (· != 0) || (h.drop (64 + n)).any (· != 0)

/-- Bytes as a sparse memory from 0. -/
def memOf (bs : List Byte) : Mem := (Store.ofBytes bs).bytes

/-- Reads an image from a block on. -/
def State.image (s : State) (p vbn : Nat) : Image :=
  match s.schedRead p (4096 * vbn) 4096 with
  | none => .fault
  | some h =>
    if headerBad h then .bad
    else
      let n := headerLen h
      let pb := (n + 4095) / 4096
      let slots := headerSlots h
      match s.imageBlocks p (vbn + 1) (pb + 1 + slots.length) with
      | none => .fault
      | some bs =>
        let st := bs[pb]?.getD []
        if (st.drop 1024).any (· != 0) then .bad
        else
          .ok { code := memOf ((bs.take pb).flatten.take n), len := n,
                sbase := BitVec.ofNat 14 (natOfBytes ((h.drop 6).take 2)), sen := (h[8]?.getD 0).getLsbD 0,
                shapes := memOf (st.take 1024), bad := [],
                slots := slots.zip ((bs.drop (pb + 1)).map Store.ofBytes),
                launch := none, init := true }

/-- A block of an image waits at its home. -/
def State.imageWaits (s : State) (p vbn : Nat) : Bool :=
  s.blockWaits p vbn ||
    (match s.schedRead p (4096 * vbn) 4096 with
     | some h =>
       !headerBad h && (List.range ((headerLen h + 4095) / 4096 + 1 + (headerSlots h).length)).any (fun i => s.blockWaits p (vbn + 1 + i))
     | none => false)

/-- Changes the cores of a list. -/
def State.modCores (s : State) (cs : List Nat) (f : Core → Core) : State := cs.foldl (fun t c => t.modCore c f) s

/-- A launch's plane already lies in every member core: in the shadow plane, or, of a launch to resume, current. -/
def State.hasPlane (s : State) (x : Part) (l : Launch) : Bool :=
  (s.members x).all (fun c =>
    (s.coreAt c).shd.launch == some l.num || (l.resident && (s.coreAt c).cur.launch == some l.num))

/-- A launch lies staged, and no other with it: the loaders have overwritten what else they had staged (R345). -/
def Part.staging (x : Part) (n : Nat) : Part :=
  { x with table := x.table.map (fun l => { l with staged := l.num == n }) }

/-- The loaders fill the shadow planes; a plane to resume is staged without initial state (R347). -/
def State.stage (s : State) (p : Nat) (x : Part) (l : Launch) : State :=
  if s.hasPlane x l then s.setPart p (x.modLaunch l.num (fun y => { y with staged := true }))
  else
    match s.image p l.img with
    | .bad => s.setPart p (x.modLaunch l.num (fun y => { y with status := some 2 }))
    | .fault => s.setPart p (x.modLaunch l.num (fun y => { y with status := some 3 }))
    | .ok pl =>
      (s.modCores (s.members x) (fun k => { k with shd := { pl with launch := some l.num, init := !l.resident } })).setPart p
        (x.staging l.num)

/-- A launch under acceptance, or one about to pre-empt, is to be staged. -/
def State.mayStage (s : State) (p : Nat) (x : Part) (l : Launch) : Bool :=
  (l.accepting || l.outrank) && !l.staged && l.status.isNone && (s.hasPlane x l || !s.imageWaits p l.img)

def execStaging (p i : Nat) (s : State) : Host.Outcome State Fault Refusal :=
  s.whenOk (match s.launchAt p i with
      | some (x, l) => s.mayStage p x l
      | none => false)
    (fun t => match t.launchAt p i with
      | some (x, l) => t.stage p x l
      | none => t)

/-! ### Switch records (R343, R344) -/

/-- CTX ids that a partition's cores and their shares are under. -/
def State.ctxIds (s : State) (x : Part) : List Nat :=
  (s.members x).flatMap (fun c =>
    let k := s.coreAt c
    k.seq.ctx.toNat :: (k.share :: k.saved).filterMap (fun y => y.ctx.map BitVec.toNat))

/-- The id of a fresh context: a free value unlike every id in use. -/
def State.freshCtx (s : State) (x : Part) : Nat :=
  let v := (Config.free 32 (16777216 * s.free)).toNat
  let l := s.ctxIds x
  if l.contains v then l.foldl max 0 + 1 else v

/-- The id of the context a resident launch left. -/
def State.oldCtx (s : State) (x : Part) (n : Nat) : Nat :=
  (((s.members x).findSome? (fun c => (s.coreAt c).ctxOf n)).getD 0).toNat

/-- The sets a switch names: N_in, A_in, G_in and S. Those of a fresh launch, and the spare set, are the scheduler's to name,
and no rule says which, so they are free values (log entry 24); a launch that resumes finds its image where its own switch
left it (R332). -/
def State.switchSets (s : State) (kind : Nat) (l : Launch) : Nat × Nat × Nat × Nat :=
  let v := fun (i : Nat) => (Config.free 40 (16777216 * s.free + i)).toNat
  if kind = 1 then (v 1, v 2, 0, v 4) else (l.sets.1, l.sets.2.1, l.sets.2.2, v 4)

/-- The switch record (R344). -/
def State.switchRecord (s : State) (x : Part) (kind : Nat) (l : Launch) : List Byte :=
  let v := s.switchSets kind l
  bytesOfNat 4 kind ++ bytesOfNat 4 (if kind = 1 then s.freshCtx x else s.oldCtx x l.num) ++ bytesOfNat 8 v.1 ++ bytesOfNat 8 v.2.1 ++
    bytesOfNat 8 v.2.2.1 ++ bytesOfNat 8 v.2.2.2 ++ List.replicate 24 0

/-- Sets PREQ.REQ. -/
def Core.request (k : Core) : Core :=
  { k with seq := { k.seq with req := true, reqTicks := if k.seq.req then k.seq.reqTicks else 0 } }

/-- The scheduler writes the switch record and sets PREQ.REQ on every member core. -/
def State.orderSwitch (s : State) (p : Nat) (x : Part) (kind : Nat) (l : Launch) : State :=
  let s1 := (s.schedWrite p (4096 * x.desc.swblk) (s.switchRecord x kind l)).getD s
  (s1.modCores (s1.members x) Core.request).modPart p (fun y => { y with swkind := kind })

/-- Resident contexts, RES of the launch window. -/
def Part.residents (x : Part) : Nat := (x.table.filter (fun l => l.resident)).length

/-- The partition's running launch. -/
def Part.current (x : Part) : Option Launch := x.table.find? (fun l => l.running)

/-- A launch is being accepted, or staged to pre-empt. -/
def Part.busy (x : Part) : Bool := x.table.any (fun l => (l.accepting || l.outrank) && l.status.isNone)

/-- A launch outranks the running one (R343). -/
def Part.outranks (x : Part) (l : Launch) : Bool :=
  x.pen && l.ready && l.status.isNone && !l.resident && !l.running && decide (x.residents < 4) &&
    (match x.current with
     | some r => r.status.isNone && decide (r.prio < l.startPrio)
     | none => false)

/-- The cores are to switch to an outranking launch: the running one becomes resident, its image to lie in the sets the
record names, and the other is under acceptance unless HALT stops it (R342). -/
def Part.preempts (x : Part) (l : Launch) (sets : Nat × Nat × Nat × Nat) : Part :=
  { x with valid := false, profile := x.profileOf l,
           table := x.table.map (fun m =>
            if m.running then { m with running := false, resident := true, sets := (sets.1, sets.2.1, sets.2.2.2) }
            else if m.num = l.num then { m with accepting := !x.halt, outrank := false } else m) }

/-- What an outranking launch does next: it is checked and staged, then the cores are asked to switch. -/
def State.outrankStep (s : State) (p : Nat) (x : Part) (l : Launch) : Option State :=
  if l.outrank && l.staged && x.outranks l then
    (if s.schedWaits p (4096 * x.desc.swblk) then none
     else
       let v := s.switchSets 1 l
       some (((s.orderSwitch p x 1 l).installProfile p x (x.profileOf l)).modPart p (fun y => y.preempts l v)))
  else if x.outranks l && !x.busy then
    some (s.setPart p (x.modLaunch l.num (fun y =>
      if y.bad (s.members x).length then { y with status := some 2 } else { y with outrank := true })))
  else none

def execOutrankPreempt (p i : Nat) (s : State) : Host.Outcome State Fault Refusal :=
  s.whenOk (match s.launchAt p i with
      | some (x, l) => (s.outrankStep p x l).isSome
      | none => false)
    (fun t => match t.launchAt p i with
      | some (x, l) => (t.outrankStep p x l).getD t
      | none => t)

/-! ### Acceptance (R342, R348) -/

/-- A launch comes before another in the order of R342. -/
def Launch.before (a b : Launch) : Bool :=
  if a.prio ≠ b.prio then decide (b.prio < a.prio)
  else if a.resident ≠ b.resident then a.resident
  else decide (a.num < b.num)

/-- The ready launch chosen next. -/
def Part.chosen (x : Part) : Option Launch :=
  (x.table.filter (fun l => l.ready && l.status.isNone && !l.running)).foldl (fun m l =>
    match m with
    | none => some l
    | some k => if l.before k then some l else some k) none

/-- A channel whose wait for retraining has run out takes no new launch of the partitions it serves (R400). -/
def State.chanHolds (s : State) (x : Part) : Bool :=
  x.desc.chanEntries.any (fun i => (s.chans[i / 512]?.getD Channel.off).expired)

/-- A launch may be chosen. One that was staged to pre-empt a launch that has ended since is chosen, or not, like any
other. -/
def State.mayChoose (s : State) (x : Part) : Bool :=
  x.current.isNone && !x.table.any (fun l => l.accepting && l.status.isNone) && !x.halt && !s.chanHolds x && x.chosen.isSome

/-- The greatest TICK die 0 knows among a partition's dies, plus 16,384 (R52). -/
def State.baseTick (s : State) (x : Part) : Word :=
  (s.diesOf x).foldl (fun m d =>
    let v := if d = 0 then (s.die 0).tick else (s.die 0).beacon[d]?.getD 0
    if m.ult v then v else m) 0 + 16384

/-- The cores a launch waits for have flipped, or have switched to the context that resumes. -/
def State.flipped (s : State) (x : Part) (l : Launch) : Bool :=
  (s.members x).all (fun c =>
    let k := s.coreAt c
    k.share.launch == l.num && (if l.resident then !k.seq.sup && !k.seq.req else k.share.phase == .flipped))

/-- The chosen launch is checked; one that passes has its profile installed, and the cores of one that resumes are asked to
switch. -/
def State.beginAccept (s : State) (p : Nat) (x : Part) (l : Launch) : State :=
  if l.bad (s.members x).length then s.setPart p (x.modLaunch l.num (fun y => { y with status := some 2 }))
  else
    (s.installProfile p x (x.profileOf l)).setPart p
      { x with profile := x.profileOf l,
               table := x.table.map (fun y => if y.num = l.num then { y with accepting := true, outrank := false } else { y with outrank := false }) }

/-- Step 5 of R348: LBT, SEED, VALID, RTOKEN and the start tokens; a launch that resumes keeps its LBT and needs no token. -/
def State.startLaunch (s : State) (p : Nat) (x : Part) (l : Launch) : State :=
  let seedBytes := bytesOfNat 8 l.seed.toNat
  let s1 := if l.resident then s else (s.schedWrite p (l.lnrVa + 40) seedBytes).getD s
  s1.modPart p (fun y =>
    { y with valid := true, rtoken := l.token }.modLaunch l.num (fun m =>
      { m with accepting := false, running := true, resident := false, staged := false,
               lbt := if m.resident then m.lbt else s.baseTick x,
               raw := if m.resident then m.raw else m.raw.take 40 ++ seedBytes ++ m.raw.drop 48,
               tokens := if m.resident then [] else s.members x }))

/-- What acceptance in a partition does next; none while it waits. -/
def State.acceptStep (s : State) (p : Nat) (x : Part) : Option State :=
  match x.table.find? (fun l => l.accepting && l.status.isNone) with
  | some l =>
    if !l.staged || x.current.isSome then none
    else if l.resident && !(s.members x).all (fun c => (s.coreAt c).seq.req || (s.coreAt c).seq.sup || (s.coreAt c).share.launch == l.num) then
      (if s.schedWaits p (4096 * x.desc.swblk) then none else some (s.orderSwitch p x 2 l))
    else if s.flipped x l && !s.schedWaits p (l.lnrVa + 40) then some (s.startLaunch p x l)
    else none
  | none =>
    if s.mayChoose x then x.chosen.map (fun l => s.beginAccept p x l) else none

def execAcceptance (p : Nat) (s : State) : Host.Outcome State Fault Refusal :=
  s.whenOk (match s.part? p with
      | some x => (s.acceptStep p x).isSome
      | none => false)
    (fun t => match t.part? p with
      | some x => (t.acceptStep p x).getD t
      | none => t)

end Sys2Proof.Machine
end

