-- ==== Sys2Proof/Machine/Shares.lean ====
section
/-! DEFINITION. A core's share of a launch, from the flip to its end: flips, start tokens, parameter swaps, the walker's
tile entries, the end of the share, and completion (R50-R58, R280, R340, R346-R348). -/

namespace Sys2Proof.Machine

/-! ### The hardware flip (R346) -/

/-- Keeps a share that has ended beside the present one until its launch completes. -/
def Core.keepShare (k : Core) : List Share :=
  if k.share.phase = Phase.idle then k.saved else k.share :: k.saved.filter (fun x => x.launch != k.share.launch)

/-- The core flips: its shadow plane becomes current and gives the initial state, the supervisor bank is zeroed, and SEN
and SBASE are taken from the image. -/
def Core.flip (k : Core) (p num : Nat) (sen : Bool) : Core :=
  let k1 := k.swapPlanes
  let k2 := k1.initial k1.cur
  let sh : Share := { Share.idle with phase := .flipped, launch := num, part := p }
  { k2 with
    seq := { k2.seq with
      sup := false, ps := false, rw := false, sen := sen && k1.cur.sen, svr := Bank.zero, sbase := k1.cur.sbase, pc := 0,
      tpcEnd := false, req := false, reqTicks := 0, rpl := false, count := 0, late := none, traps := [],
      results := k2.seq.results.filter (fun r => k.saved.any (fun y => y.launch == r.launch)), draining := false, pre := none, lateDue := false,
      wait := 0, half := false, ended := true, frz := Freeze.none, ckpt := none, win := Window.empty, fresh := false, back := 0 },
    em := Engine.reset, ev := Engine.reset, ex := Engine.reset, fences := [],
    x := { k2.x with voids := k2.x.voids.filter (fun v => k.saved.any (fun y => y.launch == v.1)) },
    cur := { k1.cur with init := false },
    share := sh, saved := k.keepShare }

/-- The launch whose staged plane the core in focus may flip to: its share has ended, and no pre-emption is to switch it
instead. -/
def State.flipTo (s : State) : Option (Nat × Part × Launch) :=
  let k := s.core
  match s.myPart with
  | some (p, x) =>
    let ready := (k.share.phase == .done || k.share.phase == .idle) && !k.seq.sup && !(k.seq.req && k.seq.sen) && !k.obs.stopped &&
      k.seq.pre.isNone && k.enginesIdle && k.quiet && k.x.wbs.isEmpty
    if !ready then none
    else
      match x.table.find? (fun l => l.accepting && l.staged && l.status.isNone && !l.resident && x.current.isNone) with
      | some l => if k.shd.launch == some l.num && k.shd.init then some (p, x, l) else none
      | none => none
  | none => none

def execHardwareFlip (c : Nat) (s : State) : Host.Outcome State Fault Refusal :=
  s.atCore c (fun t => t.flipTo.isSome) (fun t =>
    match t.flipTo with
    | some (p, x, l) => t.onCore (fun k => k.flip p l.num x.desc.sen)
    | none => t)

/-! ### Start tokens (R348) -/

/-- The launch whose start token is on its way to the core in focus. -/
def State.tokenFor (s : State) : Option (Nat × Part × Launch) :=
  match s.myPart with
  | some (p, x) =>
    (x.table.find? (fun l => l.tokens.contains s.here && s.core.share.launch == l.num && s.core.share.phase == .flipped && !s.core.seq.sup)).map
      (fun l => (p, x, l))
  | none => none

/-- A core's share of a launch as its start token begins it; a core without a tile has none to run (R55). -/
def shareOf (p lcore : Nat) (l : Launch) : Share :=
  { Share.idle with
    phase := if l.ncore ≤ lcore ∨ l.tiles ≤ lcore then .done else if l.parvbn = 0 then .aligning else .swapIn,
    launch := l.num, part := p, lcore := lcore, n := l.ncore, tile := lcore, tiles := l.tiles, lbt := l.lbt, seed := l.seed,
    parvbn := if l.ncore ≤ lcore ∨ l.tiles ≤ lcore then 0 else l.parvbn,
    dims := (List.range l.ndim).map l.ext, order := (List.range l.ndim).map l.order, serp := l.serp, token := l.token }

/-- The token arrives. -/
def State.takeToken (s : State) (p : Nat) (x : Part) (l : Launch) : State :=
  let lcore := (s.members x).findIdx (· == s.here)
  let restart := fun (e : Engine) => if s.core.enginesIdle then { e with disp := 0, retired := 0, ret := 0, last := none, started := 0 } else e
  let s1 := s.setPart p (x.modLaunch l.num (fun y => { y with tokens := y.tokens.erase s.here }))
  (s1.onCore (fun k => { k with
    share := shareOf p lcore l, x := { k.x with credits := Config.creditMax, credit := 0 },
    em := restart k.em, ev := restart k.ev, ex := restart k.ex })).realign

def execStartToken (c : Nat) (s : State) : Host.Outcome State Fault Refusal :=
  s.atCore c (fun t => t.tokenFor.isSome) (fun t =>
    match t.tokenFor with
    | some (p, x, l) => t.takeToken p x l
    | none => t)

/-! ### Parameter swaps (R53) -/

/-- The parameter block's home, where it translates and its channel works. -/
def State.paramHome (s : State) : Option Leaf :=
  match s.translateP s.partNum .write (4096 * (s.core.share.parvbn + s.core.share.lcore)) with
  | .ok l => if s.lostBlock l.pbn then none else some l
  | .error _ => none

/-- Near slot 255 and the home swap. -/
def State.swapParam (s : State) (l : Leaf) : State :=
  let out := s.core.near.block 255
  let inn := s.mainBlock l.key l.pbn
  (s.onCore (fun k => { k with near := k.near.setBlock 255 inn })).writeHome false
    { home := Home.near l.pbn, key := l.key, block := out, passed := 0 }

/-- A swap can be made now. -/
def State.mayParam (s : State) (ph : Phase) : Bool :=
  s.core.share.phase == ph && !s.core.obs.stopped && !s.core.share.stop &&
    !s.blockWaits s.partNum (s.core.share.parvbn + s.core.share.lcore)

/-- A swap that faults ends the share with FAULT. -/
def Core.faultSwap (k : Core) : Core := { k with share := { k.share with phase := .done, fault := true, parvbn := 0 } }

def execParameterSwapIn (c : Nat) (s : State) : Host.Outcome State Fault Refusal :=
  s.atCore c (fun t => t.mayParam .swapIn) (fun t =>
    match t.paramHome with
    | some l => ((t.swapParam l).onCore (fun k => { k with share := { k.share with phase := .aligning } })).realign
    | none => t.onCore Core.faultSwap)

def execParameterSwapOut (c : Nat) (s : State) : Host.Outcome State Fault Refusal :=
  s.atCore c (fun t => t.mayParam .swapOut) (fun t =>
    match t.paramHome with
    | some l => (t.swapParam l).onCore (fun k => { k with share := { k.share with phase := .done, parvbn := 0 } })
    | none => t.onCore Core.faultSwap)

/-! ### The walker (R54, R55) -/

/-- The index of each dimension of tile `t`: positions from the outermost on, with the stride before them. -/
def walkIdx (dims : List Nat) (serp : BitVec 8) (t : Nat) : Nat → List Nat → List (Nat × Nat)
  | _, [] => []
  | stride, d :: rest =>
    let e := dims[d]?.getD 1
    let outer := t / stride
    let st := stride / e
    let x := t / st % e
    (d, if serp.getLsbD d && outer % 2 == 1 then e - 1 - x else x) :: walkIdx dims serp t st rest

/-- The eight indexes of a tile; an undeclared dimension's is 0. -/
def Share.index (x : Share) (t i : Nat) : Nat :=
  ((walkIdx x.dims x.serp t x.tiles x.order).find? (fun e => e.1 == i)).elim 0 Prod.snd

/-- The preloads of a tile entry. -/
def Share.preloads (x : Share) : List (Nat × Nat) :=
  [(21, x.lcore), (22, x.tile), (23, x.n)] ++ (List.range 8).map (fun i => (24 + i, x.index x.tile i))

/-- A tile entry: preloads, and the control stream at its first word; the first of a launch clears the freeze counters
(R386). -/
def Core.enterTile (k : Core) : Core :=
  let x := k.share
  { k with
    seq := { k.seq with
      thr := x.preloads.foldl (fun b e => b.put (BitVec.ofNat 5 e.1) (BitVec.ofNat 64 e.2)) k.seq.thr,
      pc := 0, wait := 0, half := false, ended := false },
    share := { x with phase := .running },
    obs := if x.tile = x.lcore then { k.obs with frz := Vector.replicate 4 0 } else k.obs }

/-- A tile entry is due. -/
def Core.tileDue (k : Core) : Bool :=
  k.share.phase == .entry && k.seq.wait == 0 && !k.seq.sup && !k.share.stop && !k.seq.draining && !k.frozen

def execTileEntry (c : Nat) (s : State) : Host.Outcome State Fault Refusal :=
  s.atCore c (fun t => t.core.tileDue) (fun t => t.onCore Core.enterTile)

/-! ### The end of a share (R58, R280) -/

/-- Everything of the share has run out. -/
def Core.shareDone (k : Core) : Bool :=
  k.share.phase == .ending && !k.seq.sup && !k.seq.trapped && !k.seq.draining && k.seq.pre.isNone && !k.share.stop &&
    !k.obs.stopped && k.enginesIdle && k.quiet && k.x.wbs.isEmpty

/-- Payloads no word claimed are discarded and counted. -/
def State.discardPayloads (s : State) : State :=
  let n := s.core.share.launch
  let mine := fun (p : Payload) => p.launch == n
  let held := fun (h : Held) => h.core == s.here && mine h.pay
  let late := s.core.x.waiting.filter (fun w => mine w.2)
  let count := (s.core.x.landing.filter mine).length + (s.core.x.inflow.filter mine).length + late.length +
    ((s.die s.myDie).hold.filter held).length
  let s0 := (s.onCore (fun k => { k with
      seq := { k.seq with results := k.seq.results.filter (fun r => r.launch != n) },
      x := { k.x with
        landing := k.x.landing.filter (fun p => !mine p), inflow := k.x.inflow.filter (fun p => !mine p),
        waiting := k.x.waiting.filter (fun w => !mine w.2), voids := k.x.voids.filter (fun v => v.1 != n) } })).modDie s.myDie
    (fun d => { d with hold := d.hold.filter (fun h => !held h) })
  let s1 := late.foldl (fun t w => t.endSender w.1) s0
  if count = 0 then s1 else s1.raiseHere (s1.coreEvent 0x0C 0x05 0 (BitVec.ofNat 64 count) .seq 0 0)

/-- The share ends: its parameter block is still to go home, or all is done. -/
def State.endShareNow (s : State) : State :=
  s.discardPayloads.onCore (fun k => { k with share := { k.share with
    phase := if k.share.parvbn = 0 then .done else .swapOut } })

def execShareEnd (c : Nat) (s : State) : Host.Outcome State Fault Refusal :=
  s.atCore c (fun t => t.core.shareDone) State.endShareNow

/-! ### Completion (R50, R340) -/

/-- A core's share of a launch, wherever it stands. -/
def Core.shareIn (k : Core) (n : Nat) : Option Share := (k.share :: k.saved).find? (fun x => x.launch == n)

/-- Every member core has ended its share of a launch. -/
def State.allDone (s : State) (x : Part) (n : Nat) : Bool :=
  (s.members x).all (fun c =>
    match (s.coreAt c).shareIn n with
    | some y => y.phase == .done
    | none => false)

/-- The status a launch is to complete with: decided before it ran, or once every share has ended; a running launch that is
cancelled completes once its cores have drained (R417). -/
def State.statusOf (s : State) (x : Part) (l : Launch) : Option (BitVec 8) :=
  match l.status with
  | some st => if l.running && !(l.tokens.isEmpty && s.allDone x l.num) then none else some st
  | none =>
    if (l.running || l.resident) && l.tokens.isEmpty && s.allDone x l.num then
      some (if (s.members x).any (fun c =>
          match (s.coreAt c).shareIn l.num with
          | some y => y.fault
          | none => false) then 3 else 0)
    else none

/-- A write of the launch hardware at a completion; one that faults is recorded (R359). -/
def State.doneWrite (s : State) (p va : Nat) (bs : List Byte) : State :=
  match s.schedWrite p va bs with
  | some t => t
  | none => s.schedEvent p

/-- A launch completes: the completion word, then its token byte. -/
def State.complete (s : State) (p : Nat) (x : Part) (l : Launch) (st : BitVec 8) : State :=
  let n : BitVec 48 := x.seq + 1
  let s1 := (s.doneWrite p l.doneva (bytesOfNat 8 (st.toNat * 2 ^ 56 + n.toNat))).doneWrite p (x.tokenVa l.token) [st]
  let s2 := s1.modCores (s.members x) (fun k => { k with saved := k.saved.filter (fun y => y.launch != l.num) })
  s2.modPart p (fun y => { y with
    seq := n, table := y.table.filter (fun m => m.num != l.num), valid := if l.running then false else y.valid })

/-- The first launch of a partition that can complete now. -/
def State.completing (s : State) (p : Nat) : Option (Part × Launch × BitVec 8) :=
  match s.part? p with
  | some x =>
    x.table.findSome? (fun l =>
      match s.statusOf x l with
      | some st => if s.schedWaits p l.doneva || s.schedWaits p (x.tokenVa l.token) then none else some (x, l, st)
      | none => none)
  | none => none

def execLaunchCompletion (p : Nat) (s : State) : Host.Outcome State Fault Refusal :=
  s.whenOk (s.completing p).isSome (fun t =>
    match t.completing p with
    | some (x, l, st) => t.complete p x l st
    | none => t)

end Sys2Proof.Machine
end

