-- ==== Sys2Proof/Machine/HostPort.lean ====
section
/-! DEFINITION. The host port: accesses through BAR2 (R403) and BAR0 (R401, R402), and registers with no behaviour of
their own (R8, R336, R375, R380, R392). An access at offset 2^40 + o stands for one at BAR0 offset o. -/

namespace Sys2Proof.Machine

/-- The host reaches the part. -/
def State.hostUp (s : State) : Bool := s.host.link && s.nib.power && !s.nib.off

/-! ### BAR2 (R403) -/

/-- The partition and virtual address of a BAR2 offset. -/
def State.sliceAddr (s : State) (o : Nat) : Option (Nat × Nat) :=
  match s.part? (o / 2 ^ 33) with
  | some x => some (o / 2 ^ 33, x.apbase.toNat * 2 ^ 33 + o % 2 ^ 33)
  | none => none

/-- An access waits at its home (R125, R152). -/
def State.hostWaits (s : State) (o : Nat) : Bool :=
  match s.sliceAddr o with
  | some (p, va) => s.schedWaits p va
  | none => false

/-- Puts a message into the host's log. -/
def State.tell (s : State) (m : HostMsg) : State := { s with hostLog := s.hostLog ++ [m] }

/-- Marks the words a run of main bytes touches poisoned. -/
def State.poisonMain (s : State) (a n : Nat) : State :=
  { s with main := (List.range ((a + n + 7) / 8 - a / 8)).foldl (fun m i => m.poisonWord (a + 8 * i)) s.main }

/-- A write through BAR2; with EP set, the words written are stored poisoned (R367). -/
def State.bar2Write (s : State) (o : Nat) (data : List Byte) (ep : Bool) : State :=
  match s.sliceAddr o with
  | none => s.tell .unsupported
  | some (p, va) =>
    match s.translateP p .write va with
    | .error _ => s.tell .unsupported
    | .ok l =>
      if s.lostBlock l.pbn then s.tell .unsupported
      else
        let a := 4096 * l.pbn + va % 4096
        let s1 := s.mainWrite l.key a data
        if ep && (s.keyIdent l.key).isSome then s1.poisonMain a data.length else s1

/-- A read through BAR2. -/
def State.bar2Read (s : State) (o n : Nat) : State :=
  match s.sliceAddr o with
  | none => s.tell .unsupported
  | some (p, va) =>
    match s.translateP p .read va with
    | .error _ => s.tell .unsupported
    | .ok l =>
      let r := s.mainRead l.key (4096 * l.pbn + va % 4096) n
      s.tell (.data r.1 (r.2 || s.lostBlock l.pbn))

/-! ### Error window (R375) -/

/-- An error bank as a read of the present tick finds it (R374). -/
def State.bank (s : State) (d b : Nat) : Vector Word 8 := (s.die d).bankBase b

/-- A bank's word as the host sees it: words 2 and 3 of a partition's record only with the debug port open for them. -/
def State.bankShown (s : State) (d b w : Nat) : Word :=
  let k := s.bank d b
  if (w == 2 || w == 3) && fieldAt k[0] 33 7 != 0x7F && !(s.nib.debugOpen && s.nib.scope.getLsbD 1) then 0
  else k[w]?.getD 0

/-- A host read of word 0 sets SEEN of a record held. -/
def State.seeBank (s : State) (d b : Nat) : State :=
  s.modDie d (fun k => k.modBank b (fun w => if w[0].getLsbD 63 then w.set 0 (w[0] ||| (1#64 <<< 62)) else w))

/-- The whole record goes. -/
def State.wipeBank (s : State) (d b : Nat) : State := s.modDie d (fun k => k.modBank b (fun _ => Vector.replicate 8 0))

/-! ### Registers (R8) -/

/-- The member core an observation window selects. -/
def State.selected (s : State) (x : Part) : Option Nat := (s.members x)[x.osel.toNat]?

/-- Changes the observation state of the selected core. -/
def State.modSelected (s : State) (p : Nat) (f : Obs → Obs) : State :=
  match (s.part? p).bind s.selected with
  | some c => s.modCore c (fun k => { k with obs := f k.obs })
  | none => s

/-- TRCTL: a ring writes a clock mark first after EN is set; TRSIZE keeps its value while EN is 1 (R390, R392). -/
def State.putTrctl (s : State) (p : Nat) (v : Word) : State :=
  match s.part? p with
  | some x =>
    let t := s.setPart p { x with
      tren := v.getLsbD 0, trmask := fieldAt v 1 13, trsize := if x.tren then x.trsize else fieldAt v 16 16 }
    if v.getLsbD 0 && !x.tren then
      (s.diesOf x).foldl (fun u d => u.modDie d (fun k => k.setRing { k.ring p with mark := true })) t
    else t
  | none => s

/-- A write to a register with no behaviour of its own: reserved bits are dropped. -/
def State.putReg (s : State) (r : HostReg) (v : Word) : State :=
  match r with
  | .retrain => { s with host := { s.host with retrain := v.getLsbD 0 } }
  | .seed p => s.modPart p (fun x => { x with seed := v })
  | .age p => s.modPart p (fun x => { x with age := fieldAt v 0 32 })
  | .en p => s.modPart p (fun x => { x with en := v.getLsbD 8 })
  | .ctl p => s.modPart p (fun x => { x with pen := v.getLsbD 0, halt := v.getLsbD 1 })
  | .osel p => s.modPart p (fun x => { x with osel := fieldAt v 0 9 })
  | .blctl p => s.modSelected p (fun o => { o with ben := v.getLsbD 0, btrig := fieldAt v 2 6 })
  | .wdog p => s.modSelected p (fun o => { o with wdog := fieldAt v 0 32 })
  | .trctl p => s.putTrctl p v
  | .trbase p => s.modPart p (fun x => if x.tren then x else { x with trbase := fieldAt v 0 40 })
  | .trtail p d => s.modDie d (fun k => k.setRing { k.ring p with tail := fieldAt v 0 32 })
  | .apbase p => s.modPart p (fun x => { x with apbase := fieldAt v 33 19 })
  | .bpc c =>
    if s.stopsOpen then s.modCore c (fun k => { k with obs := { k.obs with bpc := if v.getLsbD 14 then some (fieldAt v 0 14) else none } })
    else s
  | .bpn c e =>
    if s.stopsOpen then s.modCore c (fun k => { k with obs := { k.obs with
      bpn := k.obs.bpn.setIfInBounds (engIdx e) (if v = 0 then none else some v.toNat) } })
    else s
  | .dtick c =>
    if s.stopsOpen then s.modCore c (fun k => { k with obs := { k.obs with dtick := if v = 0 then none else some v } })
    else s
  | .aerStatus => { s with host := { s.host with cor := s.host.cor && !v.getLsbD 0, unc := s.host.unc && !v.getLsbD 1 } }
  | .aerSeverity => { s with host := { s.host with sevFatal := v.getLsbD 0 } }
  | .aerMask => { s with host := { s.host with maskCor := v.getLsbD 0 } }

def execRegisterWrite (r : HostReg) (v : Word) (s : State) : Host.Outcome State Fault Refusal :=
  s.whenOk s.hostUp (fun t => t.putReg r v)

/-! ### BAR0 (R401, R402) -/

/-- The hottest die's hotspot. -/
def State.hottest (s : State) : Int := s.dies.foldl (fun m d => if m < d.hot then d.hot else m) (s.die 0).hot

/-- A device register. -/
def State.deviceReg (s : State) (o : Nat) : Word :=
  if o = 0 then
    BitVec.ofNat 64 (packHi [(2, s.nib.failcnt.toNat), (8, s.nib.reason.toNat), (6, 0), (2, s.nib.mode.toNat)])
  else if o = 8 then BitVec.ofNat 64 (packHi [(8, (s.hottest % 256).toNat), (16, s.nib.nom.toNat)])
  else if o = 0x10 then (if s.host.retrain then 1 else 0)
  else if 0x40 ≤ o ∧ o < 0x100 then
    let c := s.chans[(o - 0x40) / 8]?.getD Channel.off
    BitVec.ofNat 64 (packHi [(32, c.rcnt.toNat), (16, 0), (8, c.temp.toNat), (5, 0), (3, c.state.toNat)])
  else 0

/-- A register of the launch window. -/
def Part.windowReg (x : Part) (o : Nat) : Word :=
  let j := o / 8 % 4
  if o < 0x20 then (x.rbase[j]?.getD 0).setWidth 64
  else if o < 0x40 then (x.rtail[j]?.getD 0).setWidth 64
  else if o < 0x60 then (x.rhead[j]?.getD 0).setWidth 64
  else if o = 0x60 then BitVec.ofNat 64 (256 * x.en.toNat + x.sz.toNat)
  else if o = 0x68 then x.seed
  else if o = 0x70 then x.age.setWidth 64
  else if o = 0x78 then x.seq.setWidth 64
  else if o = 0x80 then
    BitVec.ofNat 64 (packHi [(2, x.rerrj.toNat), (1, x.rerr.toNat), (1, x.valid.toNat), (8, 0), (8, x.residents), (12, 0),
      (20, x.rtoken.toNat)])
  else if o = 0x88 then BitVec.ofNat 64 (2 * x.halt.toNat + x.pen.toNat)
  else 0

/-- Two counters of a conflict matrix, at a byte offset in it. -/
def cmxPair (m : Sparse (BitVec 32)) (o : Nat) : Word := Sparse.get 0 m (o / 4 + 1) ++ Sparse.get 0 m (o / 4)

/-- A register of the observation window (R392). -/
def State.obsReg (s : State) (p : Nat) (x : Part) (o : Nat) : Word :=
  let k : Obs := ((s.selected x).map (fun c => (s.coreAt c).obs)).getD Obs.reset
  if o = 0 then x.osel.setWidth 64
  else if o = 8 then
    BitVec.ofNat 64 (packHi [(8, k.wptr.toNat), (6, k.btrig.toNat), (1, k.bfrozen.toNat), (1, k.ben.toNat)])
  else if o = 0x10 then k.wdog.setWidth 64
  else if 0x18 ≤ o ∧ o < 0x38 then k.frz[(o - 0x18) / 8]?.getD 0
  else if o = 0x40 then BitVec.ofNat 64 (packHi [(16, x.trsize.toNat), (2, 0), (13, x.trmask.toNat), (1, x.tren.toNat)])
  else if o = 0x48 then x.trbase.setWidth 64
  else if 0x50 ≤ o ∧ o < 0x70 then ((s.die ((o - 0x50) / 8)).ring p).head.setWidth 64
  else if 0x70 ≤ o ∧ o < 0x90 then ((s.die ((o - 0x70) / 8)).ring p).tail.setWidth 64
  else if 0x100 ≤ o ∧ o < 0x280 then cmxPair k.cmx (o - 0x100)
  else if o = 0x400 then BitVec.ofNat 64 (packHi [(14, k.snap.lend.toNat), (2, k.snap.lc.toNat), (32, k.snap.seq.toNat)])
  else if o = 0x408 then k.snap.scyc
  else if o = 0x410 then k.snap.tick
  else if 0x418 ≤ o ∧ o < 0x438 then k.snap.frz[(o - 0x418) / 8]?.getD 0
  else if 0x500 ≤ o ∧ o < 0x680 then cmxPair k.snap.cmx (o - 0x500)
  else if 0x1000 ≤ o ∧ o < 0x2000 then
    let r : BitVec 128 := Sparse.get 0 k.blot ((o - 0x1000) / 16)
    if o / 8 % 2 = 0 then fieldAt r 0 64 else fieldAt r 64 64
  else 0

/-- The launch and observation windows stand in reset in chrysalis mode (R408). -/
def State.windowsUp (s : State) : Bool := s.nib.mode != 2

/-- The doubleword at a BAR0 offset, a multiple of 8. -/
def State.bar0Word (s : State) (o : Nat) : Word :=
  if o < 0x1000 then s.deviceReg o
  else if o < 0x2000 then BitVec.ofNat 64 (natOfBytes (Mem.read s.nib.mail (o - 0x1000) 8))
  else if o < 0x3000 then s.bankShown ((o - 0x2000) / 1024) ((o - 0x2000) / 64 % 16) (o / 8 % 8)
  else if o < 0x10000 ∨ !s.windowsUp then 0
  else if o < 0x8F000 then
    (match s.part? ((o - 0x10000) / 0x1000) with
     | some x => x.windowReg (o % 0x1000)
     | none => 0)
  else if 0x100000 ≤ o ∧ o < 0x1FE000 then
    (match s.part? ((o - 0x100000) / 0x2000) with
     | some x => s.obsReg ((o - 0x100000) / 0x2000) x (o % 0x2000)
     | none => 0)
  else if 0x200000 ≤ o ∧ o < 0x2003F8 then
    (match s.part? ((o - 0x200000) / 8) with
     | some x => (x.apbase ++ 0#33 : BitVec 52).setWidth 64
     | none => 0)
  else 0

/-- What reading a doubleword of BAR0 changes: SEEN of a bank whose word 0 it is. -/
def State.bar0Seen (s : State) (o : Nat) : State :=
  if 0x2000 ≤ o ∧ o < 0x3000 ∧ o / 8 % 8 = 0 then s.seeBank ((o - 0x2000) / 1024) ((o - 0x2000) / 64 % 16) else s

/-- A write of a doubleword of the launch window. -/
def State.putWindow (s : State) (p o : Nat) (v : Word) : State :=
  let j := o / 8 % 4
  if o < 0x20 then s.modPart p (fun x => x.putBase j v)
  else if o < 0x40 then s.modPart p (fun x => x.putTail j v)
  else if o = 0x60 then (s.putReg (.en p) v).modPart p (fun x => x.putSz v)
  else if o = 0x68 then s.putReg (.seed p) v
  else if o = 0x70 then s.putReg (.age p) v
  else if o = 0x80 ∧ v.getLsbD 49 then s.modPart p Part.clearErr
  else if o = 0x88 then s.putReg (.ctl p) v
  else s

/-- A write of a doubleword of the observation window; 1 written to FROZEN resumes the blotter (R384). -/
def State.putObs (s : State) (p o : Nat) (v : Word) : State :=
  if o = 0 then s.putReg (.osel p) v
  else if o = 8 then
    let t := s.putReg (.blctl p) v
    if v.getLsbD 1 then t.modSelected p (fun k => { k with bfrozen := false }) else t
  else if o = 0x10 then s.putReg (.wdog p) v
  else if o = 0x40 then s.putReg (.trctl p) v
  else if o = 0x48 then s.putReg (.trbase p) v
  else if 0x70 ≤ o ∧ o < 0x90 then s.putReg (.trtail p ((o - 0x70) / 8)) v
  else s

/-- Bytes written to the host mailbox; STATUS written as 0x00 asks Nib (R409). -/
def State.putMail (s : State) (a : Nat) (bs : List Byte) : State :=
  let bytes := bs.take (4096 - a)
  let ask := decide (a ≤ 2) && (bytes[2 - a]?) == some 0
  { s with nib := { s.nib with
      mail := Mem.write s.nib.mail a bytes,
      asked := if ask && !s.nib.asked.contains .host then s.nib.asked ++ [.host] else s.nib.asked } }

/-- A write of a whole doubleword of BAR0. -/
def State.putBar0 (s : State) (o : Nat) (v : Word) : State :=
  if o = 0x10 then s.putReg .retrain v
  else if 0x2000 ≤ o ∧ o < 0x3000 then
    (if o / 8 % 8 = 0 ∧ v.getLsbD 63 then s.wipeBank ((o - 0x2000) / 1024) ((o - 0x2000) / 64 % 16) else s)
  else if !s.windowsUp then s
  else if 0x10000 ≤ o ∧ o < 0x8F000 then s.putWindow ((o - 0x10000) / 0x1000) (o % 0x1000) v
  else if 0x100000 ≤ o ∧ o < 0x1FE000 then s.putObs ((o - 0x100000) / 0x2000) (o % 0x2000) v
  else if 0x200000 ≤ o ∧ o < 0x2003F8 then s.putReg (.apbase ((o - 0x200000) / 8)) v
  else s

/-- Writes the whole doublewords of a run of BAR0 bytes, in order. -/
def State.bar0Words (s : State) (o : Nat) : List Byte → Nat → State
  | _, 0 => s
  | bs, n + 1 =>
    if bs.length < 8 then s
    else (s.putBar0 o (BitVec.ofNat 64 (natOfBytes (bs.take 8)))).bar0Words (o + 8) (bs.drop 8) n

/-- A BAR0 write: bytes of the mailbox, whole aligned doublewords elsewhere. -/
def State.bar0Write (s : State) (o : Nat) (data : List Byte) : State :=
  if 0x1000 ≤ o ∧ o < 0x2000 then s.putMail (o - 0x1000) data
  else if o % 8 = 0 then s.bar0Words o data (data.length / 8) else s

/-- Bytes of BAR0. -/
def State.bar0Bytes (s : State) (o n : Nat) : List Byte :=
  (List.range n).map (fun i => (fieldAt (s.bar0Word ((o + i) / 8 * 8)) (8 * ((o + i) % 8)) 8 : BitVec 8))

/-- A BAR0 read. -/
def State.bar0Read (s : State) (o n : Nat) : State :=
  ((List.range ((o + n + 7) / 8 - o / 8)).foldl (fun t i => t.bar0Seen (8 * (o / 8 + i))) s).tell (.data (s.bar0Bytes o n) false)

/-! ### Host accesses -/

def execHostWrite (o : Nat) (data : List Byte) (ep : Bool) (s : State) : Host.Outcome State Fault Refusal :=
  s.whenOk (s.hostUp && (decide (2 ^ 40 ≤ o) || !s.hostWaits o))
    (fun t => if 2 ^ 40 ≤ o then t.bar0Write (o - 2 ^ 40) data else t.bar2Write o data ep)

def execHostRead (o n : Nat) (s : State) : Host.Outcome State Fault Refusal :=
  s.whenOk (s.hostUp && (decide (2 ^ 40 ≤ o) || !s.hostWaits o))
    (fun t => if 2 ^ 40 ≤ o then t.bar0Read (o - 2 ^ 40) n else t.bar2Read o n)

end Sys2Proof.Machine
end

