-- ==== Sys2Proof/Machine/Errors.lean ====
section
/-! DEFINITION. Error events as units raise them, retried frames, watchdogs, blotters and clock marks (R366-R375,
R383-R390). -/

namespace Sys2Proof.Machine

/-! ### Where an event goes (R372) -/

/-- The core whose share holds a die byte of a partition. -/
def State.shareHome (s : State) (p a : Nat) : Option Nat :=
  (s.part? p).map (fun x => (diePlace (s.membersOn x) a).1)

/-- The die and bank of an event seen on die `d`, by its source unit. -/
def State.bankFor (s : State) (d : Nat) (ev : ErrEv) : Nat × Nat :=
  let src := ev.src.toNat
  let quad := fun (c : Nat) => (dieOf c, bankOfCore c)
  let own := if ev.ofCore then quad ev.core.toNat else (d, 15)
  if src = 0x20 ∨ src = 0x21 then
    let ch := s.chanOf (ev.addr.toNat / 4096)
    (ch / 6, 8 + ch % 6)
  else if src = 0x10 then ((s.shareHome ev.part.toNat ev.addr.toNat).map quad).getD own
  else if src = 0x30 ∨ src = 0x31 ∨ src = 0x42 then (d, 14)
  else if src = 0x50 then (0, 15)
  else if 0x38 ≤ src then (d, 15)
  else own

/-- Records an event. -/
def State.raiseFor (s : State) (d : Nat) (ev : ErrEv) : State :=
  let b := s.bankFor d ev
  s.raise b.1 b.2 ev

/-! ### What an event does besides (R366-R368) -/

/-- The stream an ENG field names. -/
def streamOf (n : Nat) : Stream := if n = 1 then .m else if n = 2 then .v else if n = 3 then .x else .seq

/-- A check beside a step of a stream is to fail: its next word raises PIPE (R368). -/
def Core.failCheck (k : Core) (e : Stream) : Core :=
  if e = .seq then { k with seq := { k.seq with pipe := true } } else k.modEng e (fun x => { x with pipe := true })

/-- Register words as an event names them: word + 64 · index + 4,096 · class, and 2^16 + key for a cell (DESIGN CHOICE,
log entry 72, as the names of plane, landing buffer and exchange buffer words below). -/
def Core.spoilRegister (k : Core) (a : Nat) : Core :=
  if 65536 ≤ a then { k with mat := { k.mat with bad := insertNat (a % 65536 % 32768) k.mat.bad } }
  else { k with badReg := (a / 4096, a / 64 % 64, a % 64) :: k.badReg }

/-- A word of an instruction plane: of the current one, or with bit 17 of the shadow one. -/
def Core.spoilPlane (k : Core) (a : Nat) : Core :=
  let put := fun (p : Plane) => { p with bad := insertNat (a % 131072 / 8) p.bad }
  if a / 131072 % 2 = 1 then { k with shd := put k.shd } else { k with cur := put k.cur }

/-- A word of a payload. -/
def Payload.spoil (p : Payload) (a : Nat) : Payload := { p with data := p.data.poisonWord a }

/-- A word of the landing buffer and the inflow queue, counted on by payloads of 512 bytes. -/
def XEng.spoilLanding (x : XEng) (a : Nat) : XEng :=
  let n := x.landing.length
  { x with landing := modAt x.landing (a / 512) (fun p => p.spoil (a % 512)),
           inflow := if a / 512 < n then x.inflow else modAt x.inflow (a / 512 - n) (fun p => p.spoil (a % 512)) }

/-- A word of the copies of exchanges that have not committed, counted on by blocks. -/
def spoilCopies (b a : Nat) : List Acc → List Acc
  | [] => []
  | x :: r =>
    match x.kind with
    | .xch y =>
      if b < y.out.length then { x with kind := .xch { y with out := modAt y.out b (fun m => m.poisonWord a) } } :: r
      else x :: spoilCopies (b - y.out.length) a r
    | _ => x :: spoilCopies b a r

/-- Changes the copy of a write-back that stands at a place among all of them. -/
def strikeCopy (b : Nat) (f : HomeWrite → HomeWrite) : List WriteBack → List WriteBack
  | [] => []
  | w :: r =>
    if b < w.homes.length then { w with homes := modAt w.homes b f } :: r else w :: strikeCopy (b - w.homes.length) f r

/-- A word of a copy is damaged. -/
def HomeWrite.spoil (h : HomeWrite) (a : Nat) : HomeWrite := { h with block := h.block.poisonWord a }

/-- A word of the exchange buffer: copies still to commit, then those written back. -/
def XEng.spoilBuffer (x : XEng) (a : Nat) : XEng :=
  let n := (x.accs.map (fun c => match c.kind with
    | .xch y => y.out.length
    | _ => 0)).sum
  if a / 4096 < n then { x with accs := spoilCopies (a / 4096) (a % 4096) x.accs }
  else { x with wbs := strikeCopy (a / 4096 - n) (fun h => h.spoil (a % 4096)) x.wbs }

/-- A stored word becomes poisoned where an uncorrectable error marks it (R367). -/
def State.markWordPoisoned (s : State) (d : Nat) (ev : ErrEv) : State :=
  let src := ev.src.toNat
  let a := ev.addr.toNat
  let onCore := s.modCore ev.core.toNat
  if src = 0x01 then onCore (fun k => { k with near := k.near.poisonWord (a % Config.nearBytes) })
  else if src = 0x02 ∨ src = 0x03 then onCore (fun k => k.spoilRegister a)
  else if src = 0x04 then onCore (fun k => k.spoilPlane a)
  else if src = 0x05 then onCore (fun k => { k with x := k.x.spoilLanding a })
  else if src = 0x06 then onCore (fun k => { k with x := k.x.spoilBuffer a })
  else if src = 0x10 then
    (match s.part? ev.part.toNat with
     | some x => { s with dieStore := s.dieStore.poisonWord (diePlace (s.membersOn x) a).2 }
     | none => s)
  else if src = 0x20 then { s with main := s.main.poisonWord a }
  else if src = 0x38 then
    s.modDie d (fun x => { x with recovery := x.recovery.map (fun (e : Nat × Parked) =>
      if e.1 = a / 4096 then (e.1, { e.2 with block := e.2.block.poisonWord (a % 4096) }) else e) })
  else if src = 0x42 then
    s.modDie d (fun x => { x with hold := modAt x.hold (a / 512) (fun h => { h with pay := h.pay.spoil (a % 512) }) })
  else s

/-- A word of a committed exchange's outgoing copy is found damaged, and the copy written poisoned (R128): the copy whose
home holds the event's main address, or, seen elsewhere, the one at the place its address counts. -/
def State.poisonCopy (s : State) (ev : ErrEv) : State :=
  let a := ev.addr.toNat
  let f := fun (h : HomeWrite) => h.spoil (a % 4096)
  let at_ := fun (l : List WriteBack) =>
    if ev.src == 0x20 then l.map (fun w => { w with homes := w.homes.map (fun h => if h.home == Home.near (a / 4096) then f h else h) })
    else strikeCopy (a / 4096) f l
  s.modCore ev.core.toNat (fun k => { k with x := { k.x with wbs := at_ k.x.wbs } })

/-- The exchange an abandonment event names: the core's first of that section and word. -/
def Core.exchangeOf (k : Core) (ev : ErrEv) : Option Acc :=
  k.x.accs.find? (fun a => (match a.kind with
    | .xch _ => true
    | _ => false) && a.secno == ev.sec && a.widx == ev.widx)

/-- An abandonment for a cause 3 to 5, recorded at the unit the event names; the word that an exchange read found bad is left
marked in place (R126, R367). -/
def State.abandonFor (s : State) (d : Nat) (ev : ErrEv) : State :=
  let cause := ev.detail.toNat % 256
  let t := (if cause = 3 ∨ cause = 4 then s.markWordPoisoned d ev else s).focus ev.core.toNat
  let u := match t.core.exchangeOf ev with
    | some a => (match a.kind with
      | .xch x => t.failXch a x cause ev.src ev.addr.toNat
      | _ => t)
    | none => t
  u.focus s.here

/-- Drops the TLB entries of a die that cover an address (R371, KIND 0x12). -/
def State.dropEntry (s : State) (d : Nat) (a : Nat) : State := s.dropTlb d (fun t => t.vpage == a / 65536)

/-- An error event: its effect on what it struck, and its record. A check of the pipeline raises PIPE, and is recorded
once it is cured or not (R316, R317); an atomic's read half that will be found bad is recorded as it performs (R153). -/
def State.errorStep (s : State) (d : Nat) (ev : ErrEv) : State :=
  if ev.src == 0x07 then s.modCore ev.core.toNat (fun k => k.failCheck (streamOf ev.eng.toNat))
  else if ev.kind == 0x08 then s.abandonFor d ev
  else if ev.kind == 0x0A then s.markWordPoisoned d { ev with src := if ev.src == 0x10 then 0x10 else 0x20 }
  else
    let s1 :=
      if ev.kind == 0x02 then s.markWordPoisoned d ev
      else if ev.kind == 0x09 then s.poisonCopy ev
      else if ev.kind == 0x12 then s.dropEntry d ev.addr.toNat
      else s
    s1.raiseFor d ev

/-- Units fused off or excluded raise nothing (R2, R352). -/
def execErrorEvent (d : Nat) (ev : ErrEv) (s : State) : Host.Outcome State Fault Refusal :=
  s.whenOk (decide (d < 4) && (!ev.ofCore || s.usable ev.core.toNat)) (fun t => t.errorStep d ev)

/-! ### Banks through the host window (R373, R375) -/

def execErrorBankRead (d b : Nat) (s : State) : Host.Outcome State Fault Refusal :=
  s.whenOk s.hostUp (fun t => (t.seeBank d b).tell (.data (bytesOfNat 8 (t.bankShown d b 0).toNat) false))

def execErrorRecordClear (d b : Nat) (s : State) : Host.Outcome State Fault Refusal :=
  s.whenOk s.hostUp (fun t => t.wipeBank d b)

/-! ### Frames that fail (R369, R371) -/

/-- The event of a failed frame. -/
def frameEvent (l : LinkRef) (ok : Bool) : ErrEv :=
  plainEvent (if ok then 0x06 else 0x07)
    (match l with
     | .fadric _ _ => 0x30
     | .oml _ => 0x21
     | .network _ => 0x31) 127 0 0

/-- The bank a link's events go to. -/
def linkBank : LinkRef → Nat × Nat
  | .fadric a _ => (a, 14)
  | .oml ch => (ch / 6, 8 + ch % 6)
  | .network d => (d, 14)

/-- Counts retries of a Fadric direction; more than 16 within 1,024 ticks are a retry storm. -/
def State.countRetry (s : State) (a b n : Nat) : State :=
  let l := (s.die a).retries[b]?.getD []
  let m := l ++ List.replicate n (s.die a).tick
  let t := s.modDie a (fun d => { d with retries := d.retries.setIfInBounds b m })
  if l.length ≤ 16 ∧ 16 < m.length then t.raise a 14 (plainEvent 0x14 0x30 127 0 0) else t

/-- Traffic of an access of the core in focus crosses a link. -/
def State.crosses (s : State) (l : LinkRef) (a : Acc) : Bool :=
  let on := fun (ch : Nat) (f : Leaf) => s.chanOf f.pbn == ch
  match l, a.kind with
  | .oml ch, .xch x => x.form != .np && !x.arrived && ((leavesOf x.xl).getD []).any (on ch)
  | .oml ch, .atom x => x.main && x.old.isNone && !x.joined && (match x.xl with
    | .ok f => on ch f
    | _ => false)
  | .fadric d e, .load ps _ => ps.any (fun p => !p.done && p.len != 0 && s.pieceWay a p == (d, e))
  | .fadric d e, .store ps => ps.any (fun p => !p.done && p.len != 0 && s.pieceWay a p == (d, e))
  | .fadric d e, .atom x => !x.main && x.old.isNone && !x.joined && (s.myDie, s.homeDie x.addr) == (d, e)
  | .fadric d e, .send none c _ _ _ => (s.myDie, dieOf (s.coreOf s.partNum c)) == (d, e)
  | .fadric d e, .push none c _ _ => !s.pushWaits a.id && (s.myDie, dieOf (s.coreOf s.partNum c)) == (d, e)
  | .fadric d e, .xch x => !x.arrived && x.dieAt == some d && s.myDie == e
  | .network d, .xch x => x.form == .np && !x.arrived && s.myDie == d
  | .network d, .send (some _) _ _ _ _ => s.myDie == d
  | .network d, .push (some _) _ _ _ => s.myDie == d
  | _, _ => false

/-- A home being written lies behind a link. -/
def State.behindLink (s : State) (l : LinkRef) (h : HomeWrite) : Bool :=
  match l with
  | .oml ch => !h.home.pod && s.chanOf h.home.pbn == ch
  | .network d => h.home.pod && s.myDie == d
  | _ => false

/-- What a link carries: accesses, and write-backs, each by its core. -/
def State.onLink (s : State) (l : LinkRef) : List (Nat × Nat) :=
  s.cores.flatMap (fun e =>
    let t := s.focus e.1
    ((t.core.x.accs.filter (t.crosses l)).map (fun a => (e.1, a.id))) ++
      ((t.core.x.wbs.filter (fun w => w.homes.any (t.behindLink l))).map (fun w => (e.1, w.id))))

/-- A frame that failed for good was one of what the link carries, by a free choice: a path failure for it (R369). -/
def State.loseFrame (s : State) (l : LinkRef) : State :=
  let on := s.onLink l
  match on[(Config.free 16 (16777216 * s.free + 70000)).toNat % on.length]? with
  | some (c, id) =>
    let t := s.focus c
    (match t.core.acc? id, t.core.wb? id with
     | some a, _ => t.failAcc a
     | none, some w => t.failWb w (t.behindLink l)
     | none, none => t).focus s.here
  | none => s

/-- A frame is sent again: with success after one to eight retries, or eight times in vain. -/
def execFrameRetry (l : LinkRef) (ok : Bool) (s : State) : Host.Outcome State Fault Refusal :=
  s.whenOk true (fun t =>
    let b := linkBank l
    let u := (if ok then t else t.loseFrame l).raise b.1 b.2 (frameEvent l ok)
    match l with
    | .fadric x y => u.countRetry x y (if ok then 1 + (Config.free 3 (16777216 * t.free)).toNat else 8)
    | _ => u)

/-! ### Watchdogs, blotters, clock marks (R384, R385, R390) -/

/-- The watchdog's count has reached WDOG. -/
def Core.dogDue (k : Core) : Bool := k.obs.wdog != 0 && decide (k.obs.wdog.toNat ≤ k.obs.wdogCnt)

/-- It expires: record, event, trigger; the count restarts. -/
def State.dogBites (s : State) : State :=
  let n := s.core.obs.wdogCnt
  let s1 := (s.note 0xD .seq 0 s.core.seq.pc.toNat (BitVec.ofNat 64 n)).blotTrigger s.here 4
  (s1.raiseHere (s1.coreEvent 0x0F 0x08 0 0 .seq 0 0)).onCore (fun k => { k with obs := { k.obs with wdogCnt := 0 } })

def execWatchdogExpiry (c : Nat) (s : State) : Host.Outcome State Fault Refusal :=
  s.atCore c (fun t => t.core.dogDue) State.dogBites

def execBlotterUnfreeze (c : Nat) (s : State) : Host.Outcome State Fault Refusal :=
  s.atCore c (fun t => t.hostUp && t.core.obs.bfrozen) (fun t => t.onCore (fun k => { k with obs := { k.obs with bfrozen := false } }))

/-- A ring is due a clock mark. -/
def State.markDue (s : State) (p d : Nat) : Bool :=
  match s.part? p with
  | some x => x.tren && (s.diesOf x).contains d && decide (2 ^ 20 ≤ ((s.die d).ring p).sinceMark)
  | none => false

/-- A mark is written, or, where the ring takes none, is due before its next record and counts as a record dropped. -/
def execClockMark (p d : Nat) (s : State) : Host.Outcome State Fault Refusal :=
  s.whenOk (s.markDue p d) (fun t =>
    match t.part? p with
    | some x => (t.ringMark p d x).getD (t.modRing p d (fun q => { q with mark := true, sinceMark := 0, lost := q.lost + 1 }))
    | none => t)

end Sys2Proof.Machine
end

