-- ==== Sys2Proof/Machine/Debug.lean ====
section
/-! DEFINITION. Debug stops, cuts, stepping and debugger writes (R379-R382). -/

namespace Sys2Proof.Machine

/-- Every result whose window a latency bound counts has landed: DSTAT.SETTLED. -/
def Core.settled (k : Core) : Bool := k.x.flight.isEmpty && k.mat.loads.isEmpty && k.mat.feeds.isEmpty

/-- A control-stream word is about to issue. -/
def Core.aboutToIssue (k : Core) : Bool :=
  k.seq.wait == 0 && !k.frozen && !k.silent && !k.seq.draining && k.seq.pre.isNone && (k.seq.sup || k.share.phase == .running)

/-- An engine is about to start the queue entry its trigger counts. -/
def Core.countHit (k : Core) (e : Stream) : Bool :=
  match k.obs.bpn[engIdx e]?.getD none, (k.eng e).queue with
  | some n, q :: _ =>
    decide ((k.eng e).started + 1 = n) && k.mayStart e && (k.startFault e q (k.cur.header (k.headerAt e q))).isNone
  | _, _ => false

/-- A trap entry is at hand: the core has drained to it, to a PREEMPT or to a LATE, and has not stopped for it yet. -/
def State.entering (s : State) : Bool :=
  !s.core.obs.entryStop && ((s.core.trapReady && s.core.seq.draining) || s.core.preemptDrained || s.lateReady)

/-- The condition of a trigger on the core in focus (R380). No register enables triggers 4 and 5: they act while the port
is open for stops (DEDUCED, log entry 28). -/
def State.triggered (s : State) (code : Nat) : Bool :=
  let k := s.core
  if code = 0 then true
  else if code = 1 then k.obs.bpc == some k.seq.pc && k.aboutToIssue
  else if code = 2 then engines.any k.countHit
  else if code = 3 then
    (match k.obs.dtick with
     | some t => !s.tick.ult t
     | none => false)
  else if code = 4 then s.entering
  else if code = 5 then k.obs.hit
  else false

/-- An engine's word of a cut. -/
def cutEngine (x : Engine) : Word :=
  let sec := match x.run with
    | some r => r.entry.secno.toNat
    | none => 0xFFF
  let widx := match x.run with
    | some r => r.next
    | none => 0
  BitVec.ofNat 64 (packHi [(32, x.ret), (12, sec), (12, widx), (5, x.queue.length), (3, 0)])

/-- The cut of a stop (R381). -/
def State.cutOf (s : State) (code : Nat) : Vector Word 6 :=
  let k := s.core
  #v[BitVec.ofNat 64 (packHi [(5, k.seq.bank.depth.toNat), (3, code), (1, k.settled.toNat), (1, k.seq.sup.toNat), (14, k.seq.pc.toNat)]),
     k.seq.scyc, s.tick, cutEngine k.em, cutEngine k.ev, cutEngine k.ex]

/-- The core stops; breakpoints that are met are spent, an engine's count by itself. -/
def State.stopCore (s : State) (code : Nat) : State :=
  let cut := s.cutOf code
  let hit := fun (n : Nat) => s.triggered n
  let own := fun (e : Stream) => if s.core.countHit e then none else s.core.obs.bpn[engIdx e]?.getD none
  let s1 := (s.note 0x9 .seq 0 s.core.seq.pc.toNat (BitVec.ofNat 64 code)).blotTrigger s.here 7
  s1.onCore (fun k => { k with obs := { k.obs with
    stopped := true, code := BitVec.ofNat 3 code, steps := none, cut := cut, hit := false,
    entryStop := k.obs.entryStop || hit 4,
    bpc := if hit 1 then none else k.obs.bpc,
    bpn := #v[own .m, own .v, own .x],
    dtick := if hit 3 then none else k.obs.dtick } })

/-- A trigger may stop the core. -/
def State.mayStop (s : State) (code : Nat) : Bool := s.stopsOpen && !s.core.obs.stopped && s.triggered code

/-- The lowest code among the triggers of a cycle, which its one stop carries. -/
def State.lowest (s : State) (code : Nat) : Nat := (((List.range 6).drop 1).find? s.triggered).elim code (min code)

def execDebugStop (c code : Nat) (s : State) : Host.Outcome State Fault Refusal :=
  s.atCore c (fun t => t.mayStop code) (fun t => t.stopCore (t.lowest code))

def execDebugRun (c : Nat) (s : State) : Host.Outcome State Fault Refusal :=
  s.atCore c (fun t => t.stopsOpen && t.core.obs.stopped)
    (fun t => t.onCore (fun k => { k with obs := { k.obs with stopped := false, steps := none } }))

def execDebugStep (c n : Nat) (s : State) : Host.Outcome State Fault Refusal :=
  s.atCore c (fun t => t.stopsOpen && t.core.obs.stopped && decide (1 ≤ n) && decide (n ≤ 65535))
    (fun t => t.onCore (fun k => { k with obs := { k.obs with stopped := false, steps := some n } }))

def execStepEnd (c : Nat) (s : State) : Host.Outcome State Fault Refusal :=
  s.atCore c (fun t => t.core.obs.steps == some 0 && !t.core.obs.stopped) (fun t => t.stopCore 0)

/-- A loop counter with its first and last word. -/
def Bank.putLoop (b : Bank) (i : BitVec 2) (v : Word) : Bank :=
  { b with lc := b.lc.setIfInBounds i.toNat (fieldAt v 0 32), lstart := b.lstart.setIfInBounds i.toNat (fieldAt v 32 14),
           lend := b.lend.setIfInBounds i.toNat (fieldAt v 48 14) }

/-- Register words of a class and index are written whole and lose their marks (R367). -/
def Core.healReg (k : Core) (cls i : Nat) : Core :=
  { k with badReg := k.badReg.filter (fun r => !(r.1 == cls && r.2.1 == i)) }

/-- A debugger write takes effect at once. Reserved bits of a shape stay zero (R167). -/
def Core.debugPut (k : Core) (t : DbgTarget) (v : BitVec 4096) : Core :=
  match t with
  | .sreg i => { k with seq := k.seq.setBank (k.seq.bank.put i (v.setWidth 64)) }.healReg (if k.seq.sup then 6 else 5) i.toNat
  | .vreg i => { k with vec := { k.vec with v := k.vec.v.setIfInBounds i.toNat v } }.healReg 0 i.toNat
  | .mask i => { k with vec := { k.vec with m := k.vec.m.setIfInBounds i.toNat (v.setWidth 256) } }.healReg 1 i.toNat
  | .pred i => { k with seq := k.seq.setBank (k.seq.bank.putPred i (v.getLsbD 0)) }
  | .shape i =>
    { k with vec := { k.vec with sh := k.vec.sh.setIfInBounds i.toNat (v.setWidth 512 &&& ~~~shapeReserved) } }.healReg 2 i.toNat
  | .quill i =>
    { k with vec := { k.vec with q := k.vec.q.setIfInBounds i.toNat { dir := v.setWidth 2048, norm := fieldAt v 2048 24 } } }.healReg 3 i.toNat
  | .loop i => { k with seq := k.seq.setBank (k.seq.bank.putLoop i (v.setWidth 64)) }
  | .cell t m n =>
    let key := 16384 * t.toNat + 128 * m.toNat + n.toNat
    { k with mat := { k.mat with cells := Sparse.set 0 k.mat.cells key (v.setWidth 64), bad := k.mat.bad.filter (· != key) } }
  | .vflg => { k with vec := { k.vec with flg := v.setWidth 32 } }
  | .tflg t => { k with mat := { k.mat with flg := k.mat.flg.setIfInBounds t.toNat (v.setWidth 64) } }
  | .nearByte a => { k with near := k.near.setByte a.toNat (v.setWidth 8) }

def execDebugWrite (c : Nat) (t : DbgTarget) (v : BitVec 4096) (s : State) : Host.Outcome State Fault Refusal :=
  s.atCore c (fun u => u.nib.debugOpen && u.nib.scope.getLsbD 2 && u.core.obs.stopped && u.core.settled)
    (fun u => u.onCore (fun k => k.debugPut t v))

end Sys2Proof.Machine
end

