-- ==== Sys2Proof/Machine/Links.lean ====
section
/-! DEFINITION. Channels that retrain (R398-R400) and the pod transport (R404). -/

namespace Sys2Proof.Machine

/-! ### Retraining (R399, R400) -/

/-- A channel. -/
def State.chan (s : State) (ch : Nat) : Channel := s.chans[ch]?.getD Channel.off

/-- Changes a channel. -/
def State.modChan (s : State) (ch : Nat) (f : Channel → Channel) : State :=
  { s with chans := s.chans.setIfInBounds ch (f (s.chan ch)) }

/-- A launch of a partition with entries in the channel's table is VALID. -/
def State.chanInUse (s : State) (ch : Nat) : Bool :=
  s.parts.any (fun e => e.2.valid && e.2.desc.chanEntries.any (fun i => i / 512 == ch))

/-- The channel retrains in-band: the policy in force since boot, and both groups work. -/
def State.inBand (s : State) (ch : Nat) : Bool :=
  !s.host.retrainBoot && ((s.chan ch).state == 4 || (s.chan ch).group.isSome)

/-- The event of a channel that enters or leaves half width. -/
def State.halfEvent (s : State) (ch : Nat) : State := s.raise (ch / 6) (8 + ch % 6) (plainEvent 0x15 0x21 127 0 0)

/-- The state in which the other group carries the traffic. -/
def halfWithout (grp : Nat) : BitVec 3 := if grp = 0 then 6 else 5

/-- A channel that must wait until no launch uses it does not wait any more. -/
def State.mayDrain (s : State) (ch : Nat) : Bool := (s.chan ch).waiting && !s.chanInUse ch

/-- A lane group triggers, or a waiting channel begins. -/
def State.retrainStep (s : State) (ch grp : Nat) : State :=
  let c := s.chan ch
  if s.inBand ch then
    (match c.group with
     | none => (s.modChan ch (fun x => { x with
         state := halfWithout grp, group := some grp, next := none, rcnt := x.rcnt + 1 })).halfEvent ch
     | some _ => s.modChan ch (fun x => { x with next := some grp }))
  else if s.mayDrain ch then s.modChan ch (fun x => { x with
    state := 3, group := if x.half then some (if x.state = 5 then 1 else 0) else x.next, next := none, waiting := false })
  else s.modChan ch (fun x => { x with waiting := true, since := s.refCount, next := some grp })

/-- A channel takes the trigger of a group. -/
def State.mayRetrain (s : State) (ch grp : Nat) : Bool :=
  let c := s.chan ch
  decide (ch < 24) && decide (grp < 2) && s.chanActive ch && decide (4 ≤ c.state.toNat) && decide (c.state.toNat ≤ 6) &&
    (if s.inBand ch then c.group != some grp && c.next != some grp || (c.group.isNone) else !c.waiting || s.mayDrain ch)

def execRetrainEntry (ch grp : Nat) (s : State) : Host.Outcome State Fault Refusal :=
  s.whenOk (s.mayRetrain ch grp) (fun t => t.retrainStep ch grp)

/-- A channel fails in service; the next self-test finds it failed (R352, R398). -/
def State.failChan (s : State) (ch : Nat) : State :=
  let t := s.modChan ch (fun x => { x with state := 7, group := none, next := none, waiting := false, expired := false })
  { t with nib := { t.nib with lostChans := ch :: t.nib.lostChans } }.raise (ch / 6) (8 + ch % 6) (plainEvent 0x07 0x21 127 0 0)

/-- A retraining ends: back to FULL, or, where it failed or a group was out before, on the good group until the next boot.
One that stopped the whole channel may leave no good group, a free choice. -/
def State.retrainEnd (s : State) (ch : Nat) (ok : Bool) : State :=
  match (s.chan ch).group with
  | some g =>
    let half := (s.chan ch).state != 3
    if !ok && !half && s.choice ch then s.failChan ch
    else
      let t := s.modChan ch (fun x => { x with
        state := if ok && !x.half then 4 else halfWithout g, group := none, next := if ok then x.next else none, expired := false,
        half := x.half || !ok })
      if ok && half then t.halfEvent ch else t
  | none => s.failChan ch

/-- The channel carries traffic and retrains no group. -/
def State.steady (s : State) (ch : Nat) : Bool :=
  let c := s.chan ch
  s.chanActive ch && c.group.isNone && decide (4 ≤ c.state.toNat) && decide (c.state.toNat ≤ 6)

/-- A retraining ends; or, where none is under way, a channel that carries traffic or waits to retrain fails (R400). -/
def execRetrainExit (ch : Nat) (ok : Bool) (s : State) : Host.Outcome State Fault Refusal :=
  s.whenOk ((s.chan ch).group.isSome || (!ok && s.steady ch)) (fun t => t.retrainEnd ch ok)

/-- Ten seconds of waiting are over: 10^9 reference counts. -/
def State.waitOver (s : State) (ch : Nat) : Bool :=
  let c := s.chan ch
  c.waiting && !c.expired && decide (1000000000 ≤ (s.refCount - c.since).toNat)

def execRetrainWaitExpiry (ch : Nat) (s : State) : Host.Outcome State Fault Refusal :=
  s.whenOk (s.waitOver ch) (fun t => t.modChan ch (fun x => { x with expired := true }))

/-! ### The pod transport (R404) -/

/-- A peer package. -/
def State.peer (s : State) (pkg : Nat) : Peer :=
  (s.peers.find? (fun x => x.pkg == pkg)).getD { pkg := pkg, next := 0, expect := 0, unacked := [] }

/-- Replaces a peer. -/
def State.setPeer (s : State) (p : Peer) : State := { s with peers := p :: s.peers.filter (fun x => x.pkg != p.pkg) }

/-- The receiving core of a pod message: the partition's core of an index (R273). -/
def State.podCore (s : State) (p i : Nat) : Option Nat :=
  match s.part? p with
  | some x => (s.members x)[i]?
  | none => none

/-- A message of another package as a payload for a core's present launch. -/
def State.podPayload (s : State) (c pkg src tag : Nat) (data : List Byte) (poison : List Nat) (push : Bool) : Payload :=
  { launch := (s.coreAt c).share.launch, pkg := some pkg, src := src, tag := tag, len := data.length,
    data := { Store.ofBytes data with poison := poison }, push := push }

/-- The barrier object of a pod barrier. -/
def podBar (p bar : Nat) : BarObj := { part := p, bar := BitVec.ofNat 9 bar, scope := 5, group := 0, got := [] }

/-- The generation a pod barrier holds is complete. -/
def State.finishBar (s : State) (p bar : Nat) : State :=
  match s.barriers.find? (fun o => o.same (podBar p bar)) with
  | some o => { s with barriers := s.barriers.filter (fun x => !x.same o), barMsgs := s.barMsgs ++ o.done 0 }
  | none => s

/-! #### Exchanges of other packages (R118, R356) -/

/-- The core number that stands for a package. -/
def podLocker (pkg : Nat) : Nat := Config.cores + pkg

/-- What a partition's tables under its pod binding make of a block another package asks for: an exchange needs W (R358). -/
def State.podLeaf (s : State) (p vbn : Nat) : Except XFault Leaf :=
  match (s.part? p).bind (fun x => x.desc.bindings.find? (fun b => b.pod)) with
  | some b => s.translate p b.asid .write (4096 * vbn)
  | none => .error (0x06, 0)

/-- A frame that answers another package; no access waits for its acknowledgement. -/
def State.podReply (s : State) (pkg : Nat) (b : PodBody) : State := s.podPut pkg (Config.cores, 0) b

/-- The homes another package asks for, or the first fault: pair, kind, level. -/
def State.podLeaves (s : State) (p : Nat) : List Nat → Nat → Except (Nat × BitVec 8 × Nat) (List (Home × BitVec 11))
  | [], _ => .ok []
  | v :: r, i =>
    match s.podLeaf p v with
    | .error (k, l) => .error (i, k, l)
    | .ok f =>
      match s.podLeaves p r (i + 1) with
      | .error e => .error e
      | .ok hs => .ok ((Home.near f.pbn, f.key) :: hs)

/-- A home of partition `p` is open to another package as to a core of it (R125, R132). -/
def State.podOpen (s : State) (p : Nat) (h : Home) : Bool := !s.locked h && s.carries h.pbn && s.hasSlot p h.pbn

/-- Another package's exchange reads its far side here: the homes are locked until it comes back. None while one is
locked; a pair named twice meets the fate of a translation fault. -/
def State.podFetch (s : State) (pkg p id : Nat) (vbns : List Nat) : Option State :=
  match s.podLeaves p vbns 0 with
  | .error (i, k, l) => some (s.podReply pkg (.fault id i k l))
  | .ok hs =>
    if twice hs then some (s.podReply pkg (.fault id 0 0 0))
    else if !hs.all (fun h => s.podOpen p h.1) then none
    else
      let bs := hs.map (fun h => let b := s.readHome h; (b.read 0 4096, b.poison))
      some ({ s with locks := s.locks ++ hs.map (fun (h : Home × BitVec 11) => ({ home := h.1, key := h.2, core := podLocker pkg, id := id } : Lock)) }.podReply
        pkg (.data id bs))

/-- Homes locked for an exchange of another package. -/
def State.podLocks (s : State) (pkg id : Nat) : List Lock := s.locks.filter (fun l => l.core == podLocker pkg && l.id == id)

/-- They are released. -/
def State.podDrop (s : State) (pkg id : Nat) : State :=
  { s with locks := s.locks.filter (fun l => !(l.core == podLocker pkg && l.id == id)) }

/-- Its outgoing copies are written, or parked on the die of a channel that has failed (R127). -/
def State.podHome (s : State) (pkg id : Nat) (blocks : List (List Byte × List Nat)) : Option State :=
  let ls := s.podLocks pkg id
  if !ls.all (fun l => s.carries l.home.pbn || s.broken l.home.pbn) then none
  else
    some (((ls.zip blocks).foldl (fun t e =>
      let h : HomeWrite :=
        { home := e.1.home, key := e.1.key, block := { Store.ofBytes e.2.1 with poison := e.2.2 }, passed := 0 }
      if t.homeCut h then
        t.park (t.chanOf h.home.pbn / 6) h (fun pbn i => plainEvent 0x0D 0x38 127 (BitVec.ofNat 64 pbn) (BitVec.ofNat 64 i))
      else t.writeHome false h) s).podDrop pkg id)

/-- An XCH.NP of a core of this package that another package answers: its number is 512 times the access, plus the core. -/
def State.podAnswer (s : State) (pkg id : Nat) (f : State → Acc → Xch → State) : Option State :=
  let t := s.focus (id % 512)
  match t.core.acc? (id / 512) with
  | some a =>
    (match a.kind with
     | .xch x =>
       if x.form == .np && x.pkg == pkg && !x.arrived then (if t.mayArriveX a x then some ((f t a x).focus s.here) else none)
       else some s
     | _ => some s)
  | none => some s

/-- The blocks it gets stand for the other package's memory as it now is. -/
def State.podData (s : State) (a : Acc) (x : Xch) (blocks : List (List Byte × List Nat)) : State :=
  let hs := s.xchHomes x []
  let m := (hs.zip blocks).foldl (fun (m : Store) e =>
    m.setBlock e.1.1.pbn { Store.ofBytes e.2.1 with poison := e.2.2 }) s.remote
  { s with remote := m }.takeFar a x []

/-- What a frame carries takes effect; none where a receiver has no room, or a home is locked, and the frame is not taken. -/
def State.podBody (s : State) (pkg : Nat) (b : PodBody) : Option State :=
  match b with
  | .send p i src tag data bad =>
    (match s.podCore p i with
     | some c => s.receive none c (s.podPayload c pkg src tag data bad false)
     | none => some s)
  | .push p i src data bad =>
    (match s.podCore p i with
     | some c => s.receive none c (s.podPayload c pkg src 0 data bad true)
     | none => some s)
  | .fetch p id vbns => s.podFetch pkg p id vbns
  | .data id blocks => s.podAnswer pkg id (fun t a x => t.podData a x blocks)
  | .fault id i k l => s.podAnswer pkg id (fun t a x => t.faultXch a x (i, k, l))
  | .home id blocks => s.podHome pkg id blocks
  | .drop id => some (s.podDrop pkg id)
  | .arrive p bar c fn v =>
    some (s.arriveAt (podBar p bar) { core := Config.cores, launch := 0, sup := false, c := BitVec.ofNat 20 c, fn := fn, v := v } 0)
  | .barDone p bar => some (s.finishBar p bar)
  | .ack _ => some s

/-- Frames below a number are acknowledged: their accesses are over once no frame of theirs is left. -/
def State.podAck (s : State) (pkg n : Nat) : State :=
  let p := s.peer pkg
  let gone := p.unacked.filter (fun u => decide (u.1.seq < n))
  let left := p.unacked.filter (fun u => decide (n ≤ u.1.seq))
  let t := s.setPeer { p with unacked := left }
  gone.foldl (fun u e =>
    if Config.cores ≤ e.2.1 ∨ left.any (fun f => f.2.1 == e.2.1 && f.2.2.1 == e.2.2.1) then u
    else ((u.focus e.2.1).endAcc e.2.2.1).focus s.here) t

/-- A frame arrives: an acknowledgement, the frame in turn, one already taken, or one out of turn, which is dropped. -/
def State.podTake (s : State) (f : PodFrame) : Option State :=
  match f.body with
  | .ack n => some (s.podAck f.pkg n)
  | b =>
    let p := s.peer f.pkg
    if f.seq = p.expect then (s.podBody f.pkg b).map (fun t => t.setPeer { t.peer f.pkg with expect := p.expect + 1 })
    else some s

def execPodFrameReceive (f : PodFrame) (s : State) : Host.Outcome State Fault Refusal :=
  s.whenOk (s.podTake f).isSome (fun t => (t.podTake f).getD t)

/-- PLAT of the partition of a core; of an answer, which no core waits for, the greatest of the partitions. -/
def State.platOf (s : State) (c : Nat) : Nat :=
  if Config.cores ≤ c then
    s.parts.foldl (fun m e => max m ((e.2.desc.profiles[e.2.profile]?).map Config.Profile.plat |>.getD 1)) 1
  else ((s.focus c).figures).plat

/-- The oldest frame to a peer that is due again. -/
def State.podDue (s : State) (pkg : Nat) : Option (PodFrame × Nat × Nat × Nat × Nat) :=
  match (s.peer pkg).unacked with
  | u :: _ => if s.platOf u.2.1 / 2 ≤ u.2.2.2.2 then some u else none
  | [] => none

/-- A frame's path has failed for good: its access ends; an answer to another package's exchange releases the homes. -/
def State.podLost (s : State) (pkg : Nat) (u : PodFrame × Nat × Nat × Nat × Nat) : State :=
  if Config.cores ≤ u.2.1 then
    let t := match u.1.body with
      | .data id _ => s.podDrop pkg id
      | _ => s
    t.raise 0 14 (plainEvent 0x07 0x31 127 0 0)
  else
    let t := s.focus u.2.1
    ((t.raise t.myDie 14 (t.coreEvent 0x07 0x31 0 0 .x 0 0)).endAcc u.2.2.1).focus s.here

/-- A frame is sent again; after 8 retransmissions its path has failed. -/
def State.podAgain (s : State) (pkg : Nat) (u : PodFrame × Nat × Nat × Nat × Nat) : State :=
  let p := s.peer pkg
  if u.2.2.2.1 < 8 then
    s.setPeer { p with unacked := (u.1, u.2.1, u.2.2.1, u.2.2.2.1 + 1, 0) :: p.unacked.drop 1 }
  else (s.setPeer { p with unacked := p.unacked.drop 1 }).podLost pkg u

def execPodRetransmit (pkg : Nat) (s : State) : Host.Outcome State Fault Refusal :=
  s.whenOk (s.podDue pkg).isSome (fun t =>
    match t.podDue pkg with
    | some u => t.podAgain pkg u
    | none => t)

end Sys2Proof.Machine
end

