-- ==== Sys2Proof/Machine/Clocks.lean ====
section
/-! DEFINITION. Clocks: stretched cycles, the nominal frequency, and thermal steering (R393-R395). A sensor's reading
is not the part's to choose, so the events bring a free one within what their rule requires. -/

namespace Sys2Proof.Machine

/-- A nominal frequency Nib may set (R394). -/
def nominalOk (mhz : Nat) : Bool :=
  mhz == 500 || (decide (1000 ≤ mhz) && decide (mhz ≤ 1500) && mhz % 25 == 0)

/-- Every core is changed. -/
def State.mapCores (s : State) (f : Core → Core) : State :=
  { s with core := f s.core, others := s.others.map (fun (e : Nat × Core) => (e.1, f e.2)) }

/-- Every die is changed. -/
def State.mapDies (s : State) (f : Die → Die) : State := { s with dies := s.dies.map f }

/-- The nominal changes on every die; every ring and blotter is due a clock mark (R390). -/
def State.setNominal (s : State) (mhz : Nat) : State :=
  let s1 := { s with nib := { s.nib with nom := BitVec.ofNat 16 mhz } }
  (s1.mapDies (fun d => { d with rings := d.rings.map (fun r => { r with mark := true }) })).mapCores
    (fun k => { k with obs := { k.obs with bmark := true } })

/-- Nib plans a change of the nominal for one reference count, 10,000 counts ahead or more by a free value (R394). -/
def State.planNominal (s : State) (mhz : Nat) : State :=
  let n := 10000 + (Config.free 8 (16777216 * s.free + 80000)).toNat
  { s with nib := { s.nib with newNom := some (s.refCount + BitVec.ofNat 48 n, BitVec.ofNat 16 mhz) } }

/-- The planned change whose reference count has come. -/
def State.nominalDue (s : State) : Option Nat :=
  match s.nib.newNom with
  | some (t, m) => if (s.refCount - t).toNat < 2 ^ 47 then some m.toNat else none
  | none => none

/-- It takes effect; at 1,500 MHz a start leaves its stage 6 (R405). -/
def State.applyNominal (s : State) (mhz : Nat) : State :=
  let t := s.setNominal mhz
  { t with nib := { t.nib with newNom := none, stage := if t.nib.stage = 6 ∧ mhz = 1500 then 7 else t.nib.stage } }

/-- A change is planned, where none is under way. -/
def execFrequencyChange (mhz : Nat) (s : State) : Host.Outcome State Fault Refusal :=
  s.whenOk (nominalOk mhz && s.nib.power && !s.nib.off && s.nib.newNom.isNone) (fun t => t.planNominal mhz)

def execClockStretch (d : Nat) (s : State) : Host.Outcome State Fault Refusal :=
  s.whenOk (decide (d < 4)) (fun t =>
    t.modDie d (fun x => { x with stretch := 1 + (Config.free 3 (16777216 * t.free)).toNat }))

/-- The part runs. -/
def State.operating (s : State) : Bool := s.nib.power && !s.nib.off && s.nib.mode == 1

/-- Reference counts since a moment; none where there was no such moment. -/
def State.since (s : State) (t : Option (BitVec 48)) : Option Nat := t.map (fun x => (s.refCount - x).toNat)

/-- A free die reads hot, from `least` on over `n` values. -/
def State.readHot (s : State) (least n : Nat) : State :=
  let t := s.modDie (Config.free 2 (16777216 * s.free + 1)).toNat
    (fun d => { d with hot := Int.ofNat (least + (Config.free 4 (16777216 * s.free)).toNat % n) })
  { t with nib := { t.nib with coolAt := some t.refCount } }

/-- Lowered at most once per 100 ms, 10^7 reference counts, by a reading below the one that stops the clocks. -/
def execThermalLower (s : State) : Host.Outcome State Fault Refusal :=
  s.whenOk (s.operating && decide (1000 < s.nib.nom.toNat) && s.nib.newNom.isNone &&
      (s.since s.nib.lowAt).elim true (fun n => decide (10000000 ≤ n)))
    (fun t =>
      let u := (t.readHot 100 15).planNominal (t.nib.nom.toNat - 25)
      { u with nib := { u.nib with lowAt := some u.refCount } })

/-- Raised after every die read below 92 °C for 1 s, 10^8 reference counts. -/
def execThermalRaise (s : State) : Host.Outcome State Fault Refusal :=
  s.whenOk (s.operating && decide (s.nib.nom.toNat < 1500) && s.nib.newNom.isNone &&
      (s.since s.nib.coolAt).elim false (fun n => decide (100000000 ≤ n)))
    (fun t =>
      let u := (t.mapDies (fun d => { d with hot := 91 - Int.ofNat (Config.free 5 (16777216 * t.free)).toNat })).planNominal
        (t.nib.nom.toNat + 25)
      { u with nib := { u.nib with coolAt := some u.refCount } })

/-- Every clock stops and the part holds itself in reset, with the reason R408 lists; the host sees its link go down. -/
def execThermalStop (s : State) : Host.Outcome State Fault Refusal :=
  s.whenOk (s.nib.power && !s.nib.off) (fun t0 =>
    let t := (t0.readHot 115 16).tell .linkDown
    { t with nib := { t.nib with off := true, reason := 0x0A },
             host := { t.host with link := false } })

end Sys2Proof.Machine
end

