-- ==== Sys2Proof/Machine/Boot.lean ====
section
/-! DEFINITION. Starting: power, the stages of a start, verification of images, self-test and failed starts
(R352, R377, R405-R408, R411). -/

namespace Sys2Proof.Machine

/-! ### Measurements (R411) -/

/-- The bytes of a 256-bit digest. -/
def digestBytes (d : BitVec 256) : List Byte := bytesOfNat 32 d.toNat

/-- mh_i is extended by a digest. -/
def Nib.extend (n : Nib) (i : Nat) (d : BitVec 256) : Nib :=
  { n with mh := n.mh.setIfInBounds i (Config.sha256 (digestBytes (n.mh[i]?.getD 0) ++ digestBytes d)) }

/-! ### Images (R407) -/

/-- The header's fields. -/
def imageType (im : List Byte) : Nat := natOfBytes (im.take 4)
def imageVersion (im : List Byte) : Nat := natOfBytes ((im.drop 4).take 4)
def imageLen (im : List Byte) : Nat := natOfBytes ((im.drop 8).take 4)

/-- An image is whole, of a type, and its signature over header and body verifies. -/
def imageSigned (key : BitVec 256) (typ : Nat) (im : List Byte) : Bool :=
  let n := 64 + imageLen im
  decide (n + 3284 ≤ im.length) && imageType im == typ && ((im.drop 12).take 52).all (· == 0) &&
    Config.hssVerify key (im.take n) ((im.drop n).take 3284)

/-- The images are checked, the Nib patch first: the reason a start fails for, or none. -/
def State.imageFault (s : State) (im : BootImages) : Option (BitVec 8) :=
  let f := s.fuses
  if !imageSigned f.imageKey 1 im.nibPatch then some 0x01
  else if imageVersion im.nibPatch < f.minVersion.toNat then some 0x03
  else if !imageSigned f.imageKey 2 im.folio then some 0x02
  else if imageVersion im.folio < f.minVersion.toNat then some 0x03
  else none

/-! ### A start (R405, R408) -/

/-- A start fails: REASON keeps why, and no stage runs. -/
def State.failStart (s : State) (why : BitVec 8) : State :=
  { s with nib := { s.nib with reason := why, stage := 0 } }

/-- Everything but what lasts through a start: fuses, the island's storage, the flash, other packages, the model's own
fields. -/
def State.cleared (s : State) : State :=
  { State.reset with
    fuses := s.fuses, remote := s.remote, keys := [(0, { ident := s.keyGen, part := none })], keyGen := s.keyGen + 1,
    host := { HostPort.reset with retrain := s.host.retrain, retrainBoot := s.host.retrain },
    nib := { s.nib with mail := [], cmd := none, asked := [], hostNonce := none, partNonce := [], stage := 1, mode := 0,
                        nom := 500, newNom := none, lowAt := none, coolAt := none, moult := false, off := false, power := true },
    script := s.script, clocks := s.clocks, free := s.free, hostLog := s.hostLog }

/-- A module as a start finds it: an active channel's rails go up (R398). -/
def State.coldChan (s : State) (ch : Nat) : Channel :=
  let t : BitVec 8 := Config.free 8 (16777216 * s.free + 100 + ch)
  if s.fuses.chans.contains ch then Channel.off
  else { Channel.off with temp := t, state := 1 }

/-- A die as a start finds it: one below -10 °C heats itself. -/
def State.coldDie (s : State) (d : Nat) (x : Die) : Die :=
  let t : Int := (Config.free 8 (16777216 * s.free + 200 + d)).toInt
  { x with hot := t, warm := decide (-10 ≤ t) }

/-- Stages 1 and 2: the failed-start count, the ROM's measurement, and the images; a part whose count stood at 3 enters
chrysalis mode instead. -/
def State.startUp (s : State) (im : BootImages) : State :=
  if s.nib.failcnt == 3 then { s with nib := { s.nib with mode := 2, stage := 0, images := im } }
  else
    let d0 := Config.sha256 (s.nib.romVersion ++ bytesOfNat 4 s.fuses.lifecycle.toNat)
    let n := { s.nib with failcnt := s.nib.failcnt + 1, boots := s.nib.boots + 1, images := im, stage := 2 }.extend 0 d0
    let s1 := { s with nib := n }
    match s1.imageFault im with
    | some why => s1.failStart why
    | none =>
      let n1 := (n.extend 1 (Config.sha256 im.nibPatch)).extend 2 (Config.sha256 im.folio)
      { s1 with
        nib := { n1 with version := #v[BitVec.ofNat 32 (imageVersion im.nibPatch), BitVec.ofNat 32 (imageVersion im.folio)], stage := 3 },
        chans := Vector.ofFn (fun (i : Fin 24) => s1.coldChan i.val),
        dies := Vector.ofFn (fun (i : Fin 4) => s1.coldDie i.val (s1.die i.val)) }

/-- Supply good. Everything volatile is lost, the measurements are zero and the debug port is closed. -/
def execPowerOn (im : BootImages) (s : State) : Host.Outcome State Fault Refusal :=
  s.whenOk (!s.nib.power || s.nib.stage == 1) (fun t =>
    let u := { t with host := { t.host with retrain := false } }.cleared
    let v := { u with nib := { u.nib with mh := Vector.replicate 8 0, debugOpen := false, scope := 0 } }
    (v.startUp im).tell .linkUp)

/-- A die finishes heating at -10 °C. -/
def execDieWarm (d : Nat) (s : State) : Host.Outcome State Fault Refusal :=
  s.whenOk (s.nib.stage == 3 && decide (d < 4) && !(s.die d).warm)
    (fun t => t.modDie d (fun x => { x with hot := -10, warm := true }))

/-- A channel goes on from POWER: to WARM, or at once to TRAIN where its module reads 0 °C already; and from WARM once it
does (R398, R405). -/
def execModuleWarm (ch : Nat) (s : State) : Host.Outcome State Fault Refusal :=
  s.whenOk (s.nib.stage == 3 && decide (ch < 24) && ((s.chan ch).state == 1 || (s.chan ch).state == 2))
    (fun t => t.modChan ch (fun x =>
      if x.state == 1 && x.temp.msb then { x with state := 2 }
      else { x with temp := if x.temp.msb then 0 else x.temp, state := 3 }))

/-! ### Self-test (R352) -/

/-- What self-test finds, with the links and channels that failed in service since the last one (R352, R396). -/
def State.allFindings (s : State) (f : Findings) : Findings :=
  { f with badChans := f.badChans ++ s.nib.lostChans, badSidebands := f.badSidebands ++ s.nib.lostLinks }

/-- Dies a failed sideband excludes: the higher-numbered of each pair. -/
def badDiesOf (f : Findings) : List Nat := f.badSidebands.map (fun e => max e.1 e.2)

/-- A channel after training. -/
def State.trained (s : State) (f : Findings) (ch : Nat) : Channel :=
  let c := s.chan ch
  if s.fuses.chans.contains ch then Channel.off
  else if f.badChans.contains ch || (badDiesOf f).contains (ch / 6) then { c with state := 7 }
  else if f.halfChans.contains ch then { c with state := if s.choice ch then 5 else 6, half := true }
  else { c with state := 4 }

/-- Exclusions are fixed for the boot; without die 0 or any channel the start fails. Main memory is kept only where the fold
is that of the last boot. -/
def State.applyFindings (s : State) (f0 : Findings) : State :=
  let f := s.allFindings f0
  let dead := badDiesOf f
  let t0 := { s with
    nib := { s.nib with lostLinks := [], lostChans := [] },
    exclCores := f.cores ++ (List.range Config.cores).filter (fun c => dead.contains (dieOf c)),
    exclChans := f.badChans ++ (List.range 24).filter (fun ch => dead.contains (ch / 6)),
    halfLinks := f.halfLinks,
    chans := Vector.ofFn (fun (i : Fin 24) => s.trained f i.val) }
  let t := if t0.activeChans == s.activeChans then t0 else { t0 with main := Store.empty, seals := [] }
  if (List.range 128).all (fun c => !t.usable c) || t.activeChans.isEmpty then t.failStart 0x06
  else { t.planNominal 1000 with nib := { (t.planNominal 1000).nib with stage := 6 } }

/-- Every die and module is warm. -/
def State.allWarm (s : State) : Bool := s.dies.all (fun d => d.warm) && s.chans.all (fun c => c.state != 1 && c.state != 2)

def execSelfTest (f : Findings) (s : State) : Host.Outcome State Fault Refusal :=
  s.whenOk (s.nib.stage == 3 && s.allWarm) (fun t => t.applyFindings f)

/-- The digest of the boot resource map and grade. -/
def State.mapDigest (s : State) : BitVec 256 :=
  Config.sha256 (Config.resourceMap (s.fuses.cores ++ s.exclCores) (s.fuses.chans ++ s.exclChans) s.fuses.grade)

/-- In stage 6 every die reads 0 °C: the nominal goes to 1,500 MHz, which ends the stage, and mh3 is extended. -/
def execDieReadsZeroCelsius (s : State) : Host.Outcome State Fault Refusal :=
  s.whenOk (s.nib.stage == 6 && s.nib.nom == 1000 && s.nib.newNom.isNone) (fun t =>
    let u := (t.mapDies (fun d => { d with hot := if d.hot < 0 then 0 else d.hot })).planNominal 1500
    { u with nib := u.nib.extend 3 u.mapDigest })

/-- Folio is ready: MODE 1, and the failed-start count is cleared. -/
def execStartReady (s : State) : Host.Outcome State Fault Refusal :=
  s.whenOk (s.nib.stage == 7 && s.nib.mode == 0) (fun t => { t with nib := { t.nib with mode := 1, failcnt := 0, coolAt := some t.refCount } })

/-- A start is under way. -/
def Nib.starting (n : Nib) : Bool := n.power && !n.off && n.mode == 0 && n.stage != 0

def execStartFail (why : BitVec 8) (s : State) : Host.Outcome State Fault Refusal :=
  s.whenOk s.nib.starting (fun t => t.failStart why)

/-! ### Power and resets (R377, R408) -/

/-- REASON when a start under way is cut off. -/
def State.cutOff (s : State) : State := if s.nib.starting then s.failStart 0x09 else s

/-- The supply is lost. -/
def execPowerLoss (s : State) : Host.Outcome State Fault Refusal :=
  s.whenOk s.nib.power (fun t =>
    let u := t.cutOff.tell .linkDown
    { u with nib := { u.nib with power := false }, host := { u.host with link := false } })

/-- A reset of the part: the stages start again from the flash; clocked dies keep TICK, and the modules their contents. -/
def execPartReset (s : State) : Host.Outcome State Fault Refusal :=
  s.whenOk (s.nib.power && !s.nib.off) (fun t =>
    let u := t.cutOff
    let v := { u.cleared with
      main := u.main, seals := u.seals, exclChans := u.exclChans, refCount := u.refCount, refPhase := u.refPhase,
      dies := u.dies.map (fun (d : Die) => { Die.reset with tick := d.tick }) }
    v.startUp v.nib.images)

/-- A function-level reset: the port's own error reporting starts afresh; nothing inside the package changes (R377). -/
def execFunctionLevelReset (s : State) : Host.Outcome State Fault Refusal :=
  s.whenOk s.hostUp (fun t => { t with host := { t.host with
    cor := false, unc := false, sevFatal := false, maskCor := false, sent := Vector.replicate 3 none } })

/-- The host's link goes down and recovers; nothing inside the package changes (R377). -/
def execHostLinkRecovery (s : State) : Host.Outcome State Fault Refusal :=
  s.whenOk (s.nib.power && !s.nib.off) (fun t =>
    { (t.tell .linkDown).tell .linkUp with host := { t.host with link := true } })

end Sys2Proof.Machine
end

