-- ==== Sys2Proof/Machine/Control.lean ====
section
/-! DEFINITION. Control flow, dispatch, waits, tile ends and time (R182-R191, R201-R203). -/

namespace Sys2Proof.Machine

/-! ### Branches and loops -/

def execBr (h : Head) (f : SB) (s : State) : Host.Outcome State Fault Refusal :=
  .next (s.issueSeq {} h fun t => .jump f.tgt t)

/-- Pushes a return index. -/
def Bank.push (b : Bank) (i : BitVec 14) : Bank :=
  { b with stack := b.stack.setIfInBounds b.depth.toNat i, depth := b.depth + 1 }

/-- `call` (R182). -/
def execCall (h : Head) (f : SB) (s : State) : Host.Outcome State Fault Refusal :=
  .next (s.issueSeq {} h fun t =>
    if 16 ≤ t.core.seq.bank.depth.toNat then .trap 0x08 0 0 false
    else .jump f.tgt (t.onCore (fun k => { k with seq := k.seq.setBank (k.seq.bank.push (k.seq.pc + 1)) })))

/-- `ret` (R182). -/
def execRet (h : Head) (s : State) : Host.Outcome State Fault Refusal :=
  .next (s.issueSeq {} h fun t =>
    let b := t.core.seq.bank
    if b.depth = 0 then .trap 0x09 0 0 false
    else
      .jump (b.stack[(b.depth - 1).toNat]?.getD 0)
        (t.onCore (fun k => { k with seq := k.seq.setBank { b with depth := b.depth - 1 } })))

/-- Sets a loop's counter and bounds (R184). -/
def Bank.startLoop (b : Bank) (lc : BitVec 2) (n : BitVec 32) (first last : BitVec 14) : Bank :=
  { b with lc := b.lc.set lc.toNat n (lc.isLt), lstart := b.lstart.set lc.toNat first (lc.isLt),
           lend := b.lend.set lc.toNat last (lc.isLt) }

/-- A loop word (R184, R186): a last word at or before its own index raises ILLOP at decode. After a last word of index
16,383 an empty loop goes on at index 0, as PC has 14 bits (DESIGN CHOICE, log entry 68). -/
def loopWord (lc : BitVec 2) (last : BitVec 14) (reads : List (BitVec 5)) (cnt : State → BitVec 32) (h : Head) (s : State) :
    Host.Outcome State Fault Refusal :=
  if last.toNat ≤ s.core.seq.pc.toNat then .next (s.issues.seqRefuse 0x01 0)
  else
    .next (s.issueSeq { excl := true, reads := reads } h fun t =>
      let n := cnt t
      .jump (if n = 0 then last + 1 else t.core.seq.pc + 1)
        (t.onCore (fun k => { k with seq := k.seq.setBank (k.seq.bank.startLoop lc n (k.seq.pc + 1) last) })))

def execLoopReg (h : Head) (f : SLr) (s : State) := loopWord f.lc f.last [f.sa] (fun t => (t.reg 0 f.sa).setWidth 32) h s
def execLoopi (h : Head) (f : SLi) (s : State) := loopWord f.lc f.last [] (fun _ => f.cnt) h s

/-! ### Dispatch -/

/-- The engine an ENG field names. -/
def engOf (e : BitVec 2) : Stream := if e == 0 then .m else if e == 1 then .v else .x

/-- The checkpoint of a `tile` section's DISP (R314): taken where every queue is empty and every engine has
retired, in either state, else the window is not replayable until the next. The DISP that a replay re-issues, at its own
SCYC, goes on with its window's COUNT (R316, R317; DEDUCED, log entry 19). -/
def Core.checkpoint (k : Core) : Core :=
  let q := k.seq
  let again := match q.ckpt with
    | some c => c.word == q.pc && c.scyc == q.scyc
    | none => false
  if k.enginesIdle then
    { k with seq := { q with rpl := true, count := if again then q.count else 0, win := Window.empty,
                             ckpt := some { thr := q.thr, word := q.pc, scyc := q.scyc, rb := k.vec.rb,
                                            vflg := k.vec.flg, tile := k.share.tile, tflg := k.mat.flg,
                                            last := #v[k.em.last, k.ev.last, k.ex.last] } } }
  else { k with seq := { q with rpl := false } }

/-- The entry a DISP writes (R59, R61, R144). -/
def State.dispEntry (s : State) (f : SD) : QEntry :=
  { secno := f.secno, k := #v[s.reg 0 f.ka, s.reg 1 f.kb, s.reg 2 f.kc, s.reg 3 f.kd], sup := s.core.seq.sup,
    held := false, tile := BitVec.ofNat 40 s.core.share.tile,
    pre := (s.core.unperformed.filter (fun a => a.strm == .seq && !a.isArrive)).map Acc.id,
    last := #v[s.core.em.last, s.core.ev.last, s.core.ex.last], fresh := true, failed := false }

/-- Appends an entry to an engine's queue. -/
def Engine.append (x : Engine) (q : QEntry) : Engine :=
  { x with queue := x.queue ++ [q], disp := x.disp + 1, last := some (x.disp, q.secno) }

/-- `disp` (R187, R303, R325): PRIV for a supervisor section in user state, SVSEQ for a supervisor DISP behind
thread entries, BADSEC, QFULL. -/
def execDisp (h : Head) (f : SD) (s : State) : Host.Outcome State Fault Refusal :=
  .next (s.issueSeq { priv := decide (0xF00 ≤ f.secno.toNat), reads := [f.ka, f.kb, f.kc, f.kd] } h fun t =>
    let e := engOf f.eng
    let q := (t.core.eng e).queue
    if t.core.seq.sup && q.any (fun x => !x.sup) then .trap 0x1E 0 0 false
    else
      match t.core.cur.find e f.secno.toNat with
      | none => .trap 0x06 0 0 false
      | some a =>
        if Config.queueDepth ≤ q.length then .trap 0x05 0 0 false
        else
          let t1 := if (t.core.cur.header a).tile then t.onCore Core.checkpoint else t
          .next (t1.onCore (fun k => k.modEng e (fun x => x.append (t.dispEntry f)))))

/-- `wait n` (R188): the idle is the same whether or not the guard holds. -/
def execWaitWord (h : Head) (f : SW) (s : State) : Host.Outcome State Fault Refusal :=
  .next (s.issueSeq { idle := f.cnt.toNat } h fun t => .idle f.cnt.toNat t)

/-! ### Tile ends (R57, R58, R189) -/

/-- The control stream ends its share; entries still held are released and run (R58). -/
def Core.endShare (k0 : Core) : Core :=
  let k := k0.release
  { k with seq := { k.seq with ended := true, wait := 0, half := false }, share := { k.share with phase := .ending } }

/-- `next`: at the next cycle the tile entry of the core's next tile, or the end after the last. -/
def execNextTile (h : Head) (s : State) : Host.Outcome State Fault Refusal :=
  .next (s.issueSeq { excl := true } h fun t =>
    .own (t.onCore (fun k =>
      if k.share.tile + k.share.n < k.share.tiles then
        { k with seq := { k.seq with wait := 1, half := false },
                 share := { k.share with phase := .entry, tile := k.share.tile + k.share.n } }
      else k.endShare)))

def execEndShareWord (h : Head) (s : State) : Host.Outcome State Fault Refusal :=
  .next (s.issueSeq { excl := true } h fun t => .own (t.onCore Core.endShare))

/-! ### Time (R190, R191) -/

/-- `palign`: freezes from the next cycle, or goes on where the condition already holds. -/
def execPalign (h : Head) (f : SQ) (s : State) : Host.Outcome State Fault Refusal :=
  .next (s.issueSeq { reads := [f.reg] } h fun t =>
    let g := t.reg 0 f.reg
    if t.alignMet f.scope g then .next (t.note 0x5 .seq 0 t.core.seq.pc.toNat g)
    else
      .own (t.onCore (fun k => { k with seq := { k.seq with
        frz := { k.seq.frz with align := some (f.scope, g), start := true, gap := h.gap, ticks := 0 } } })))

/-- A tick read (R191). -/
def readWord (v : State → Word) (h : Head) (f : SQ) (s : State) : Host.Outcome State Fault Refusal :=
  .next (s.issueSeq {} h fun t => .next (t.give .seq 1 0 (.sreg t.core.seq.sup f.reg (v t))))

def execRdtick (h : Head) (f : SQ) (s : State) := readWord State.tick h f s
def execRdscyc (h : Head) (f : SQ) (s : State) := readWord (fun t => t.core.seq.scyc) h f s
def execRdlbt (h : Head) (f : SQ) (s : State) := readWord (fun t => t.core.share.lbt) h f s

/-! ### Traps, fence, no-op (R201-R203, R141, R166) -/

def execTrapWord (h : Head) (f : SW) (s : State) : Host.Outcome State Fault Refusal :=
  .next (s.issueSeq { excl := true } h fun _ => .trap 0x17 0 (f.cnt.setWidth 64) true)

def execBrk (h : Head) (s : State) : Host.Outcome State Fault Refusal :=
  .next (s.issueSeq { excl := true } h fun _ => .trap 0x18 0 0 true)

/-- `fence` in each map orders its own stream's accesses (R141). -/
def execFence (e : Stream) (h : Head) (f : FF) (s : State) : Host.Outcome State Fault Refusal :=
  match e with
  | .seq => .next (s.issueSeq {} h fun t => .next (t.addFence .seq f.mask f.scope.toNat))
  | e => .next (s.issueEng e h.gap fun t => .ok (t.addFence e f.mask f.scope.toNat))

def execNop (e : Stream) (h : Head) (s : State) : Host.Outcome State Fault Refusal :=
  match e with
  | .seq => .next (s.issueSeq {} h fun t => .next t)
  | e => .next (s.issueEng e h.gap fun t => .ok t)

end Sys2Proof.Machine
end

