-- ==== Sys2Proof/Machine/Nib.lean ====
section
/-! DEFINITION. Nib's mailbox and its commands (R409-R414, R416, R417), redraws (R333-R335) and moult (R414). -/

namespace Sys2Proof.Machine

/-! ### Mailbox blocks (R409) -/

/-- The home of a partition's route: physical block and key slot. -/
def State.routeHome (s : State) (p : Nat) : Option (Nat × BitVec 11) := (s.part? p).bind (fun x => x.desc.home)

/-- The block a route holds; none where a partition has no home. -/
def State.routeBlock (s : State) : Route → Option (List Byte)
  | .host => some (Mem.read s.nib.mail 0 4096)
  | .part p =>
    match s.routeHome p with
    | some (b, k) => some (s.mainRead k (4096 * b) 4096).1
    | none => none

/-- Nib's write to a home is held as a host write is (R125, R416). -/
def State.routeWaits (s : State) : Route → Bool
  | .host => false
  | .part p =>
    match s.routeHome p with
    | some (b, _) => s.locked (Home.near b) || (List.range 32).any (fun i => s.lineHeld true (32 * b + i))
    | none => false

/-- Nib writes a whole block, in one event. -/
def State.routePut (s : State) (r : Route) (bs : List Byte) : State :=
  match r with
  | .host => { s with nib := { s.nib with mail := memOf bs } }
  | .part p =>
    match s.routeHome p with
    | some (b, k) => s.mainWriteBlock k b (Store.ofBytes bs)
    | none => s

/-- A block of 4,096 bytes: CMD, STATUS and tag of a command, then a reply. -/
def replyBlock (cmd : List Byte) (status : Byte) (reply : List Byte) : List Byte :=
  (cmd.take 2 ++ [status, 0] ++ (cmd.drop 4).take 4 ++ reply ++ List.replicate 4096 0).take 4096

/-- Nib answers and is free for the next command. -/
def State.answer (s : State) (c : Command) (status : Byte) (reply : List Byte) : State :=
  let t := s.routePut c.route (replyBlock c.block status reply)
  { t with nib := { t.nib with cmd := none } }

/-- A refusal with a reason word. -/
def State.refuse (s : State) (c : Command) (why : Nat) : State := s.answer c 0x03 (bytesOfNat 4 why)

/-- A command is done. -/
def State.accept (s : State) (c : Command) (reply : List Byte) : State := s.answer c 0x02 reply

/-- Byte `i`, and `n` bytes from `i`, of a command block. -/
def Command.byte (c : Command) (i : Nat) : Byte := c.block[i]?.getD 0
def Command.bytes (c : Command) (i n : Nat) : List Byte := (c.block.drop i).take n
def Command.num (c : Command) (i n : Nat) : Nat := natOfBytes (c.bytes i n)
def Command.code (c : Command) : Nat := c.num 0 2

/-- The codes of the commands (R410). -/
def knownCodes : List Nat := [1, 2, 3, 4, 5, 0x10, 0x11, 0x12, 0x20, 0x21]

/-- Nib runs. -/
def State.nibUp (s : State) : Bool := s.nib.power && !s.nib.off && s.nib.stage != 1

/-- Nib takes the oldest command asked for; a block whose STATUS is no longer 0x00 starts nothing. -/
def State.takeCommand (s : State) (r : Route) : State :=
  let s1 := { s with nib := { s.nib with asked := s.nib.asked.erase r } }
  match s.routeBlock r with
  | some b =>
    if b[2]? == some 0 then
      let t := s1.routePut r (b.take 2 ++ [0x01] ++ b.drop 3)
      { t with nib := { t.nib with cmd := some { route := r, block := b } } }
    else s1
  | none => s1

/-- A command with an unknown code is running. -/
def State.unknown (s : State) : Option Command :=
  match s.nib.cmd with
  | some c => if knownCodes.contains c.code then none else some c
  | none => none

/-- Nib takes a command, or refuses the unknown one it has taken (reason 1). -/
def execMailboxTake (r : Route) (s : State) : Host.Outcome State Fault Refusal :=
  s.whenOk (s.nibUp && !s.routeWaits r &&
      (match s.unknown with
       | some c => c.route == r
       | none => s.nib.cmd.isNone && s.nib.asked.head? == some r))
    (fun t => match t.unknown with
      | some c => t.refuse c 1
      | none => t.takeCommand r)

/-- Where a command may run: routes and modes (R410). -/
def Command.refusal (c : Command) (mode : BitVec 2) : Option Nat :=
  let k := c.code
  if c.route != .host && decide (5 ≤ k) then some 2
  else if mode == 2 && !(k == 1 || k == 2 || k == 0x20 || k == 0x21) then some 7
  else if mode != 2 && k == 0x20 then some 7
  else none

/-- The command of a code runs: its event is due once its reply can be written. -/
def State.runs (s : State) (code : Nat) : Bool :=
  match s.nib.cmd with
  | some c => s.nibUp && c.code == code && !s.routeWaits c.route
  | none => false

/-- A command's event: refused for its route or mode, or carried out. -/
def State.command (s : State) (code : Nat) (f : Command → State → State) : Host.Outcome State Fault Refusal :=
  s.whenOk (s.runs code) (fun t =>
    match t.nib.cmd with
    | some c => (match c.refusal t.nib.mode with
      | some why => t.refuse c why
      | none => f c t)
    | none => t)

/-! ### INFO, NONCE, EXTEND, keys, CLRFAIL, RECOVER -/

def execNibInfo (s : State) : Host.Outcome State Fault Refusal :=
  s.command 1 (fun c t =>
    t.accept c (bytesOfNat 16 t.fuses.device.toNat ++ bytesOfNat 4 t.fuses.lifecycle.toNat ++ bytesOfNat 4 t.fuses.grade ++
      bytesOfNat 4 t.nib.version[0].toNat ++ bytesOfNat 4 t.nib.version[1].toNat ++ bytesOfNat 8 t.nib.boots.toNat ++
      bytesOfNat 8 (t.deviceReg 0).toNat))

/-- The unspent nonce of a route. -/
def Nib.nonce (n : Nib) : Route → Option (BitVec 256)
  | .host => n.hostNonce
  | .part p => Sparse.find n.partNonce p

/-- Sets or spends a route's nonce. -/
def Nib.setNonce (n : Nib) (r : Route) (v : Option (BitVec 256)) : Nib :=
  match r with
  | .host => { n with hostNonce := v }
  | .part p =>
    match v with
    | some x => { n with partNonce := Sparse.put n.partNonce p x }
    | none => { n with partNonce := Sparse.erase n.partNonce p }

def execNibNonce (s : State) : Host.Outcome State Fault Refusal :=
  s.command 2 (fun c t =>
    let v : BitVec 256 := Config.free 256 (16777216 * t.free)
    { t with nib := t.nib.setNonce c.route (some v) }.accept c (digestBytes v))

def execNibExtend (s : State) : Host.Outcome State Fault Refusal :=
  s.command 5 (fun c t =>
    let i := (c.byte 8).toNat
    if i = 5 ∨ i = 6 then { t with nib := t.nib.extend i (BitVec.ofNat 256 (c.num 9 32)) }.accept c []
    else t.refuse c 3)

/-- Copies of a write-back whose key is to change pass the port up to a beat that a free value names, and are written under
the key as it is (R365). -/
def State.passHomes (s : State) (slots : Nat → Bool) (base : Nat) : List HomeWrite → State × List HomeWrite
  | [] => (s, [])
  | h :: r =>
    if h.home.pod || !slots h.key.toNat || !s.homeReady h then
      let q := s.passHomes slots (base + 1) r
      (q.1, h :: q.2)
    else
      let n := (Config.free 8 (16777216 * s.free + base)).toNat % (33 - h.passed)
      let t := (s.keyIdent h.key).elim s (fun i => s.putMainBeats i h.home.pbn h.passed n h.block)
      let q := t.passHomes slots (base + 1) r
      (q.1, { h with passed := h.passed + n } :: q.2)

/-- The write-backs of every core. -/
def State.passWrites (s : State) (slots : Nat → Bool) : State :=
  ((s.cores.map Prod.fst).foldl (fun t c =>
    let u := t.focus c
    u.core.x.wbs.foldl (fun v w =>
      let q := v.passHomes slots (4096 * c + 64 * (w.id % 64)) w.homes
      q.1.onCore (fun k => { k with x := { k.x with wbs := k.x.wbs.map (fun y => if y.id == w.id then { y with homes := q.2 } else y) } })) u) s).focus s.here

/-- An exchange of the core in focus whose far data can come now, with its homes. -/
def State.readable (s : State) (a : Acc) : Option (Xch × List (Home × BitVec 11)) :=
  match a.kind with
  | .xch x =>
    (match leavesOf x.xl with
     | some ls =>
       let hs := s.xchHomes x ls
       if x.form.main && s.mayArriveX a x && !twice hs && (s.xchCut x ls).isNone &&
           (s.xchLines x ls).all (fun e => !s.lineHeld e.1 e.2) then some (x, hs) else none
     | none => none)
  | _ => none

/-- Data on its way under a key that changed: by a free choice an exchange has the beats that passed before, and those that
pass now under the key as it has become (R365); `old` is the machine before the change. -/
def State.passReads (s old : State) (slots : Nat → Bool) : State :=
  ((s.cores.map Prod.fst).foldl (fun t c =>
    let u := t.focus c
    let o := old.focus c
    u.core.x.accs.foldl (fun v a =>
      match v.readable a with
      | some (x, hs) =>
        if hs.any (fun h => slots h.2.toNat) && v.choice (2097152 + a.id % 65536) then
          let inn := hs.zipIdx.map (fun h =>
            let n := (Config.free 8 (16777216 * v.free + 2228224 + 64 * (a.id % 65536) + h.2)).toNat % 33
            (v.readHome h.1).splice 0 (128 * n) ((o.readHome h.1).window 0 (128 * n)))
          v.takeIn a x hs inn
        else v
      | none => v) u) s).focus s.here

/-- Key slots change while accesses under them are in flight. -/
def State.changeKeys (s : State) (slots : Nat → Bool) (f : State → State) : State :=
  let t := s.passWrites slots
  (f t).passReads t slots

def execNibKeygen (s : State) : Host.Outcome State Fault Refusal :=
  s.command 0x11 (fun c t =>
    let k := c.num 8 2
    let p := (c.byte 10).toNat
    if k = 0 ∨ 2047 < k ∨ (Sparse.find t.keys k).isSome ∨ (t.part? p).isNone then t.refuse c 3
    else (t.changeKeys (· == k) (fun u =>
      { u with keys := Sparse.put u.keys k { ident := u.keyGen, part := some p }, keyGen := u.keyGen + 1 })).accept c [])

def execNibKeyclr (s : State) : Host.Outcome State Fault Refusal :=
  s.command 0x12 (fun c t =>
    let k := c.num 8 2
    if k = 0 ∨ 2047 < k then t.refuse c 3
    else (t.changeKeys (· == k) (fun u => { u with keys := Sparse.erase u.keys k })).accept c [])

def execNibClrfail (s : State) : Host.Outcome State Fault Refusal :=
  s.command 0x21 (fun c t => { t with nib := { t.nib with failcnt := 0 } }.accept c [])

/-- RECOVER: an image of either type, verified, goes to the boot flash. -/
def execNibRecover (s : State) : Host.Outcome State Fault Refusal :=
  s.command 0x20 (fun c t =>
    let im := c.block.drop 8
    let typ := imageType im
    let whole := im.take (64 + imageLen im + 3284)
    if typ ≠ 1 ∧ typ ≠ 2 then t.refuse c 3
    else if !imageSigned t.fuses.imageKey typ im then t.refuse c 4
    else if imageVersion im < t.fuses.minVersion.toNat then t.refuse c 3
    else
      let f := t.nib.images
      { t with nib := { t.nib with images := if typ = 1 then { f with nibPatch := whole } else { f with folio := whole } } }.accept c [])

/-! ### QUOTE (R412) -/

/-- Why a QUOTE is refused. -/
def State.quoteRefusal (s : State) (c : Command) : Option Nat :=
  let p := (c.byte 40).toNat
  if p ≠ 0x7F ∧ (126 < p ∨ (s.part? p).isNone) then some 3
  else if c.route != .host && p != 0x7F && c.route != .part p then some 2
  else if 2 ^ 30 ≤ s.nib.counter.toNat then some 6
  else none

/-- Bytes 8 to 359 of a quote. -/
def State.quoteBody (s : State) (c : Command) : List Byte :=
  let p := (c.byte 40).toNat
  bytesOfNat 4 1 ++ bytesOfNat 16 s.fuses.device.toNat ++ bytesOfNat 4 s.fuses.lifecycle.toNat ++
    bytesOfNat 8 s.nib.counter.toNat ++ c.bytes 8 32 ++ s.nib.mh.toList.flatMap digestBytes ++
    digestBytes ((if p = 0x7F then none else s.part? p).elim 0 Part.digest)

/-- A signature of 3,284 bytes. -/
def signature (m : List Byte) (n : Nat) : List Byte := (Config.hssSign m n ++ List.replicate 3284 0).take 3284

def execNibQuote (s : State) : Host.Outcome State Fault Refusal :=
  s.command 3 (fun c t =>
    match t.quoteRefusal c with
    | some why => t.refuse c why
    | none =>
      let u := { t with nib := { t.nib with counter := t.nib.counter + 1 } }
      let b := u.quoteBody c
      u.accept c (b ++ signature b u.nib.counter.toNat))

/-! ### PARTSET: redraws (R333-R335) -/

/-- Two member sets share a core. -/
def membersMeet (a b : Config.Members) : Bool := (List.range Config.cores).any (fun c => hasCore a c && hasCore b c)

/-- Two lists of windows share memory. -/
def windowsMeet (a b : List (Nat × Nat)) : Bool := a.any (fun x => b.any (fun y => overlap x.1 x.2 y.1 y.2))

/-- A member set is one R333 allows. -/
def membersOk : Config.Members → Bool
  | .quads d q n => decide (d < 4) && [1, 2, 4, 8, 16, 32].contains n && q % n == 0 && decide (q + n ≤ 32)
  | .dies set => set != 0

/-- A descriptor keeps the limits of R333, R334, R349 and R356. -/
def descriptorOk (d : Config.Descriptor) : Bool :=
  membersOk d.members && d.tokbase % 2 ^ 20 == 0 && decide (d.profiles.length ≤ 16) && decide (d.windows.length ≤ 8) &&
    decide (d.bindings.length ≤ 16) && d.bindings.all (fun b => b.root % 65536 == 0) &&
    decide ((d.bindings.filter (fun b => b.pod)).length ≤ 1) &&
    d.chanEntries.all (fun i => decide (i < 24 * 512)) && d.fadEntries.all (fun i => decide (i < 12 * 1024))

/-- Two descriptors claim one opportunity (R349). -/
def entriesMeet (a b : Config.Descriptor) : Bool :=
  a.chanEntries.any (fun i => b.chanEntries.contains i) || a.fadEntries.any (fun i => b.fadEntries.contains i)

/-- A partition is empty: no launch, and every member core has ended its share and finished its write-backs. -/
def State.emptyPart (s : State) (x : Part) : Bool :=
  x.table.isEmpty && (s.members x).all (fun c =>
    let k := s.coreAt c
    (k.share.phase == .idle || k.share.phase == .done) && !k.seq.sup && k.x.wbs.isEmpty && k.quiet && k.enginesIdle)

/-- A request can be performed: the partition it names is empty or new, and it meets no other. -/
def State.mayRedraw (s : State) (p : Nat) (d : Config.Descriptor) : Bool :=
  decide (p < 127) && descriptorOk d &&
    (match s.part? p with
     | some x => s.emptyPart x
     | none => true) &&
    s.parts.all (fun e => e.1 == p || (!membersMeet e.2.desc.members d.members && !windowsMeet e.2.desc.windows d.windows &&
      !entriesMeet e.2.desc d))

/-- What a redraw leaves of a core: its registers, near store, accumulators and blotter cleared (R335, R384). -/
def Core.wiped (k : Core) (asid : BitVec 16) : Core :=
  { Core.reset with seq := { Seq.reset with asid := asid }, obs := { k.obs with blot := [], wptr := 0, bfrozen := false, bmark := true } }

/-- Clears cores and their die-store shares. -/
def State.wipe (s : State) (cs : List Nat) (asid : BitVec 16) : State :=
  cs.foldl (fun t c =>
    { t.modCore c (fun k => k.wiped asid) with
      dieStore := t.dieStore.splice (Config.shareBytes * c) Config.shareBytes Store.empty }) s

/-- A fresh partition of a descriptor. -/
def Part.fresh (d : Config.Descriptor) (digest : BitVec 256) : Part :=
  { desc := d, digest := digest, rbase := Vector.replicate 4 0, rtail := Vector.replicate 4 0, rhead := Vector.replicate 4 0,
    en := false, sz := 4, seed := 0, age := 0, seq := 0, rerr := false, rerrj := 0, valid := false, rtoken := 0, halt := false,
    pen := false, stopped := 0, table := [], nextNum := 1, profile := 0, apbase := 0, swkind := 0, osel := 0, tren := false, trmask := 0,
    trsize := 0, trbase := 0 }

/-- A partition's own table entries become unassigned. -/
def State.freeSlots (s : State) (x : Part) : State :=
  { s with chanTab := x.desc.chanEntries.foldl (fun m i => Sparse.set freeEntry m i freeEntry) s.chanTab,
           fadTab := x.desc.fadEntries.foldl (fun m i => Sparse.set freeEntry m i freeEntry) s.fadTab }

/-- Every TLB entry of a partition's dies goes (R356). -/
def State.dropTlbs (s : State) (x : Part) : State := (s.diesOf x).foldl (fun t d => t.dropTlb d (fun _ => true)) s

/-- The redraw: the old entries and keys go, the cores before and after it are cleared with the TLBs of their dies, and the
partition stands with its new descriptor, its windows' registers kept. -/
def State.redraw (s : State) (p : Nat) (d : Config.Descriptor) (digest : BitVec 256) : State :=
  let old := s.part? p
  let s1 := match old with
    | some x => ((s.wipe (s.members x) 0).freeSlots x).dropTlbs x
    | none => s
  let s2 := { s1 with keys := s1.keys.filter (fun e => e.2.part != some p) }
  let x1 : Part := match old with
    | some x => { x with desc := d, digest := digest }
    | none => Part.fresh d digest
  let s3 := s2.setPart p x1
  ((s3.wipe (s3.members x1) d.asid).dropTlbs x1).installProfile p x1 0

def execNibPartset (s : State) : Host.Outcome State Fault Refusal :=
  s.command 0x10 (fun c t =>
    let request := c.block.drop 8
    match Config.descriptorOf request with
    | some (p, d) =>
      if t.mayRedraw p d then
        let dg := Config.sha256 request
        let u := t.redraw p d dg
        { u with nib := u.nib.extend 4 dg }.accept c []
      else t.refuse c 3
    | none => t.refuse c 3)

/-! ### UNLOCK and moult (R413, R414, R417) -/

/-- The token of an UNLOCK. -/
def Command.token (c : Command) : List Byte := c.bytes 8 3344

/-- Why a token is refused: the first check that fails. -/
def State.tokenRefusal (s : State) (c : Command) : Option Nat :=
  let scope := c.num 60 8
  if !Config.hssVerify s.fuses.debugKey (c.bytes 8 60) (c.bytes 68 3284) then some 4
  else if s.nib.nonce c.route != some (BitVec.ofNat 256 (c.num 28 32)) then some 5
  else if c.num 8 16 ≠ s.fuses.device.toNat ∨ c.num 24 4 ≠ s.fuses.lifecycle.toNat then some 3
  else if 8 ≤ scope ∨ scope = 0 then some 3
  else none

/-- A core takes moult's stop: it stops issuing, leaves the supervisor, and drains as at a launch stop. -/
def Core.moultStop (k : Core) : Core :=
  if k.share.phase = .flipped then { k with share := { k.share with phase := .done, parvbn := 0 } }
  else if !k.share.live then k
  else
    { k with
      seq := { k.seq with draining := true, sup := false, late := none, pre := none, lateDue := false,
                          frz := { k.seq.frz with align := none, bar := none, start := false } },
      obs := { k.obs with stopped := false, steps := none },
      share := { k.share with stop := true, fault := true } }

/-- Step 1 and the start of step 2: HALT everywhere, every launch to complete with CANCEL, every core to drain. -/
def State.beginMoult (s : State) : State :=
  let s1 := { s with
    nib := { s.nib with moult := true },
    parts := s.parts.map (fun (e : Nat × Part) => (e.1, { e.2 with
      halt := true,
      table := e.2.table.map (fun (l : Launch) => { l with status := some 4, accepting := false, outrank := false, tokens := [] }) })) }
  let late := fun (t : State) (c : Nat) => ((t.focus c).abandonLate.onCore Core.moultStop)
  ((s1.cores.map Prod.fst).foldl late s1).focus s.here

/-- Every core has drained, every completion is written, and no write-back is in progress. -/
def State.moultDrained (s : State) : Bool :=
  s.parts.all (fun e => e.2.table.isEmpty) &&
    s.cores.all (fun e => e.2.quiet && e.2.enginesIdle && e.2.x.wbs.isEmpty && !e.2.share.live && e.2.share.phase != .swapOut)

/-- What step 4 zeroes of a core. -/
def Core.zeroed (k : Core) : Core :=
  { k with seq := { k.seq with thr := Bank.zero, svr := Bank.zero, bslots := [] }, vec := Vec.reset, mat := Mat.reset, badReg := [],
           near := Store.empty, x := { XEng.reset with nid := k.x.nid } }

/-- Steps 3 to 6. -/
def State.moultWipe (s : State) (c : Command) : State :=
  let s1 := (s.mapCores Core.zeroed).mapDies (fun d => { d with recovery := [], hold := [] })
  { s1 with
    dieStore := Store.empty, keys := [(0, { ident := s.keyGen, part := none })], keyGen := s.keyGen + 1,
    nib := ({ s1.nib with debugOpen := true, scope := BitVec.ofNat 3 (c.num 60 8), moult := false }.extend 7 (Config.sha256 c.token)) }

/-- The end of moult: the host route is answered, a partition route not (R417). -/
def State.endMoult (s : State) (c : Command) : State :=
  let t := s.moultWipe c
  if c.route == .host then t.accept c (bytesOfNat 4 0) else { t with nib := { t.nib with cmd := none } }

/-- The token is checked and its nonce spent; moult begins, or the command is refused. -/
def State.unlockStep (s : State) (c : Command) : State :=
  let t := { s with nib := s.nib.setNonce c.route none }
  match s.tokenRefusal c with
  | some why => t.refuse c why
  | none => t.beginMoult

/-- An UNLOCK has something to do now. -/
def State.unlockDue (s : State) : Bool := s.runs 4 && (!s.nib.moult || s.moultDrained)

def execNibUnlock (s : State) : Host.Outcome State Fault Refusal :=
  s.whenOk s.unlockDue (fun t =>
    match t.nib.cmd with
    | some c =>
      (match c.refusal t.nib.mode with
       | some why => t.refuse c why
       | none => if t.nib.moult then t.endMoult c else t.unlockStep c)
    | none => t)

end Sys2Proof.Machine
end

