-- ==== Sys2Proof/Machine/Scalar.lean ====
section
/-! DEFINITION. Scalar arithmetic, compares and predicate logic (R177-R181). -/

namespace Sys2Proof.Machine

/-- Register-register word: s[DST] := op(s[SA], s[SB]) within its bound (R177). -/
def srWord (n : Nat) (op : Word → Word → Word) (h : Head) (f : SR) (s : State) :
    Host.Outcome State Fault Refusal :=
  .next (s.issueSeq { reads := [f.sa, f.sb] } h fun t =>
    .next (t.give .seq n 0 (.sreg t.core.seq.sup f.dst (op (t.reg 0 f.sa) (t.reg 1 f.sb)))))

/-- Immediate word: s[DST] := op(s[SA], IMM) within its bound (R178). -/
def siWord (n : Nat) (op : Word → Word → Word) (h : Head) (f : SI) (s : State) :
    Host.Outcome State Fault Refusal :=
  .next (s.issueSeq { reads := [f.sa] } h fun t =>
    .next (t.give .seq n 0 (.sreg t.core.seq.sup f.dst (op (t.reg 0 f.sa) f.imm))))

/-- Shift amounts use bits 5:0 (R177, R179). -/
def shiftLeft64 (a b : Word) : Word := a <<< (fieldAt b 0 6).toNat
def shiftRight64 (a b : Word) : Word := a >>> (fieldAt b 0 6).toNat
def shiftArith64 (a b : Word) : Word := a.sshiftRight (fieldAt b 0 6).toNat

/-- High halves of a 128-bit product, unsigned and signed. -/
def mulHighU (a b : Word) : Word := BitVec.ofNat 64 (a.toNat * b.toNat / 2 ^ 64)
def mulHighS (a b : Word) : Word := BitVec.ofInt 64 (a.toInt * b.toInt / 2 ^ 64)

/-- Smaller and larger, signed and unsigned. -/
def minS64 (a b : Word) : Word := if a.slt b then a else b
def maxS64 (a b : Word) : Word := if a.slt b then b else a
def minU64 (a b : Word) : Word := if a.ult b then a else b
def maxU64 (a b : Word) : Word := if a.ult b then b else a

def execAdd (h : Head) (f : SR) (s : State) := srWord 1 (· + ·) h f s
def execSub (h : Head) (f : SR) (s : State) := srWord 1 (· - ·) h f s
def execAndS (h : Head) (f : SR) (s : State) := srWord 1 (· &&& ·) h f s
def execOrS (h : Head) (f : SR) (s : State) := srWord 1 (· ||| ·) h f s
def execXorS (h : Head) (f : SR) (s : State) := srWord 1 (· ^^^ ·) h f s
def execShl (h : Head) (f : SR) (s : State) := srWord 1 shiftLeft64 h f s
def execShr (h : Head) (f : SR) (s : State) := srWord 1 shiftRight64 h f s
def execSar (h : Head) (f : SR) (s : State) := srWord 1 shiftArith64 h f s
def execMul (h : Head) (f : SR) (s : State) := srWord 3 (· * ·) h f s
def execMulhu (h : Head) (f : SR) (s : State) := srWord 3 mulHighU h f s
def execMulh (h : Head) (f : SR) (s : State) := srWord 3 mulHighS h f s
def execMinS (h : Head) (f : SR) (s : State) := srWord 1 minS64 h f s
def execMaxS (h : Head) (f : SR) (s : State) := srWord 1 maxS64 h f s
def execMinu (h : Head) (f : SR) (s : State) := srWord 1 minU64 h f s
def execMaxu (h : Head) (f : SR) (s : State) := srWord 1 maxU64 h f s

def execAddi (h : Head) (f : SI) (s : State) := siWord 1 (· + ·) h f s
/-- `li` reads no scalar. -/
def execLi (h : Head) (f : SI) (s : State) := siWord 1 (fun _ b => b) h { f with sa := 0 } s
def execAndi (h : Head) (f : SI) (s : State) := siWord 1 (· &&& ·) h f s
def execOri (h : Head) (f : SI) (s : State) := siWord 1 (· ||| ·) h f s
def execXori (h : Head) (f : SI) (s : State) := siWord 1 (· ^^^ ·) h f s
def execShli (h : Head) (f : SI) (s : State) := siWord 1 shiftLeft64 h f s
def execShri (h : Head) (f : SI) (s : State) := siWord 1 shiftRight64 h f s
def execSari (h : Head) (f : SI) (s : State) := siWord 1 shiftArith64 h f s
def execMuli (h : Head) (f : SI) (s : State) := siWord 3 (· * ·) h f s

/-- `cmp` (R180): the predicate is in force from the next cycle. -/
def execCmp (h : Head) (f : SPr) (s : State) : Host.Outcome State Fault Refusal :=
  .next (s.issueSeq { reads := [f.sa, f.sb] } h fun t => .next (t.setPred f.pd (condHolds f.cond (t.reg 0 f.sa) (t.reg 1 f.sb))))

/-- `cmpi` (R180). -/
def execCmpi (h : Head) (f : SPi) (s : State) : Host.Outcome State Fault Refusal :=
  .next (s.issueSeq { reads := [f.sa] } h fun t => .next (t.setPred f.pd (condHolds f.cond (t.reg 0 f.sa) f.imm)))

/-- Predicate logic (R181). -/
def plWord (op : Bool → Bool → Bool) (h : Head) (f : PL) (s : State) : Host.Outcome State Fault Refusal :=
  .next (s.issueSeq {} h fun t => .next (t.setPred f.pd (op (t.core.seq.bank.pred f.pa) (t.core.seq.bank.pred f.pb))))

def execPand (h : Head) (f : PL) (s : State) := plWord (· && ·) h f s
def execPor (h : Head) (f : PL) (s : State) := plWord (· || ·) h f s
def execPxor (h : Head) (f : PL) (s : State) := plWord (· ^^ ·) h f s
def execPnot (h : Head) (f : PL) (s : State) := plWord (fun a _ => !a) h f s

end Sys2Proof.Machine
end

