-- ==== Sys2Proof/Machine/Dispatch.lean ====
section
/-! DEFINITION. One arm per instruction or event: one direct call of its meaning. -/

namespace Sys2Proof.Machine

/-- What an instruction or an event does to the package. -/
def exec (i : Instr) (s : State) : Host.Outcome State Fault Refusal :=
  match i with
  | .add h f => Sys2Proof.Machine.execAdd h f s
  | .sub h f => Sys2Proof.Machine.execSub h f s
  | .andS h f => Sys2Proof.Machine.execAndS h f s
  | .orS h f => Sys2Proof.Machine.execOrS h f s
  | .xorS h f => Sys2Proof.Machine.execXorS h f s
  | .shl h f => Sys2Proof.Machine.execShl h f s
  | .shr h f => Sys2Proof.Machine.execShr h f s
  | .sar h f => Sys2Proof.Machine.execSar h f s
  | .mul h f => Sys2Proof.Machine.execMul h f s
  | .mulhu h f => Sys2Proof.Machine.execMulhu h f s
  | .mulh h f => Sys2Proof.Machine.execMulh h f s
  | .minS h f => Sys2Proof.Machine.execMinS h f s
  | .maxS h f => Sys2Proof.Machine.execMaxS h f s
  | .minu h f => Sys2Proof.Machine.execMinu h f s
  | .maxu h f => Sys2Proof.Machine.execMaxu h f s
  | .addi h f => Sys2Proof.Machine.execAddi h f s
  | .li h f => Sys2Proof.Machine.execLi h f s
  | .andi h f => Sys2Proof.Machine.execAndi h f s
  | .ori h f => Sys2Proof.Machine.execOri h f s
  | .xori h f => Sys2Proof.Machine.execXori h f s
  | .shli h f => Sys2Proof.Machine.execShli h f s
  | .shri h f => Sys2Proof.Machine.execShri h f s
  | .sari h f => Sys2Proof.Machine.execSari h f s
  | .muli h f => Sys2Proof.Machine.execMuli h f s
  | .cmp h f => Sys2Proof.Machine.execCmp h f s
  | .cmpi h f => Sys2Proof.Machine.execCmpi h f s
  | .pand h f => Sys2Proof.Machine.execPand h f s
  | .por h f => Sys2Proof.Machine.execPor h f s
  | .pxor h f => Sys2Proof.Machine.execPxor h f s
  | .pnot h f => Sys2Proof.Machine.execPnot h f s
  | .br h f => Sys2Proof.Machine.execBr h f s
  | .call h f => Sys2Proof.Machine.execCall h f s
  | .ret h => Sys2Proof.Machine.execRet h s
  | .loopReg h f => Sys2Proof.Machine.execLoopReg h f s
  | .loopi h f => Sys2Proof.Machine.execLoopi h f s
  | .disp h f => Sys2Proof.Machine.execDisp h f s
  | .waitWord h f => Sys2Proof.Machine.execWaitWord h f s
  | .nextTile h => Sys2Proof.Machine.execNextTile h s
  | .endShareWord h => Sys2Proof.Machine.execEndShareWord h s
  | .palign h f => Sys2Proof.Machine.execPalign h f s
  | .rdtick h f => Sys2Proof.Machine.execRdtick h f s
  | .rdscyc h f => Sys2Proof.Machine.execRdscyc h f s
  | .rdlbt h f => Sys2Proof.Machine.execRdlbt h f s
  | .ld h f => Sys2Proof.Machine.execLd h f s
  | .st h f => Sys2Proof.Machine.execSt h f s
  | .shld h f => Sys2Proof.Machine.execShld h f s
  | .shset h f => Sys2Proof.Machine.execShset h f s
  | .shget h f => Sys2Proof.Machine.execShget h f s
  | .barInit h f => Sys2Proof.Machine.execBarInit h f s
  | .barArr h f => Sys2Proof.Machine.execBarArr h f s
  | .barWait h f => Sys2Proof.Machine.execBarWait h f s
  | .barSync h f => Sys2Proof.Machine.execBarSync h f s
  | .barRed h f => Sys2Proof.Machine.execBarRed h f s
  | .trapWord h f => Sys2Proof.Machine.execTrapWord h f s
  | .brk h => Sys2Proof.Machine.execBrk h s
  | .rdsys h f => Sys2Proof.Machine.execRdsys h f s
  | .wrsys h f => Sys2Proof.Machine.execWrsys h f s
  | .sret h => Sys2Proof.Machine.execSret h s
  | .sretFault h => Sys2Proof.Machine.execSretFault h s
  | .lres h => Sys2Proof.Machine.execLres h s
  | .labn h => Sys2Proof.Machine.execLabn h s
  | .drain h => Sys2Proof.Machine.execDrain h s
  | .pswap h => Sys2Proof.Machine.execPswap h s
  | .tlbiVa h f => Sys2Proof.Machine.execTlbiVa h f s
  | .tlbiAsid h f => Sys2Proof.Machine.execTlbiAsid h f s
  | .tlbiAll h => Sys2Proof.Machine.execTlbiAll h s
  | .errrd h f => Sys2Proof.Machine.execErrrd h f s
  | .errclr h f => Sys2Proof.Machine.execErrclr h f s
  | .parkrd h f => Sys2Proof.Machine.execParkrd h f s
  | .barKill h f => Sys2Proof.Machine.execBarKill h f s
  | .fence e h f => Sys2Proof.Machine.execFence e h f s
  | .nop e h => Sys2Proof.Machine.execNop e h s
  | .vadd g f => Sys2Proof.Machine.execVadd g f s
  | .vsub g f => Sys2Proof.Machine.execVsub g f s
  | .vmul g f => Sys2Proof.Machine.execVmul g f s
  | .vfma g f => Sys2Proof.Machine.execVfma g f s
  | .vfms g f => Sys2Proof.Machine.execVfms g f s
  | .vfnma g f => Sys2Proof.Machine.execVfnma g f s
  | .vdiv g f => Sys2Proof.Machine.execVdiv g f s
  | .vsqrt g f => Sys2Proof.Machine.execVsqrt g f s
  | .vmin g f => Sys2Proof.Machine.execVmin g f s
  | .vmax g f => Sys2Proof.Machine.execVmax g f s
  | .vabs g f => Sys2Proof.Machine.execVabs g f s
  | .vneg g f => Sys2Proof.Machine.execVneg g f s
  | .vadds g f => Sys2Proof.Machine.execVadds g f s
  | .vsubs g f => Sys2Proof.Machine.execVsubs g f s
  | .vmulh g f => Sys2Proof.Machine.execVmulh g f s
  | .vand g f => Sys2Proof.Machine.execVand g f s
  | .vor g f => Sys2Proof.Machine.execVor g f s
  | .vxor g f => Sys2Proof.Machine.execVxor g f s
  | .vnot g f => Sys2Proof.Machine.execVnot g f s
  | .vshl g f => Sys2Proof.Machine.execVshl g f s
  | .vshr g f => Sys2Proof.Machine.execVshr g f s
  | .vsar g f => Sys2Proof.Machine.execVsar g f s
  | .vrot g f => Sys2Proof.Machine.execVrot g f s
  | .vclmul g f => Sys2Proof.Machine.execVclmul g f s
  | .vpopc g f => Sys2Proof.Machine.execVpopc g f s
  | .vclz g f => Sys2Proof.Machine.execVclz g f s
  | .vsel g f => Sys2Proof.Machine.execVsel g f s
  | .vbidx g f => Sys2Proof.Machine.execVbidx g f s
  | .vbcmp g f => Sys2Proof.Machine.execVbcmp g f s
  | .vmov g f => Sys2Proof.Machine.execVmov g f s
  | .vsplat g f => Sys2Proof.Machine.execVsplat g f s
  | .vcmp g f => Sys2Proof.Machine.execVcmp g f s
  | .mand g f => Sys2Proof.Machine.execMand g f s
  | .mor g f => Sys2Proof.Machine.execMor g f s
  | .mxor g f => Sys2Proof.Machine.execMxor g f s
  | .mnot g f => Sys2Proof.Machine.execMnot g f s
  | .mfromv g f => Sys2Proof.Machine.execMfromv g f s
  | .mtov g f => Sys2Proof.Machine.execMtov g f s
  | .vcvt g f => Sys2Proof.Machine.execVcvt g f s
  | .vmxq g f => Sys2Proof.Machine.execVmxq g f s
  | .vmxd g f => Sys2Proof.Machine.execVmxd g f s
  | .vredadd g f => Sys2Proof.Machine.execVredadd g f s
  | .vredmin g f => Sys2Proof.Machine.execVredmin g f s
  | .vredmax g f => Sys2Proof.Machine.execVredmax g f s
  | .vredand g f => Sys2Proof.Machine.execVredand g f s
  | .vredor g f => Sys2Proof.Machine.execVredor g f s
  | .vredxor g f => Sys2Proof.Machine.execVredxor g f s
  | .vscanadd g f => Sys2Proof.Machine.execVscanadd g f s
  | .vscanmin g f => Sys2Proof.Machine.execVscanmin g f s
  | .vscanmax g f => Sys2Proof.Machine.execVscanmax g f s
  | .vscanxor g f => Sys2Proof.Machine.execVscanxor g f s
  | .vtrn g f => Sys2Proof.Machine.execVtrn g f s
  | .vperm g f => Sys2Proof.Machine.execVperm g f s
  | .vshuf g f => Sys2Proof.Machine.execVshuf g f s
  | .vslide g f => Sys2Proof.Machine.execVslide g f s
  | .vcompress g f => Sys2Proof.Machine.execVcompress g f s
  | .vexpand g f => Sys2Proof.Machine.execVexpand g f s
  | .vld g f => Sys2Proof.Machine.execVld g f s
  | .vst g f => Sys2Proof.Machine.execVst g f s
  | .mld g f => Sys2Proof.Machine.execMld g f s
  | .mst g f => Sys2Proof.Machine.execMst g f s
  | .vfclr g f => Sys2Proof.Machine.execVfclr g f s
  | .vfrd g f => Sys2Proof.Machine.execVfrd g f s
  | .vtol g f => Sys2Proof.Machine.execVtol g f s
  | .vfroml g f => Sys2Proof.Machine.execVfroml g f s
  | .lmul g f => Sys2Proof.Machine.execLmul g f s
  | .ldiv g f => Sys2Proof.Machine.execLdiv g f s
  | .lroot g f => Sys2Proof.Machine.execLroot g f s
  | .lpow g f => Sys2Proof.Machine.execLpow g f s
  | .frsqrt g f => Sys2Proof.Machine.execFrsqrt g f s
  | .frcp g f => Sys2Proof.Machine.execFrcp g f s
  | .fsqrt g f => Sys2Proof.Machine.execFsqrt g f s
  | .fexp2 g f => Sys2Proof.Machine.execFexp2 g f s
  | .flog2 g f => Sys2Proof.Machine.execFlog2 g f s
  | .fsigm g f => Sys2Proof.Machine.execFsigm g f s
  | .ftanh g f => Sys2Proof.Machine.execFtanh g f s
  | .fsilu g f => Sys2Proof.Machine.execFsilu g f s
  | .vrng g f => Sys2Proof.Machine.execVrng g f s
  | .vrotw g f => Sys2Proof.Machine.execVrotw g f s
  | .qfrom g f => Sys2Proof.Machine.execQfrom g f s
  | .qto g f => Sys2Proof.Machine.execQto g f s
  | .qcos g f => Sys2Proof.Machine.execQcos g f s
  | .qdot g f => Sys2Proof.Machine.execQdot g f s
  | .qscl g f => Sys2Proof.Machine.execQscl g f s
  | .qadd g f => Sys2Proof.Machine.execQadd g f s
  | .qsub g f => Sys2Proof.Machine.execQsub g f s
  | .qlerp g f => Sys2Proof.Machine.execQlerp g f s
  | .qneg g f => Sys2Proof.Machine.execQneg g f s
  | .qrms g f => Sys2Proof.Machine.execQrms g f s
  | .qq8 g f => Sys2Proof.Machine.execQq8 g f s
  | .qnget g f => Sys2Proof.Machine.execQnget g f s
  | .qnset g f => Sys2Proof.Machine.execQnset g f s
  | .qcls g f => Sys2Proof.Machine.execQcls g f s
  | .qmov g f => Sys2Proof.Machine.execQmov g f s
  | .qld g f => Sys2Proof.Machine.execQld g f s
  | .qst g f => Sys2Proof.Machine.execQst g f s
  | .mwld g f => Sys2Proof.Machine.execMwld g f s
  | .macc g f => Sys2Proof.Machine.execMacc g f s
  | .mclr g f => Sys2Proof.Machine.execMclr g f s
  | .mepi g f => Sys2Proof.Machine.execMepi g f s
  | .mflg g f => Sys2Proof.Machine.execMflg g f s
  | .mfclr g f => Sys2Proof.Machine.execMfclr g f s
  | .xchNd g f => Sys2Proof.Machine.execXchNd g f s
  | .xchNm g f => Sys2Proof.Machine.execXchNm g f s
  | .xchDm g f => Sys2Proof.Machine.execXchDm g f s
  | .xchNp g f => Sys2Proof.Machine.execXchNp g f s
  | .xchAm g f => Sys2Proof.Machine.execXchAm g f s
  | .xsend g f => Sys2Proof.Machine.execXsend g f s
  | .xland g f => Sys2Proof.Machine.execXland g f s
  | .xpush g f => Sys2Proof.Machine.execXpush g f s
  | .xatom g f => Sys2Proof.Machine.execXatom g f s
  | .xred g f => Sys2Proof.Machine.execXred g f s
  | .xbinit g f => Sys2Proof.Machine.execXbinit g f s
  | .xbadd g f => Sys2Proof.Machine.execXbadd g f s
  | .xbread g f => Sys2Proof.Machine.execXbread g f s
  | .sectionStart c e => Sys2Proof.Machine.execSectionStart c e s
  | .sectionRetire c e => Sys2Proof.Machine.execSectionRetire c e s
  | .resultLanding c n => Sys2Proof.Machine.execResultLanding c n s
  | .accessPerform c id unit => Sys2Proof.Machine.execAccessPerform c id unit s
  | .bankConflictEnd c => Sys2Proof.Machine.execBankConflictEnd c s
  | .farDataArrival c id => Sys2Proof.Machine.execFarDataArrival c id s
  | .landingDue c id => Sys2Proof.Machine.execLandingDue c id s
  | .exchangeCommit c id => Sys2Proof.Machine.execExchangeCommit c id s
  | .writeBackDone c id => Sys2Proof.Machine.execWriteBackDone c id s
  | .pathFailure c id => Sys2Proof.Machine.execPathFailure c id s
  | .atomicPerform c id => Sys2Proof.Machine.execAtomicPerform c id s
  | .mergedEntryApply n => Sys2Proof.Machine.execMergedEntryApply n s
  | .payloadDelivery c id => Sys2Proof.Machine.execPayloadDelivery c id s
  | .inflowPush c id => Sys2Proof.Machine.execInflowPush c id s
  | .creditRefill c => Sys2Proof.Machine.execCreditRefill c s
  | .beaconSend d => Sys2Proof.Machine.execBeaconSend d s
  | .beaconReceive d n => Sys2Proof.Machine.execBeaconReceive d n s
  | .beaconTimeout d d2 => Sys2Proof.Machine.execBeaconTimeout d d2 s
  | .releaseSend c => Sys2Proof.Machine.execReleaseSend c s
  | .releaseReceive d n => Sys2Proof.Machine.execReleaseReceive d n s
  | .palignExitTick d p => Sys2Proof.Machine.execPalignExitTick d p s
  | .palignLocalResume c => Sys2Proof.Machine.execPalignLocalResume c s
  | .barrierArrival c id => Sys2Proof.Machine.execBarrierArrival c id s
  | .barrierDone c b => Sys2Proof.Machine.execBarrierDone c b s
  | .frzlimExpiry c => Sys2Proof.Machine.execFrzlimExpiry c s
  | .trapEntry c => Sys2Proof.Machine.execTrapEntry c s
  | .lateEntry c => Sys2Proof.Machine.execLateEntry c s
  | .replay c => Sys2Proof.Machine.execReplay c s
  | .preemptEntry c => Sys2Proof.Machine.execPreemptEntry c s
  | .prelimExpiry c => Sys2Proof.Machine.execPrelimExpiry c s
  | .shareEnd c => Sys2Proof.Machine.execShareEnd c s
  | .launchStop c => Sys2Proof.Machine.execLaunchStop c s
  | .tileEntry c => Sys2Proof.Machine.execTileEntry c s
  | .parameterSwapIn c => Sys2Proof.Machine.execParameterSwapIn c s
  | .parameterSwapOut c => Sys2Proof.Machine.execParameterSwapOut c s
  | .launchCompletion p => Sys2Proof.Machine.execLaunchCompletion p s
  | .submit p j => Sys2Proof.Machine.execSubmit p j s
  | .launchReady p n => Sys2Proof.Machine.execLaunchReady p n s
  | .agingStep p n => Sys2Proof.Machine.execAgingStep p n s
  | .acceptance p => Sys2Proof.Machine.execAcceptance p s
  | .staging p n => Sys2Proof.Machine.execStaging p n s
  | .startToken c => Sys2Proof.Machine.execStartToken c s
  | .hardwareFlip c => Sys2Proof.Machine.execHardwareFlip c s
  | .outrankPreempt p n => Sys2Proof.Machine.execOutrankPreempt p n s
  | .translationWalk c id n => Sys2Proof.Machine.execTranslationWalk c id n s
  | .podRetransmit pkg => Sys2Proof.Machine.execPodRetransmit pkg s
  | .watchdogExpiry c => Sys2Proof.Machine.execWatchdogExpiry c s
  | .clockMark p d => Sys2Proof.Machine.execClockMark p d s
  | .debugStop c code => Sys2Proof.Machine.execDebugStop c code s
  | .stepEnd c => Sys2Proof.Machine.execStepEnd c s
  | .retrainEntry ch grp => Sys2Proof.Machine.execRetrainEntry ch grp s
  | .retrainWaitExpiry ch => Sys2Proof.Machine.execRetrainWaitExpiry ch s
  | .mailboxTake r => Sys2Proof.Machine.execMailboxTake r s
  | .hostWrite o data ep => Sys2Proof.Machine.execHostWrite o data ep s
  | .hostRead o len => Sys2Proof.Machine.execHostRead o len s
  | .registerWrite r v => Sys2Proof.Machine.execRegisterWrite r v s
  | .errorEvent d ev => Sys2Proof.Machine.execErrorEvent d ev s
  | .retrainExit ch ok => Sys2Proof.Machine.execRetrainExit ch ok s
  | .ctxWrite c v => Sys2Proof.Machine.execCtxWrite c v s
  | .frzlimWrite c v => Sys2Proof.Machine.execFrzlimWrite c v s
  | .rtailWrite p j v => Sys2Proof.Machine.execRtailWrite p j v s
  | .rbaseWrite p j v => Sys2Proof.Machine.execRbaseWrite p j v s
  | .szWrite p v => Sys2Proof.Machine.execSzWrite p v s
  | .rerrClear p => Sys2Proof.Machine.execRerrClear p s
  | .errorBankRead d b => Sys2Proof.Machine.execErrorBankRead d b s
  | .errorRecordClear d b => Sys2Proof.Machine.execErrorRecordClear d b s
  | .frameRetry l ok => Sys2Proof.Machine.execFrameRetry l ok s
  | .podFrameReceive fr => Sys2Proof.Machine.execPodFrameReceive fr s
  | .blotterUnfreeze c => Sys2Proof.Machine.execBlotterUnfreeze c s
  | .debugRun c => Sys2Proof.Machine.execDebugRun c s
  | .debugStep c n => Sys2Proof.Machine.execDebugStep c n s
  | .debugWrite c t v => Sys2Proof.Machine.execDebugWrite c t v s
  | .frequencyChange mhz => Sys2Proof.Machine.execFrequencyChange mhz s
  | .clockStretch d => Sys2Proof.Machine.execClockStretch d s
  | .thermalLower => Sys2Proof.Machine.execThermalLower s
  | .thermalRaise => Sys2Proof.Machine.execThermalRaise s
  | .thermalStop => Sys2Proof.Machine.execThermalStop s
  | .powerOn im => Sys2Proof.Machine.execPowerOn im s
  | .dieWarm d => Sys2Proof.Machine.execDieWarm d s
  | .moduleWarm ch => Sys2Proof.Machine.execModuleWarm ch s
  | .selfTest fd => Sys2Proof.Machine.execSelfTest fd s
  | .startReady => Sys2Proof.Machine.execStartReady s
  | .startFail why => Sys2Proof.Machine.execStartFail why s
  | .nibInfo => Sys2Proof.Machine.execNibInfo s
  | .nibNonce => Sys2Proof.Machine.execNibNonce s
  | .nibQuote => Sys2Proof.Machine.execNibQuote s
  | .nibUnlock => Sys2Proof.Machine.execNibUnlock s
  | .nibExtend => Sys2Proof.Machine.execNibExtend s
  | .nibPartset => Sys2Proof.Machine.execNibPartset s
  | .nibKeygen => Sys2Proof.Machine.execNibKeygen s
  | .nibKeyclr => Sys2Proof.Machine.execNibKeyclr s
  | .nibRecover => Sys2Proof.Machine.execNibRecover s
  | .nibClrfail => Sys2Proof.Machine.execNibClrfail s
  | .powerLoss => Sys2Proof.Machine.execPowerLoss s
  | .partReset => Sys2Proof.Machine.execPartReset s
  | .functionLevelReset => Sys2Proof.Machine.execFunctionLevelReset s
  | .hostLinkRecovery => Sys2Proof.Machine.execHostLinkRecovery s
  | .dieReadsZeroCelsius => Sys2Proof.Machine.execDieReadsZeroCelsius s

end Sys2Proof.Machine
end

