-- ==== Sys2Proof/Machine/Next.lean ====
section
/-! DEFINITION. What the machine does next of its own: the order of the events that are due, the words that issue in a
cycle, and time going on when nothing is left to do (log entry 1); and how a word is fetched (R155, R156, R303). -/

namespace Sys2Proof.Machine

/-! ### Moves -/

/-- A move of the machine. -/
inductive Move where
  /-- An event, or the word of the core in focus. -/
  | ins (i : Instr)
  /-- A word that the stream's decoder refuses. -/
  | illop (e : Stream)
  /-- A word held poisoned in the plane. -/
  | spoiled (e : Stream)
  /-- A control-stream fetch that issues nothing: its trap. -/
  | stray (cause : BitVec 8)
  /-- A planned nominal frequency takes effect (R394). -/
  | nominal (mhz : Nat)
  /-- The matrix engine reads its beats of the cycle. -/
  | feed
  /-- Time goes on. -/
  | tick
  deriving DecidableEq, Repr

/-- An event where its condition holds. -/
def when_ (c : Bool) (i : Instr) : Option Move := if c then some (.ins i) else none

/-! ### Fetch (R155, R303) -/

/-- The move that the bytes of a stream's next word make. -/
def Core.wordMove (e : Stream) (bs : List Byte) : Move :=
  match decodeBytes e bs with
  | some (i, _) => .ins i
  | none => .illop e

/-- The control stream of the core may issue its next word. -/
def Core.seqReady (k : Core) : Bool :=
  !k.frozen && k.seq.wait == 0 && !k.seq.ended && !k.seq.draining && k.seq.pre.isNone && k.seq.frz.align.isNone &&
    k.seq.frz.bar.isNone && (k.seq.sup || k.share.phase == .running)

/-- The fetch at PC: BADPC beyond the stream, PRIV from the supervisor region in user state, whatever SEN says, and POISON
of a word held poisoned (R303, R367). -/
def Core.seqFetch (k : Core) : Move :=
  match k.cur.word k.seq.pc.toNat with
  | some bs =>
    if !k.seq.sup && decide (k.seq.sbase ≤ k.seq.pc) then .stray 0x02
    else if k.cur.wordBad k.seq.pc.toNat then .spoiled .seq
    else Core.wordMove .seq bs
  | none => .stray 0x07

/-- The next word of the control stream. -/
def Core.seqMove (k : Core) : Option Move := if k.seqReady then some k.seqFetch else none

/-- A running section has a word to issue in this cycle. -/
def Core.wordReady (k : Core) (e : Stream) : Bool :=
  match (k.eng e).run with
  | some r => !k.frozen && r.wait == 0 && !r.stopped && decide (r.next < r.hdr.len.toNat) && !k.pausedRun e
  | none => false

/-- The next word of an engine's running section. -/
def Core.engMove (k : Core) (e : Stream) : Option Move :=
  match (k.eng e).run with
  | some r =>
    let a := r.base + 12 * r.next
    if !k.wordReady e then none else if k.cur.poisoned a 12 then some (.spoiled e) else some (Core.wordMove e (k.cur.bytes a 12))
  | none => none

/-- The matrix engine has beats to read in this cycle. -/
def Core.feedDue (k : Core) : Bool := k.mat.armed && (!k.frozen || k.settles)

/-- The words of a core in a cycle: X, the matrix feed, M, V, then the control stream. -/
def Core.words (k : Core) : Option Move :=
  k.engMove .x <|> (if k.feedDue then some .feed else none) <|> k.engMove .m <|> k.engMove .v <|> k.seqMove

/-! ### Events of the core in focus -/

/-- The first result at its bound that no other must precede. -/
def Core.resultDue (k : Core) : Option Nat :=
  (k.x.flight.zipIdx.find? (fun e => e.1.due == 0 && k.mayLandAt e.2)).map Prod.snd

/-- An exchange may commit (R121). -/
def Core.mayCommit (k : Core) (a : Acc) : Bool :=
  match a.kind with
  | .xch _ => a.due == some 0 && k.present a && !k.paused a && !k.seq.frz.lateOn
  | _ => false

/-- A barrier whose completion is on its way to the core. -/
def State.doneDue (s : State) : Option Nat := (s.barMsgs.find? (fun m => m.core == s.here)).map (fun m => m.bar.toNat)

/-- A barrier whose completion has come, or must now have come (R197). -/
def State.doneForced (s : State) : Option Nat :=
  (s.barMsgs.find? (fun m => m.core == s.here && decide (s.barLimit m.scope ≤ m.age))).map (fun m => m.bar.toNat) <|>
    (s.core.seq.frz.bar.filter (fun w => s.core.waitOver w.bar.toNat)).map (fun w => w.bar.toNat)

/-- The first event of a load or store that may perform. -/
def State.unitDue (s : State) (a : Acc) : Option Nat := a.pieces.findIdx? (s.mayGo a)

/-- What a pending access does next at its homes (R25, R142). -/
def State.accDue (s : State) (a : Acc) : Option Move :=
  let c := s.here
  match a.kind with
  | .load _ _ => (s.unitDue a).map (fun u => .ins (.accessPerform c a.id u))
  | .store _ => (s.unitDue a).map (fun u => .ins (.accessPerform c a.id u))
  | .atom _ => when_ (s.mayAtom a.id) (.atomicPerform c a.id)
  | .xch x => when_ (s.mayArriveX a x) (.farDataArrival c a.id)
  | .send _ _ _ _ _ => when_ (s.sendStep a.id).isSome (.payloadDelivery c a.id)
  | .push _ _ _ _ => when_ (s.pushStep a.id).isSome (.inflowPush c a.id)
  | .land _ _ _ _ _ => none
  | .arrive _ _ _ _ _ => when_ (s.core.clearFor a) (.barrierArrival c a.id)

/-- The events of the core in focus that the present cycle brings; an access at the end of its bound performs in it
(R172). -/
def State.coreDue (s : State) : Option Move :=
  let c := s.here
  let k := s.core
  when_ (k.obs.steps == some 0 && !k.obs.stopped) (.stepEnd c) <|>
  (([1, 2, 3, 4, 5] : List Nat).find? s.mayStop).map (fun n => .ins (.debugStop c n)) <|>
  k.resultDue.map (fun i => .ins (.resultLanding c i)) <|>
  (k.x.accs.find? k.mayLand).map (fun a => .ins (.landingDue c a.id)) <|>
  (k.x.accs.find? k.mayCommit).map (fun a => .ins (.exchangeCommit c a.id)) <|>
  k.x.accs.findSome? (fun a => if a.by_ == some 0 then s.accDue a else none) <|>
  s.doneForced.map (fun b => .ins (.barrierDone c b)) <|>
  when_ (k.seq.frz.bankOn && k.seq.frz.bank == 0) (.bankConflictEnd c) <|>
  when_ s.creditDue (.creditRefill c) <|>
  (engines.find? k.mayRetire).map (fun e => .ins (.sectionRetire c e)) <|>
  when_ (k.stopDrained || k.takesStop || s.stopFalls) (.launchStop c) <|>
  when_ k.replayReady (.replay c) <|> when_ (k.trapReady && (!k.seq.draining || s.mayEnter)) (.trapEntry c) <|>
  when_ (s.lateReady && s.mayEnter) (.lateEntry c) <|>
  when_ k.limitReached (.frzlimExpiry c) <|>
  when_ ((k.preemptDrained && s.mayEnter) || (k.asked && (k.seq.force || k.drainPoint))) (.preemptEntry c) <|>
  when_ (k.asked && k.seq.overdue) (.prelimExpiry c) <|>
  when_ k.shareDone (.shareEnd c) <|> when_ k.tileDue (.tileEntry c) <|>
  when_ s.localMet (.palignLocalResume c) <|> when_ s.releaseDue (.releaseSend c) <|>
  when_ k.dogDue (.watchdogExpiry c) <|>
  (engines.find? k.mayStart).map (fun e => .ins (.sectionStart c e))

/-- What a write-back does next: its homes are written, or its path has failed. -/
def State.wbDue (s : State) (w : WriteBack) : Option Move :=
  if w.homes.any s.homeCut then some (.ins (.pathFailure s.here w.id)) else when_ (w.homes.all s.homeReady) (.writeBackDone s.here w.id)

/-- The events of the core in focus that no cycle forces. -/
def State.coreLoose (s : State) : Option Move :=
  let c := s.here
  let k := s.core
  s.doneDue.map (fun b => .ins (.barrierDone c b)) <|>
  k.x.accs.findSome? s.accDue <|> k.x.wbs.findSome? s.wbDue <|>
  when_ s.flipTo.isSome (.hardwareFlip c) <|> when_ s.tokenFor.isSome (.startToken c) <|>
  when_ (s.mayParam .swapIn) (.parameterSwapIn c) <|> when_ (s.mayParam .swapOut) (.parameterSwapOut c)

/-! ### Events of dies, channels and the package -/

/-- A message on a sideband whose time has come: 40 ticks, or 38 where nothing is held back (R72). -/
def State.sideDue (s : State) (d least : Nat) : Option Move :=
  (s.die d).side.zipIdx.findSome? (fun e =>
    if decide (least ≤ e.1.2) then
      some (.ins (match e.1.1 with
        | .beacon _ _ => .beaconReceive d e.2
        | .release _ _ _ => .releaseReceive d e.2))
    else none)

/-- The events of a die that its present tick brings. -/
def State.dieDue (s : State) (d : Nat) : Option Move :=
  when_ (s.beaconDue d) (.beaconSend d) <|> s.sideDue d 40 <|>
  ((List.range 4).find? (s.beaconLost d)).map (fun e => .ins (.beaconTimeout d e)) <|>
  (s.parts.find? (fun e => !(s.exiting d e.1).isEmpty)).map (fun e => .ins (.palignExitTick d e.1)) <|>
  (s.parts.find? (fun e => s.markDue e.1 d)).map (fun e => .ins (.clockMark e.1 d))

/-- The walk at the head of a die's queue. -/
def State.walkDue (s : State) (d : Nat) : Option Move :=
  match (s.die d).walks with
  | w :: _ => when_ (s.mayWalk w.1 w.2.1 w.2.2) (.translationWalk w.1 w.2.1 w.2.2)
  | [] => none

/-- A channel goes on with a lane group that waits (R399, R400). -/
def State.chanLoose (s : State) (ch : Nat) : Option Move :=
  match (s.chan ch).next with
  | some g => when_ ((s.chan ch).group.isNone && s.mayRetrain ch g) (.retrainEntry ch g)
  | none => none

/-- The launch machinery of a partition. -/
def State.partLoose (s : State) (p : Nat) (x : Part) : Option Move :=
  let idx := List.range x.table.length
  let at_ := fun (f : Launch → Bool) (i : Nat) =>
    match x.table[i]? with
    | some l => f l
    | none => false
  when_ (s.completing p).isSome (.launchCompletion p) <|>
  (idx.find? (at_ x.agingDue)).map (fun i => .ins (.agingStep p i)) <|>
  (([3, 2, 1, 0] : List Nat).find? (fun j => (s.submitNow p j).isSome)).map (fun j => .ins (.submit p j)) <|>
  (idx.find? (at_ (s.becomesReady p x))).map (fun i => .ins (.launchReady p i)) <|>
  (idx.find? (at_ (s.mayStage p x))).map (fun i => .ins (.staging p i)) <|>
  (idx.find? (at_ (fun l => (s.outrankStep p x l).isSome))).map (fun i => .ins (.outrankPreempt p i)) <|>
  when_ (s.acceptStep p x).isSome (.acceptance p)

/-- The event of a command Nib runs. -/
def commandEvent (code : Nat) : Option Instr :=
  if code = 1 then some .nibInfo
  else if code = 2 then some .nibNonce
  else if code = 3 then some .nibQuote
  else if code = 4 then some .nibUnlock
  else if code = 5 then some .nibExtend
  else if code = 0x10 then some .nibPartset
  else if code = 0x11 then some .nibKeygen
  else if code = 0x12 then some .nibKeyclr
  else if code = 0x20 then some .nibRecover
  else if code = 0x21 then some .nibClrfail
  else none

/-- Nib goes on: it takes a command, refuses an unknown one, or carries out the one it has. -/
def State.nibLoose (s : State) : Option Move :=
  match s.nib.cmd with
  | some c =>
    if c.code = 4 then when_ s.unlockDue .nibUnlock
    else
      match commandEvent c.code with
      | some i => when_ (s.runs c.code) i
      | none => when_ (s.nibUp && !s.routeWaits c.route) (.mailboxTake c.route)
  | none =>
    match s.nib.asked with
    | r :: _ => when_ (s.nibUp && !s.routeWaits r) (.mailboxTake r)
    | [] => none

/-- The package's events that no cycle forces. -/
def State.packageLoose (s : State) : Option Move :=
  ((List.range s.entries.length).find? s.mayApply).map (fun i => .ins (.mergedEntryApply i)) <|>
  (List.range 4).findSome? (fun d => s.sideDue d 38) <|> (List.range 4).findSome? s.walkDue <|>
  s.parts.findSome? (fun e => s.partLoose e.1 e.2) <|> (List.range 24).findSome? s.chanLoose <|> s.nibLoose

/-- The package's events that its present tick brings. -/
def State.packageDue (s : State) : Option Move :=
  s.nominalDue.map Move.nominal <|>
  (List.range 4).findSome? s.dieDue <|>
  ((List.range 24).find? s.waitOver).map (fun ch => .ins (.retrainWaitExpiry ch)) <|>
  (s.peers.find? (fun p => (s.podDue p.pkg).isSome)).map (fun p => .ins (.podRetransmit p.pkg))

/-! ### The next move -/

/-- The first core, the one in focus first, with a move of a kind: the core and the move. -/
def State.anyCore (s : State) (f : State → Option Move) : Option (Nat × Move) :=
  (s.cores.map Prod.fst).findSome? (fun c => (f (s.focus c)).map (fun m => (c, m)))

/-- The machine's next move and the core it is made on: events that are due, words, events that no cycle forces (not
under `hold`), and else a tick. -/
def State.nextMove (s : State) (hold : Bool) : Nat × Move :=
  (s.anyCore State.coreDue <|> s.packageDue.map (fun m => (s.here, m)) <|> s.anyCore (fun t => t.core.words) <|>
    (if hold then none
     else s.anyCore State.coreLoose <|> s.packageLoose.map (fun m => (s.here, m)))).getD (s.here, .tick)

/-- A move is made on the core in focus. -/
def State.perform (s : State) : Move → Host.Outcome State Fault Refusal
  | .ins i => exec i s
  | .illop e => .next (if e = .seq then s.issues.seqRefuse 0x01 0 else s.issues.engRefuse e 0x01)
  | .spoiled e => .next (if e = .seq then s.issues.seqRefuse 0x19 0 else s.issues.engRefuse e 0x19)
  | .stray c => .next (s.seqRefuse c (BitVec.ofNat 64 s.core.seq.pc.toNat))
  | .nominal m => .next (s.applyNominal m).bump
  | .feed => .next s.matBeats
  | .tick => .next s.pass

/-- The part stands: it has no power, or holds itself in reset (R395, R408). -/
def State.dead (s : State) : Bool := !s.nib.power || s.nib.off

/-- The machine's own move. -/
def State.own (s : State) (hold : Bool) : Host.Outcome State Fault Refusal :=
  if s.dead then .fault .halted else (s.focus (s.nextMove hold).1).perform (s.nextMove hold).2

/-- An event at the head of the script that its rule makes wait: a host access held at its home. -/
def State.scriptWaits (s : State) : Instr → Bool
  | .hostWrite o _ _ => s.hostUp && decide (o < 2 ^ 40) && s.hostWaits o
  | .hostRead o _ => s.hostUp && decide (o < 2 ^ 40) && s.hostWaits o
  | _ => false

/-- Events that act on a part without power or clocks: nothing inside it executes (R395, R408). -/
def actsDead : Instr → Bool
  | .powerOn _ => true
  | .powerLoss => true
  | _ => false

/-- One step: the head of the script, or the machine's own move. -/
def State.advance (s : State) : Host.Outcome State Fault Refusal :=
  match s.script with
  | .ev i :: r =>
    if s.dead && !actsDead i then .next { s with script := r }
    else if s.scriptWaits i then s.own false
    else exec i { s with script := r }
  | .own :: r => if s.dead then .next { s with script := r } else { s with script := r }.own false
  | .hold :: r => if s.dead then .next { s with script := r } else { s with script := r }.own true
  | [] => s.own false

end Sys2Proof.Machine
end

