-- ==== Sys2Proof/Machine/Step.lean ====
section
/-! DEFINITION. One step of the machine, and the placing of one word where a step fetches next. -/

namespace Sys2Proof.Machine

/-- One step: the head of the script, or the machine's own next move. -/
def step (s : State) : Host.Outcome State Fault Refusal := s.advance

/-- A plane with a word at a byte offset. -/
def Plane.place (p : Plane) (a : Nat) (bs : List Byte) : Plane :=
  { p with code := Mem.write p.code a bs, len := max p.len (a + bs.length) }

/-- The control stream's fetch finds the word at PC: the stream holds it as its last word, its directory entry names the
stream, and the core issues in this cycle. In user state the word lies below the supervisor region. -/
def Core.withSeqWord (k : Core) (bs : List Byte) : Core :=
  let in_ := !k.seq.sup && decide (k.seq.sbase ≤ k.seq.pc)
  let pc : BitVec 14 := if in_ && k.seq.pc == 0x3FFF then 0 else k.seq.pc
  let p := (k.cur.place (32 + 12 * pc.toNat) bs).place 0 (bytesOfNat 4 32 ++ bytesOfNat 4 (12 * pc.toNat + 12))
  { k with
    cur := { p with bad := [] },
    seq := { k.seq with
      pc := pc, sbase := if in_ then 0x3FFF else k.seq.sbase, wait := 0, half := false, ended := false, pipe := false,
      draining := false, pre := none, lateDue := false, frz := Freeze.none },
    share := { k.share with phase := .running, stop := false, fault := false },
    obs := { k.obs with stopped := false } }

/-- A one-word section whose word issues next. -/
def Core.withEngWord (k : Core) (e : Stream) (bs : List Byte) : Core :=
  let r : Running :=
    { entry := QEntry.none, hdr := { Header.none with tag := 0b1010, len := 1 }, base := 32, next := 0, wait := 0,
      stopped := false }
  let k1 := k.modEng e (fun x => { x with run := some r, gap := 0, pipe := false })
  { k1 with
    cur := { k.cur.place 32 bs with bad := [] },
    seq := { k.seq with draining := false, pre := none, lateDue := false, frz := Freeze.none },
    share := { k.share with phase := .running, stop := false, fault := false },
    obs := { k.obs with stopped := false } }

/-- A powered machine, with nothing scripted, about to fetch the word numbered as the opcode table numbers it on the
core in focus (log entry 10). -/
def State.withFetchWord (s : State) (nbits w : Nat) : State :=
  let e := Sys2Proof.tableStream nbits w
  let bs := wordBytes (tableWord nbits w)
  { s with
    core := if e = .seq then s.core.withSeqWord bs else s.core.withEngWord e bs,
    script := [], nib := { s.nib with power := true, off := false } }

end Sys2Proof.Machine
end

