-- ==== Sys2Proof/Safety.lean ====
section
/-! DEFINITION. The terms the statements are said in: what an instruction leaves unchanged, how a word of each kind of
stream ends, and what counts as a sound state. -/

namespace Sys2Proof.Machine

/-! ### What stays -/

/-- Outside the core in focus nothing differs but the number of the next free value. -/
def OutsideSame (s t : State) : Prop := { t with core := s.core, free := s.free } = s

/-- Every byte of every memory reads as before: each core's near store, the die stores, main memory, other packages. -/
def MemorySame (s t : State) : Prop :=
  ∀ a, (∀ c, (t.coreAt c).near.byte a = (s.coreAt c).near.byte a) ∧ t.dieStore.byte a = s.dieStore.byte a ∧
    t.main.byte a = s.main.byte a ∧ t.remote.byte a = s.remote.byte a

/-- The same but for the near bytes of the core in focus that `out` names. -/
def MemorySameBut (out : Nat → Prop) (s t : State) : Prop :=
  ∀ a, (∀ c, ¬(c = s.here ∧ out a) → (t.coreAt c).near.byte a = (s.coreAt c).near.byte a) ∧
    t.dieStore.byte a = s.dieStore.byte a ∧ t.main.byte a = s.main.byte a ∧ t.remote.byte a = s.remote.byte a

/-- A result or an access without the record of what landed within its window. -/
def Result.unraced (r : Result) : Result := { r with raced := [] }
def Acc.unraced (a : Acc) : Acc := { a with raced := [] }

/-- Of the counters and records of observation only those of R385 (a word issued) and R387 (near beats) may differ. -/
def ObsSame (s t : State) : Prop :=
  { t.core.obs with issued := s.core.obs.issued, wdogCnt := s.core.obs.wdogCnt, beats := s.core.obs.beats } = s.core.obs

/-- Of the core in focus only the sequencer, the results and accesses under way and the counters of observation may differ:
every vector, matrix and shape register, the near store, the engines, the planes and the share stay. -/
def CoreSame (s t : State) : Prop :=
  { t.core with seq := s.core.seq, x := s.core.x, obs := s.core.obs } = s.core ∧ ObsSame s t

/-- The same, but for the near store. -/
def CoreSameButNear (s t : State) : Prop :=
  { t.core with seq := s.core.seq, x := s.core.x, obs := s.core.obs, near := s.core.near } = s.core ∧ ObsSame s t

/-- Of the exchange engine's state only the results and accesses under way may differ. -/
def EngineSame (s t : State) : Prop :=
  { t.core.x with flight := s.core.x.flight, accs := s.core.x.accs, nid := s.core.x.nid } = s.core.x

/-- No access is added, ended or changed. -/
def AccsSame (s t : State) : Prop :=
  t.core.x.nid = s.core.x.nid ∧ t.core.x.accs.map Acc.unraced = s.core.x.accs.map Acc.unraced

/-- No result is added, and none lands. -/
def FlightSame (s t : State) : Prop := t.core.x.flight.map Result.unraced = s.core.x.flight.map Result.unraced

/-- Of the sequencer only the bank of the present state, PC, the cycles to the next boundary and the wait half may differ:
every exception register, mode bit, system register, barrier slot and recorded trap stays. -/
def SeqSame (s t : State) : Prop :=
  { t.core.seq with thr := s.core.seq.thr, svr := s.core.seq.svr, pc := s.core.seq.pc, wait := s.core.seq.wait,
                    half := s.core.seq.half, pipe := s.core.seq.pipe } = s.core.seq ∧
    t.core.seq.bankOf (!s.core.seq.sup) = s.core.seq.bankOf (!s.core.seq.sup)

/-- The same, but for the replay window's own record and RPL (R314, R315). -/
def SeqSameButReplay (s t : State) : Prop :=
  { t.core.seq with thr := s.core.seq.thr, svr := s.core.seq.svr, pc := s.core.seq.pc, wait := s.core.seq.wait,
                    half := s.core.seq.half, pipe := s.core.seq.pipe, win := s.core.seq.win, rpl := s.core.seq.rpl } = s.core.seq ∧
    t.core.seq.bankOf (!s.core.seq.sup) = s.core.seq.bankOf (!s.core.seq.sup)

/-- Of the bank in use only the scalars may differ. -/
def BankSame (s t : State) : Prop := { t.core.seq.bank with s := s.core.seq.bank.s } = s.core.seq.bank

/-- Nothing of the core differs but where the sequencer stands and the counters of observation. -/
def OnlyMoved (s t : State) : Prop :=
  OutsideSame s t ∧ MemorySame s t ∧ { t.core with seq := s.core.seq, obs := s.core.obs } = s.core ∧ ObsSame s t ∧
    { t.core.seq with pc := s.core.seq.pc, wait := s.core.seq.wait, half := s.core.seq.half, pipe := s.core.seq.pipe } = s.core.seq

/-- No partition's trace ring records (R389, R391). -/
def NoRings (s : State) : Prop := ∀ p x, s.part? p = some x → x.tren = false

/-- Outside the core in focus only the records that trace rings are to write may differ. Where no ring records, nothing
differs. -/
def TraceOnly (s t : State) : Prop :=
  { t with core := s.core, free := s.free, dies := s.dies } = s ∧
    (∀ d : Fin 4, { t.dies[d] with rings := s.dies[d].rings } = s.dies[d]) ∧ (NoRings s → OutsideSame s t)

/-- Of the counters and records of observation only the core's blotter may differ (R383, R390). -/
def BlotOnly (s t : State) : Prop :=
  { t.core.obs with blot := s.core.obs.blot, wptr := s.core.obs.wptr, blast := s.core.obs.blast, bmark := s.core.obs.bmark,
                    bsince := s.core.obs.bsince } = s.core.obs

/-- The same, and the record that a word issued (R385, R387). -/
def ObsNoted (s t : State) : Prop :=
  { t.core.obs with blot := s.core.obs.blot, wptr := s.core.obs.wptr, blast := s.core.obs.blast, bmark := s.core.obs.bmark,
                    bsince := s.core.obs.bsince, issued := s.core.obs.issued, wdogCnt := s.core.obs.wdogCnt,
                    beats := s.core.obs.beats } = s.core.obs

/-- A word or event that writes a trace record: outside the core the rings alone, of the core in focus `core` and the
blotter. -/
def Notes (s t : State) (core : Core → Core) : Prop :=
  TraceOnly s t ∧ BlotOnly s t ∧ MemorySame s t ∧ core { t.core with obs := s.core.obs } = core s.core

/-- The numbers of the cores listed rise, and the one in focus is not among them. -/
def KeysOk (s : State) : Prop := (s.others.map Prod.fst).Pairwise (· < ·) ∧ ∀ e ∈ s.others, e.1 ≠ s.here

/-! ### Sequencer words -/

/-- No active loop ends at the word at PC (R185). -/
def NoLoopEnds (s : State) : Prop :=
  ∀ k : Fin 4, s.core.seq.bank.lc[k] ≠ 0 → s.core.seq.bank.lend[k] ≠ s.core.seq.pc

/-- A sequencer word has its effect: its guard holds, and no check beside it fails (R175, R368). -/
def Acts (h : Head) (s : State) : Prop := guardHolds s.core.seq.bank h.guard = true ∧ s.core.seq.pipe = false

/-- A sequencer word runs and falls through: it has its effect, and no active loop ends at it (R185). -/
def Runs (h : Head) (s : State) : Prop := Acts h s ∧ NoLoopEnds s

/-- None of the registers, given by class and index, holds a word marked poisoned (R366, R367). -/
def RegsClean (s : State) (rs : List (Nat × Nat)) : Prop := ∀ b ∈ s.core.badReg, (b.1, b.2.1) ∉ rs

/-- Scalars of the present state's bank: class 6 in supervisor state, 5 outside; s0 is none. -/
def scalars (s : State) (l : List (BitVec 5)) : List (Nat × Nat) :=
  (l.filter (fun i => i ≠ 0)).map (fun i => (if s.core.seq.sup = true then 6 else 5, i.toNat))

/-- A sequencer word that reads scalars runs and falls through, none of them poisoned. -/
def RunsOn (h : Head) (l : List (BitVec 5)) (s : State) : Prop := Runs h s ∧ RegsClean s (scalars s l)

/-- The next word is the one at PC + 1, `n` cycles on (R174). -/
def WentOn (s t : State) (n : Nat) : Prop :=
  t.core.seq.pc = s.core.seq.pc + 1 ∧ t.core.seq.wait = n ∧ t.core.seq.half = false

/-- The next word is the one at an index. -/
def WentTo (t : State) (pc : BitVec 14) (n : Nat) : Prop :=
  t.core.seq.pc = pc ∧ t.core.seq.wait = n ∧ t.core.seq.half = false

/-- Which register words stay marked poisoned: those that were, but for the ones now written whole (R367). -/
def MarksLeft (s t : State) (written : Nat × Nat × Nat → Prop) : Prop :=
  ∀ b, b ∈ t.core.badReg ↔ b ∈ s.core.badReg ∧ ¬written b

/-- `CoreSame` but for the marks of poisoned register words. -/
def CoreSameButMarks (s t : State) : Prop :=
  { t.core with seq := s.core.seq, x := s.core.x, obs := s.core.obs, badReg := s.core.badReg } = s.core ∧ ObsSame s t

/-- What a scalar word of the sequencer leaves unchanged. -/
def ScalarFrame (s t : State) : Prop :=
  OutsideSame s t ∧ MemorySame s t ∧ CoreSameButMarks s t ∧ SeqSame s t ∧ BankSame s t ∧ EngineSame s t ∧ AccsSame s t

/-- A result in flight of the word at PC. -/
def seqResult (s : State) (n : Nat) (l : Land) : Result :=
  { strm := .seq, ord := 0, widx := s.core.seq.pc, due := n, exact := false, raced := [], flags := 0, land := l }

/-- `s[d]` receives `v` within bound `n` (R45): from the next cycle where the bound is 1, else as a result in flight that the
present bank of scalars takes when it lands. Register 0 discards what it is given (R31). -/
def ScalarResult (s t : State) (d : BitVec 5) (n : Nat) (v : Word) : Prop :=
  (∀ i, t.core.seq.bank.get i = if n = 1 ∧ i = d ∧ i ≠ 0 then v else s.core.seq.bank.get i) ∧
    MarksLeft s t (fun b => n = 1 ∧ b.1 = (if s.core.seq.sup = true then 6 else 5) ∧ b.2.1 = d.toNat) ∧
    (if n = 1 then FlightSame s t
     else t.core.x.flight = s.core.x.flight ++ [seqResult s n (.sreg s.core.seq.sup d v)])

/-- A scalar word's result and all it leaves alone. -/
def GivesScalar (s t : State) (h : Head) (d : BitVec 5) (n : Nat) (v : Word) : Prop :=
  WentOn s t (1 + h.gap.toNat) ∧ ScalarResult s t d n v ∧ ScalarFrame s t

/-- A predicate of the bank in use takes a value from the next cycle; nothing else of the state changes. -/
def GivesPred (s t : State) (h : Head) (d : BitVec 3) (v : Bool) : Prop :=
  WentOn s t (1 + h.gap.toNat) ∧ (∀ i, t.core.seq.bank.pred i = if i = d then v else s.core.seq.bank.pred i) ∧
    { t.core.seq.bank with p := s.core.seq.bank.p } = s.core.seq.bank ∧ OutsideSame s t ∧ MemorySame s t ∧
    CoreSame s t ∧ t.core.x = s.core.x ∧ SeqSame s t

/-- The condition codes of R161. -/
def condSpec (c : BitVec 3) (a b : Word) : Prop :=
  if c = 0 then a = b
  else if c = 1 then a ≠ b
  else if c = 2 then a.toInt < b.toInt
  else if c = 3 then b.toInt ≤ a.toInt
  else if c = 4 then a.toNat < b.toNat
  else b.toNat ≤ a.toNat

/-- The word's trap is recorded and the core begins to drain; nothing is performed (R176, R311). -/
def Recorded (s t : State) (r : TrapRec) : Prop :=
  OutsideSame s t ∧ MemorySame s t ∧ { t.core with seq := s.core.seq, obs := s.core.obs } = s.core ∧ ObsSame s t ∧
    t.core.seq = { s.core.seq with traps := s.core.seq.traps ++ [r], draining := true, pipe := false }

/-- The record of a trap of the word at PC. -/
def seqRec (s : State) (cause : BitVec 8) (addr : Word) (after : Bool) : TrapRec :=
  { cause := cause, sub := 0, eng := .seq, secno := 0, widx := s.core.seq.pc, addr := addr,
    resume := some (if after then s.core.seq.pc + 1 else s.core.seq.pc), sup := s.core.seq.sup }

/-! ### Scalar words -/

/-- The register-register group: code, bound and f(a, b) of the table of R177. -/
def srTable : List ((Head → SR → Instr) × Nat × (Word → Word → Word)) :=
  [(Instr.add, 1, fun a b => BitVec.ofNat 64 (a.toNat + b.toNat)),
   (Instr.sub, 1, fun a b => BitVec.ofInt 64 ((a.toNat : Int) - b.toNat)),
   (Instr.andS, 1, fun a b => a &&& b), (Instr.orS, 1, fun a b => a ||| b), (Instr.xorS, 1, fun a b => a ^^^ b),
   (Instr.shl, 1, fun a b => BitVec.ofNat 64 (a.toNat * 2 ^ (b.toNat % 64))),
   (Instr.shr, 1, fun a b => BitVec.ofNat 64 (a.toNat / 2 ^ (b.toNat % 64))),
   (Instr.sar, 1, fun a b => BitVec.ofInt 64 (a.toInt / 2 ^ (b.toNat % 64))),
   (Instr.mul, 3, fun a b => BitVec.ofNat 64 (a.toNat * b.toNat)),
   (Instr.mulhu, 3, fun a b => BitVec.ofNat 64 (a.toNat * b.toNat / 2 ^ 64)),
   (Instr.mulh, 3, fun a b => BitVec.ofInt 64 (a.toInt * b.toInt / 2 ^ 64)),
   (Instr.minS, 1, fun a b => if a.toInt ≤ b.toInt then a else b),
   (Instr.maxS, 1, fun a b => if a.toInt ≤ b.toInt then b else a),
   (Instr.minu, 1, fun a b => if a.toNat ≤ b.toNat then a else b),
   (Instr.maxu, 1, fun a b => if a.toNat ≤ b.toNat then b else a)]

/-- The immediate group (R178): f with b = IMM. -/
def siTable : List ((Head → SI → Instr) × Nat × (Word → Word → Word)) :=
  [(Instr.addi, 1, fun a b => BitVec.ofNat 64 (a.toNat + b.toNat)), (Instr.li, 1, fun _ b => b),
   (Instr.andi, 1, fun a b => a &&& b), (Instr.ori, 1, fun a b => a ||| b), (Instr.xori, 1, fun a b => a ^^^ b),
   (Instr.shli, 1, fun a b => BitVec.ofNat 64 (a.toNat * 2 ^ (b.toNat % 64))),
   (Instr.shri, 1, fun a b => BitVec.ofNat 64 (a.toNat / 2 ^ (b.toNat % 64))),
   (Instr.sari, 1, fun a b => BitVec.ofInt 64 (a.toInt / 2 ^ (b.toNat % 64))),
   (Instr.muli, 3, fun a b => BitVec.ofNat 64 (a.toNat * b.toNat))]

/-- The logic of R181. -/
def plTable : List ((Head → PL → Instr) × (Bool → Bool → Bool)) :=
  [(Instr.pand, fun a b => a && b), (Instr.por, fun a b => a || b), (Instr.pxor, fun a b => a != b), (Instr.pnot, fun a _ => !a)]


/-! ### The words of the control stream -/

/-- GAP and guard of a control-stream word. -/
def headOf : Instr → Option Head
  | .add h _ => some h
  | .sub h _ => some h
  | .andS h _ => some h
  | .orS h _ => some h
  | .xorS h _ => some h
  | .shl h _ => some h
  | .shr h _ => some h
  | .sar h _ => some h
  | .mul h _ => some h
  | .mulhu h _ => some h
  | .mulh h _ => some h
  | .minS h _ => some h
  | .maxS h _ => some h
  | .minu h _ => some h
  | .maxu h _ => some h
  | .addi h _ => some h
  | .li h _ => some h
  | .andi h _ => some h
  | .ori h _ => some h
  | .xori h _ => some h
  | .shli h _ => some h
  | .shri h _ => some h
  | .sari h _ => some h
  | .muli h _ => some h
  | .cmp h _ => some h
  | .cmpi h _ => some h
  | .pand h _ => some h
  | .por h _ => some h
  | .pxor h _ => some h
  | .pnot h _ => some h
  | .br h _ => some h
  | .call h _ => some h
  | .ret h => some h
  | .loopReg h _ => some h
  | .loopi h _ => some h
  | .disp h _ => some h
  | .waitWord h _ => some h
  | .nextTile h => some h
  | .endShareWord h => some h
  | .palign h _ => some h
  | .rdtick h _ => some h
  | .rdscyc h _ => some h
  | .rdlbt h _ => some h
  | .ld h _ => some h
  | .st h _ => some h
  | .shld h _ => some h
  | .shset h _ => some h
  | .shget h _ => some h
  | .barInit h _ => some h
  | .barArr h _ => some h
  | .barWait h _ => some h
  | .barSync h _ => some h
  | .barRed h _ => some h
  | .trapWord h _ => some h
  | .brk h => some h
  | .rdsys h _ => some h
  | .wrsys h _ => some h
  | .sret h => some h
  | .sretFault h => some h
  | .lres h => some h
  | .labn h => some h
  | .drain h => some h
  | .pswap h => some h
  | .tlbiVa h _ => some h
  | .tlbiAsid h _ => some h
  | .tlbiAll h => some h
  | .errrd h _ => some h
  | .errclr h _ => some h
  | .parkrd h _ => some h
  | .barKill h _ => some h
  | .fence .seq h _ => some h
  | .nop .seq h => some h
  | _ => none

/-- Words that only the supervisor may issue (R321), and the DISP of a supervisor section (R303). -/
def privWord : Instr → Bool
  | .rdsys _ _ => true
  | .wrsys _ _ => true
  | .sret _ => true
  | .sretFault _ => true
  | .lres _ => true
  | .labn _ => true
  | .drain _ => true
  | .pswap _ => true
  | .tlbiVa _ _ => true
  | .tlbiAsid _ _ => true
  | .tlbiAll _ => true
  | .errrd _ _ => true
  | .errclr _ _ => true
  | .parkrd _ _ => true
  | .barKill _ _ => true
  | .disp _ f => decide (0xF00 ≤ f.secno.toNat)
  | _ => false

/-- Words that R185 excludes from the end of an iteration, whatever their guard. -/
def exclWord : Instr → Bool
  | .nextTile _ => true
  | .endShareWord _ => true
  | .trapWord _ _ => true
  | .brk _ => true
  | .loopReg _ _ => true
  | .loopi _ _ => true
  | .sret _ => true
  | .sretFault _ => true
  | .lres _ => true
  | .labn _ => true
  | .pswap _ => true
  | _ => false

/-- The idle a word spends whether or not its guard holds (R188). -/
def idleOf : Instr → Nat
  | .waitWord _ f => f.cnt.toNat
  | _ => 0

/-- The scalars a word reads once its guard holds; a `bar.red` resumed in its wait half reads none (R313). -/
def scalarReads (half : Bool) : Instr → List (BitVec 5)
  | .add _ f => [f.sa, f.sb]
  | .sub _ f => [f.sa, f.sb]
  | .andS _ f => [f.sa, f.sb]
  | .orS _ f => [f.sa, f.sb]
  | .xorS _ f => [f.sa, f.sb]
  | .shl _ f => [f.sa, f.sb]
  | .shr _ f => [f.sa, f.sb]
  | .sar _ f => [f.sa, f.sb]
  | .mul _ f => [f.sa, f.sb]
  | .mulhu _ f => [f.sa, f.sb]
  | .mulh _ f => [f.sa, f.sb]
  | .minS _ f => [f.sa, f.sb]
  | .maxS _ f => [f.sa, f.sb]
  | .minu _ f => [f.sa, f.sb]
  | .maxu _ f => [f.sa, f.sb]
  | .addi _ f => [f.sa]
  | .andi _ f => [f.sa]
  | .ori _ f => [f.sa]
  | .xori _ f => [f.sa]
  | .shli _ f => [f.sa]
  | .shri _ f => [f.sa]
  | .sari _ f => [f.sa]
  | .muli _ f => [f.sa]
  | .cmp _ f => [f.sa, f.sb]
  | .cmpi _ f => [f.sa]
  | .loopReg _ f => [f.sa]
  | .disp _ f => [f.ka, f.kb, f.kc, f.kd]
  | .palign _ f => [f.reg]
  | .ld _ f => [f.base]
  | .st _ f => [f.base, f.reg]
  | .shld _ f => [f.base]
  | .shset _ f => [f.reg]
  | .barInit _ f => [f.sa]
  | .barRed _ f => if half then [] else [f.sa]
  | .wrsys _ f => [f.reg]
  | .tlbiVa _ f => [f.reg]
  | .tlbiAsid _ f => [f.reg]
  | .errrd _ f => [f.sysreg.extractLsb' 7 5]
  | .errclr _ f => [f.reg]
  | .parkrd _ f => [f.sysreg.extractLsb' 7 5]
  | .barKill _ f => [f.reg]
  | _ => []

/-- The poisonable register a system register number names (R305). -/
def sysClean (s : State) (n : Nat) : Prop :=
  (0x040 ≤ n → n < 0x060 → RegsClean s [(5, n - 0x040)]) ∧ (0x400 ≤ n → RegsClean s [(2, (n - 0x400) / 8)])

/-- Reserved bits of a shape register (R167). -/
def shapeHole (b : Nat) : Prop := 166 ≤ b ∨ b ∈ [31, 60, 61, 62, 63, 125, 126, 127, 151, 157, 158, 159]

/-- A loop word whose last word stands at or before its own index raises ILLOP at decode (R186). -/
def badLoop (pc : BitVec 14) : Instr → Bool
  | .loopReg _ f => decide (f.last.toNat ≤ pc.toNat)
  | .loopi _ f => decide (f.last.toNat ≤ pc.toNat)
  | _ => false

/-- Loop `j` is the innermost active loop that ends at PC: among those, its body starts last (R185). -/
def LoopEndsHere (s : State) (j : Fin 4) : Prop :=
  let b := s.core.seq.bank
  b.lc[j] ≠ 0 ∧ b.lend[j] = s.core.seq.pc ∧ ∀ k : Fin 4, k ≠ j → b.lc[k] ≠ 0 → b.lend[k] = s.core.seq.pc → b.lstart[k] < b.lstart[j]

/-- Only PC, the bank in use and the counters of observation may differ. -/
def ControlFrame (s t : State) : Prop :=
  OutsideSame s t ∧ MemorySame s t ∧ CoreSame s t ∧ SeqSame s t ∧ t.core.x = s.core.x

/-- No trap is recorded. -/
def NoTraps (s : State) : Prop := s.core.seq.traps = []

/-- Of the records that are taken, the one taken next (R310): POISON and PIPE before the others, then the control stream's, M's,
V's and X's; `pre` and `post` are those recorded before and after it. -/
def TakenNext (l : List TrapRec) (taken : TrapRec → Prop) (r : TrapRec) (pre post : List TrapRec) : Prop :=
  let place := fun (x : TrapRec) => (if x.cause = 0x19 ∨ x.cause = 0x1A then 0 else 4) + streamCode x.eng
  l = pre ++ r :: post ∧ taken r ∧ (∀ x ∈ pre, taken x → place r < place x) ∧ ∀ x ∈ post, taken x → place r ≤ place x

/-- The debug port may stop cores, so that a core stops before it enters a trap (R380, R414). -/
def DebugStops (s : State) : Prop := s.nib.debugOpen = true ∧ s.nib.scope.getLsbD 0 = true

/-- TINFO as R307 lays it out. -/
def TinfoIs (w : Word) (cause sub : BitVec 8) (eng : Nat) (forced more : Bool) (secno : BitVec 12) (widx : BitVec 14) : Prop :=
  (fieldAt w 56 8 : BitVec 8) = cause ∧ (fieldAt w 48 8 : BitVec 8) = sub ∧ (fieldAt w 46 2 : BitVec 2).toNat = eng ∧
    w.getLsbD 45 = forced ∧ w.getLsbD 44 = more ∧ (fieldAt w 32 12 : BitVec 12) = secno ∧
    (fieldAt w 18 14 : BitVec 14) = widx ∧ (fieldAt w 0 18 : BitVec 18) = 0

/-- Trap entry (R311) on the core: TPC, TADDR, PS := S, S := 1, PC := SBASE; every thread entry still queued is held; both
banks, the vector, matrix and exchange state and the share stay. -/
def EntersCore (s t : State) (tpc : BitVec 14) (addr : Word) : Prop :=
  t.core.seq.tpc = tpc ∧ t.core.seq.taddr = addr ∧ t.core.seq.ps = s.core.seq.sup ∧ t.core.seq.sup = true ∧
    t.core.seq.pc = s.core.seq.sbase ∧ t.core.seq.rpl = false ∧ t.core.seq.thr = s.core.seq.thr ∧ t.core.seq.svr = s.core.seq.svr ∧
    t.core.seq.scyc = s.core.seq.scyc ∧ t.core.vec = s.core.vec ∧ t.core.mat = s.core.mat ∧ t.core.x = s.core.x ∧
    t.core.share = s.core.share ∧
    ∀ e ∈ engines, (t.core.eng e).queue = (s.core.eng e).queue.map (fun q => { q with held := q.held || !q.sup })

/-- The same, and every memory stays. -/
def Enters (s t : State) (tpc : BitVec 14) (addr : Word) : Prop :=
  EntersCore s t tpc addr ∧ TraceOnly s t ∧ MemorySame s t

/-- The share ends with FAULT (R58, R304): no word issues any more, every queue is discarded, and the rest of the core stays. -/
def EndsFault (s t : State) : Prop :=
  t.core.share = { s.core.share with phase := .ending, fault := true, stop := false } ∧ t.core.seq.ended = true ∧
    t.core.seq.sup = false ∧ (∀ e ∈ engines, t.core.eng e = { s.core.eng e with queue := [] }) ∧
    t.core.seq.thr = s.core.seq.thr ∧ t.core.seq.svr = s.core.seq.svr ∧ t.core.vec = s.core.vec ∧ t.core.mat = s.core.mat ∧
    t.core.x = s.core.x ∧ t.core.near = s.core.near

/-- The control stream stops for a trap or a pre-emption: of a word frozen in PALIGN or a barrier wait the wait
half remains (R313), and nothing else changes but the trace. -/
def Thaws (t : State) (q : Seq) : Prop :=
  t.core.seq = { q with half := q.half || q.frz.bar.isSome, frz := { q.frz with align := none, bar := none, start := false, ticks := 0 } }

/-- The word at PC raises a trap. With results or sections under way, or a debug stop to come first, it is recorded and the
core drains. A drained core with no other trap recorded enters the supervisor, MORE naming a pre-emption that waits; in
supervisor state, or with none, its share ends with FAULT (R176, R304, R310, R311). -/
def SeqTraps (s t : State) (cause : BitVec 8) (addr : Word) (after : Bool) : Prop :=
  (s.core.quiet = false ∨ DebugStops s → Recorded s t (seqRec s cause addr after)) ∧
    (s.core.quiet = true → ¬DebugStops s → NoTraps s →
      (s.core.seq.sup = false → s.core.seq.sen = true →
        Enters s t (if after then s.core.seq.pc + 1 else s.core.seq.pc) addr ∧
          TinfoIs t.core.seq.tinfo cause 0 0 false s.core.seq.req 0 s.core.seq.pc) ∧
      (s.core.seq.sup = true ∨ s.core.seq.sen = false → s.core.seq.late = none → EndsFault s t))

/-- The word at PC raises POISON or PIPE (R367, R368): it is recorded and the core drains, at a replayable window of a thread
to replay it (R316); a drained core enters the supervisor otherwise. -/
def SeqErrs (s t : State) (cause : BitVec 8) (addr : Word) : Prop :=
  let cured := s.core.seq.rpl = true ∧ s.core.seq.count.toNat < 3 ∧ s.core.seq.ckpt ≠ none ∧ s.core.seq.sup = false
  (s.core.quiet = false ∨ cured ∨ DebugStops s → (∀ r ∈ s.core.seq.traps, r.eng ≠ .seq) →
      Recorded s t (seqRec s cause addr false)) ∧
    (s.core.quiet = true → ¬cured → ¬DebugStops s → NoTraps s → s.core.seq.sup = false → s.core.seq.sen = true →
      t.core.seq.tpc = s.core.seq.pc ∧ t.core.seq.taddr = addr ∧ t.core.seq.sup = true ∧ t.core.seq.ps = false ∧
        t.core.seq.pc = s.core.seq.sbase ∧ TinfoIs t.core.seq.tinfo cause 0 0 false s.core.seq.req 0 s.core.seq.pc ∧
        t.core.seq.thr = s.core.seq.thr ∧ t.core.vec = s.core.vec ∧ t.core.mat = s.core.mat ∧ t.core.x = s.core.x ∧
        t.core.near = s.core.near)

/-- It reads a poisoned word. -/
def SeqPoisons (s t : State) (addr : Word) : Prop := SeqErrs s t 0x19 addr

/-! ### Near and die memory -/

/-- The little-endian number of near bytes. -/
def nearNum (s : State) (a n : Nat) : Nat := natOfBytes ((List.range n).map (fun i => s.core.near.byte (a + i)))

/-- A near load's result: where nothing is on its way to the near store, the number its bytes hold. -/
def NearLoaded (s : State) (a n v : Nat) : Prop := s.core.nearNews = [] → v = nearNum s a n

/-- Bytes `a` to `a + n − 1` of the near store hold a number, little-endian, and no other byte of any memory changes. -/
def NearStored (s t : State) (a n v : Nat) : Prop :=
  (∀ i < n, t.core.near.byte (a + i) = BitVec.ofNat 8 (v / 256 ^ i)) ∧ MemorySameBut (fun b => a ≤ b ∧ b < a + n) s t

/-- One access is added: of stream `e`, with its class, its scope as acquire and release, its arrival cycle, the bound within
which it performs where nothing holds it (R172), and its bytes, main memory's among them also by physical address. -/
def AccAdded (s t : State) (e : Stream) (cls : BitVec 4) (acq rel : Nat) (due by_ : Option Nat) (foot : List Foot)
    (kind : AccKind → Prop) : Prop :=
  t.core.x.nid = s.core.x.nid + 1 ∧ t.core.x.flight = s.core.x.flight ∧
    ∃ a : Acc, t.core.x.accs = s.core.x.accs ++ [a] ∧ a.id = s.core.x.nid ∧ a.strm = e ∧ a.cls = cls ∧ a.acq = acq ∧
      a.rel = rel ∧ a.due = due ∧ a.by_ = by_ ∧ a.foot = foot ++ s.physFeet foot ∧ kind a.kind

/-- What a word of the control stream that adds an access leaves unchanged. -/
def AccFrame (s t : State) : Prop :=
  OutsideSame s t ∧ MemorySame s t ∧ CoreSame s t ∧ SeqSameButReplay s t ∧ t.core.seq.bank = s.core.seq.bank ∧ EngineSame s t

/-- The address of a load or store word (R193). -/
def smAddr (s : State) (f : SM) : Nat := ((s.reg 0 f.base).toNat + (f.off.signExtend 64).toNat) % 2 ^ 64

/-- A result in flight and all a word that gives it leaves alone. -/
def GivesSeq (s t : State) (h : Head) (n : Nat) (l : Land) : Prop :=
  WentOn s t (1 + h.gap.toNat) ∧ t.core.x.flight = s.core.x.flight ++ [seqResult s n l] ∧ OutsideSame s t ∧ MemorySame s t ∧
    CoreSame s t ∧ SeqSameButReplay s t ∧ t.core.seq.bank = s.core.seq.bank ∧ EngineSame s t ∧ t.core.x.accs = s.core.x.accs ∧
    t.core.x.nid = s.core.x.nid

/-! ### Barriers and alignment -/

/-- A barrier slot's new content; of the core nothing else differs but where the sequencer stands. -/
def SlotFrame (s t : State) : Prop :=
  OutsideSame s t ∧ MemorySame s t ∧ { t.core with seq := s.core.seq, x := s.core.x, obs := s.core.obs } = s.core ∧
    t.core.seq.thr = s.core.seq.thr ∧ t.core.seq.svr = s.core.seq.svr ∧ t.core.seq.sup = s.core.seq.sup ∧
    t.core.seq.traps = s.core.seq.traps ∧ t.core.seq.scyc = s.core.seq.scyc

/-! ### Supervisor words -/

/-- System registers with what a read returns (R305): single registers. -/
def sysRegs : List (Nat × (State → Word)) :=
  [(0x001, fun s => s.core.seq.tinfo), (0x002, fun s => s.core.seq.taddr), (0x003, fun s => s.core.seq.tpc.setWidth 64),
   (0x004, fun s => s.core.seq.sbase.setWidth 64), (0x005, fun s => s.core.seq.frzlim),
   (0x007, fun s => s.core.seq.prelim.setWidth 64), (0x009, fun s => s.core.seq.tlate.setWidth 64),
   (0x00A, fun s => s.core.seq.asid.setWidth 64), (0x00B, fun s => s.core.seq.ctx.setWidth 64),
   (0x060, fun s => s.core.seq.thr.p.setWidth 64), (0x061, fun s => s.core.vec.rb.setWidth 64),
   (0x062, fun s => s.core.seq.thr.depth.setWidth 64), (0x063, fun s => s.core.seq.scyc),
   (0x064, fun s => s.core.vec.flg.setWidth 64), (0x065, fun s => s.core.mat.flg[0]), (0x066, fun s => s.core.mat.flg[1])]

/-- Registers that a write sets from the bits of a mask; the other bits are reserved (R305, R306, R322). -/
def sysMasks : List (Nat × Word) :=
  [(0x002, 0xFFFFFFFFFFFFFFFF), (0x003, 0x3FFF), (0x004, 0x3FFF), (0x006, 3), (0x007, 0xFFFFFFFF), (0x00A, 0xFFFF), (0x060, 0xFF),
   (0x061, 0x1C), (0x062, 0x1F), (0x063, 0xFFFFFFFFFFFFFFFF), (0x064, 0x3F), (0x065, 0xF), (0x066, 0xF),
   (0x068, 0xFFFFFFFF), (0x069, 0xFFFFFFFF), (0x06A, 0xFFFFFFFF), (0x06B, 0xFFFFFFFF), (0x06C, 0x3FFF3FFF), (0x06D, 0x3FFF3FFF),
   (0x06E, 0x3FFF3FFF), (0x06F, 0x3FFF3FFF)] ++ (List.range 16).map (fun i => (0x070 + i, 0x3FFF))

/-! ### Engine words -/

/-- A word of an engine has its effect: no check beside it fails (R368), and no register it reads is poisoned. -/
def EngActs (s : State) (e : Stream) (rs : List (Nat × Nat)) : Prop := (s.core.eng e).pipe = false ∧ RegsClean s rs

/-- An engine's section goes on to its next word, `1 + GAP` cycles on (R43). -/
def EngWent (s t : State) (e : Stream) (g : BitVec 5) : Prop :=
  t.core.eng e = { s.core.eng e with
    pipe := false, run := (s.core.eng e).run.map (fun (r : Running) => { r with next := r.next + 1, wait := 1 + g.toNat }) }

/-- Only the replay window's own record and RPL may differ in the sequencer (R314, R315). -/
def SeqKept (s t : State) : Prop := { t.core.seq with win := s.core.seq.win, rpl := s.core.seq.rpl } = s.core.seq

/-- A result in flight of the present word of an engine. -/
def engResult (s : State) (e : Stream) (n : Nat) (fl : BitVec 32) (l : Land) : Result :=
  { strm := e, ord := (s.core.eng e).retired, widx := BitVec.ofNat 14 (s.sect e).next, due := n, exact := false, raced := [],
    flags := fl, land := l }

/-- Outside vector engine, results, inflow and replay record nothing differs. -/
def VectorFrame (s t : State) : Prop :=
  OutsideSame s t ∧ MemorySame s t ∧ ObsSame s t ∧ SeqKept s t ∧
    { t.core with seq := s.core.seq, x := s.core.x, obs := s.core.obs, ev := s.core.ev } = s.core

/-- A vector word ends: its result is in flight within its bound, the head of the inflow queue is gone where it was read, and
nothing else changes. -/
def GivesV (s t : State) (g : BitVec 5) (vin : Bool) (n : Nat) (fl : BitVec 6) (l : Land) : Prop :=
  EngWent s t .v g ∧ VectorFrame s t ∧
    t.core.x = { s.core.x with flight := s.core.x.flight ++ [engResult s .v n (fl.setWidth 32) l],
                               inflow := if vin then s.core.x.inflow.drop 1 else s.core.x.inflow }

/-- Where a word reads `vin`, the inflow queue has a head that is not poisoned (R207, R367). -/
def VinReady (s : State) (vin : Bool) : Prop :=
  vin = true → ∃ p r, s.core.x.inflow = p :: r ∧ p.data.poisoned 0 512 = false

/-- A landing that writes a tile of `n` elements of `w` bits to one vector register: element `e` becomes `r e` where the
mask picks it, keeps its value where it does not, and is 0 beyond the tile (R208). -/
def TileGives (s : State) (l : Land) (dst : BitVec 7) (w n : Nat) (me : Bool) (m : BitVec 256) (r : Nat → Nat) : Prop :=
  ∃ x : VWrite, l = .vec [x] ∧ x.reg.toNat = s.phys (s.supOf .v) dst.toNat ∧ x.w = w ∧
    ∀ (old : BitVec 4096) (e : Nat), e < 4096 / w →
      elemAt w e (blend old x.mask x.val) = if n ≤ e then 0 else if picked me m e then r e % 2 ^ w else elemAt w e old

/-- The flags of a tile result are those its picked elements raise. -/
def FlagsAre (fl : BitVec 6) (n : Nat) (me : Bool) (m : BitVec 256) (r : Nat → BitVec 6) : Prop :=
  ∀ i, fl.getLsbD i = true ↔ ∃ e < n, picked me m e = true ∧ (r e).getLsbD i = true

/-- The mask a VA word names, as it reads it. -/
def maskOf (s : State) (f : VA) : BitVec 256 := if f.me then s.seeM 11 f.msk else 0

/-- The tile of the shape a VA word names, as it reads it. -/
def shapeOf (s : State) (f : VA) : BitVec 512 := s.seeSh 10 f.sh

/-- Vector registers that codes name, through RB (R31, R207). -/
def vecRegs (s : State) (cs : List (BitVec 7)) : List (Nat × Nat) :=
  (cs.filter (fun c => c.toNat < 64)).map (fun c => (0, s.phys (s.supOf .v) c.toNat))

/-- The shape and the write mask a VA word reads. -/
def tileRegs (f : VA) : List (Nat × Nat) := (2, f.sh.toNat) :: if f.me then [(1, f.msk.toNat)] else []

/-- A vector word has its effect: its section's check holds, what it reads is not poisoned, its tile is legal, and the entry
it takes from the inflow queue is there. -/
def VActs (s : State) (f : VA) (cs : List (BitVec 7)) (ws : List Nat) : Prop :=
  EngActs s .v (vecRegs s cs ++ tileRegs f) ∧ tileOk (shapeOf s f) ws f.me = true ∧ VinReady s (cs.contains 0x40)

/-- A word of one source: elements of `dw` bits, each `op` of the source's of `w` bits. A parameter stands in every element of
`kw` bits, the width of TY (R158, R206). -/
def Maps1 (i : Instr) (g : BitVec 5) (f : VA) (s : State) (bound kw w dw : Nat) (op : Nat → Nat × BitVec 6) : Prop :=
  let n := tileE (shapeOf s f)
  let vin := f.sa == 0x40
  let a := fun e => elemAt w e (s.vsrc 0 kw f.sa)
  VActs s f [f.sa] [w, dw] → ∃ t fl l, exec i s = .next t ∧ GivesV s t g vin bound fl l ∧
    TileGives s l f.dst dw n f.me (maskOf s f) (fun e => (op (a e)).1) ∧
    FlagsAre fl n f.me (maskOf s f) (fun e => (op (a e)).2)

/-- A word of two sources. -/
def Maps2 (i : Instr) (g : BitVec 5) (f : VA) (s : State) (bound w : Nat) (op : Nat → Nat → Nat × BitVec 6) : Prop :=
  let n := tileE (shapeOf s f)
  let vin := f.sa == 0x40 || f.sb == 0x40
  let r := fun e => op (elemAt w e (s.vsrc 0 w f.sa)) (elemAt w e (s.vsrc 1 w f.sb))
  VActs s f [f.sa, f.sb] [w] → ∃ t fl l, exec i s = .next t ∧ GivesV s t g vin bound fl l ∧
    TileGives s l f.dst w n f.me (maskOf s f) (fun e => (r e).1) ∧ FlagsAre fl n f.me (maskOf s f) (fun e => (r e).2)

/-- A word of three sources. -/
def Maps3 (i : Instr) (g : BitVec 5) (f : VA) (s : State) (bound w : Nat) (op : Nat → Nat → Nat → Nat × BitVec 6) : Prop :=
  let n := tileE (shapeOf s f)
  let vin := f.sa == 0x40 || f.sb == 0x40 || f.sc == 0x40
  let r := fun e => op (elemAt w e (s.vsrc 0 w f.sa)) (elemAt w e (s.vsrc 1 w f.sb)) (elemAt w e (s.vsrc 2 w f.sc))
  VActs s f [f.sa, f.sb, f.sc] [w] → ∃ t fl l, exec i s = .next t ∧ GivesV s t g vin bound fl l ∧
    TileGives s l f.dst w n f.me (maskOf s f) (fun e => (r e).1) ∧ FlagsAre fl n f.me (maskOf s f) (fun e => (r e).2)

/-- A word whose whole result is one register, `w` bits to an element, with no flag. -/
def GivesWhole (s t : State) (g : BitVec 5) (vin : Bool) (n : Nat) (dst : BitVec 7) (v : BitVec 4096) : Prop :=
  ∃ x : VWrite, GivesV s t g vin n 0 (.vec [x]) ∧ x.reg.toNat = s.phys (s.supOf .v) dst.toNat ∧
    x.mask = BitVec.allOnes 4096 ∧ x.val = v

/-- The traps recorded once a word of an engine's section has raised one: a section has one record, that of its lowest word
that traps (R289). -/
def TrapAdded (s t : State) (e : Stream) (cause sub : BitVec 8) (addr : Word) : Prop :=
  let r : TrapRec := { cause := cause, sub := sub, eng := e, secno := s.secnoOf e, widx := s.widxOf e, addr := addr, resume := none,
                       sup := s.supOf e }
  let mine := fun (x : TrapRec) => x.eng = e ∧ x.secno = s.secnoOf e ∧ x.sup = s.supOf e
  ((∀ x ∈ s.core.seq.traps, ¬mine x) → t.core.seq.traps = s.core.seq.traps ++ [r]) ∧
    (∀ x ∈ s.core.seq.traps, ¬mine x ∨ x.widx ≤ r.widx → x ∈ t.core.seq.traps) ∧
    ∀ x ∈ t.core.seq.traps, x = r ∨ x ∈ s.core.seq.traps

/-- An engine word raises a trap: it is recorded, its section stops, and nothing is performed (R116, R289). -/
def EngTrappedSub (s t : State) (e : Stream) (cause sub : BitVec 8) (addr : Word) : Prop :=
  OutsideSame s t ∧ MemorySame s t ∧ ObsSame s t ∧
    { t.core with seq := s.core.seq, obs := s.core.obs, em := s.core.em, ev := s.core.ev, ex := s.core.ex } = s.core ∧
    t.core.eng e = { s.core.eng e with
      pipe := false, run := (s.core.eng e).run.map (fun (r : Running) => { r with stopped := true }) } ∧
    (∀ d ∈ engines, d ≠ e → t.core.eng d = s.core.eng d) ∧
    { t.core.seq with traps := s.core.seq.traps } = s.core.seq ∧ TrapAdded s t e cause sub addr

/-- The same with sub-cause 0. -/
def EngTrapped (s t : State) (e : Stream) (cause : BitVec 8) (addr : Word) : Prop := EngTrappedSub s t e cause 0 addr

/-- A vector word raises POISON or PIPE (R207, R367, R368): the section stops, and the entry the word took from the inflow
queue, if any, is gone. -/
def VectorErrs (s t : State) (vin : Bool) (cause : BitVec 8) (addr : Word) : Prop :=
  OutsideSame s t ∧ MemorySame s t ∧ ObsSame s t ∧
    { t.core with seq := s.core.seq, x := s.core.x, obs := s.core.obs, ev := s.core.ev } = s.core ∧
    t.core.x = { s.core.x with inflow := if vin then s.core.x.inflow.drop 1 else s.core.x.inflow } ∧
    t.core.ev = { s.core.ev with
      pipe := false, run := s.core.ev.run.map (fun (r : Running) => { r with stopped := true }) } ∧
    { t.core.seq with traps := s.core.seq.traps, rpl := s.core.seq.rpl } = s.core.seq ∧ TrapAdded s t .v cause 0 addr

/-- It reads a poisoned word. -/
def VectorPoisoned (s t : State) (vin : Bool) (addr : Word) : Prop := VectorErrs s t vin 0x19 addr

/-! ### Vector words -/

/-- Integer words of two sources (R212): bound 4, the result modulo 2^w of the signed values. -/
def v2Int : List ((BitVec 5 → VA → Instr) × (Nat → Int → Int → Int)) :=
  [(Instr.vadd, fun _ a b => a + b), (Instr.vsub, fun _ a b => a - b), (Instr.vmul, fun _ a b => a * b),
   (Instr.vmin, fun _ a b => if a ≤ b then a else b), (Instr.vmax, fun _ a b => if a ≤ b then b else a),
   (Instr.vadds, fun w a b => max (-(2 ^ (w - 1) : Int)) (min ((2 ^ (w - 1) : Int) - 1) (a + b))),
   (Instr.vsubs, fun w a b => max (-(2 ^ (w - 1) : Int)) (min ((2 ^ (w - 1) : Int) - 1) (a - b))),
   (Instr.vmulh, fun w a b => a * b / 2 ^ w)]

/-- Integer words of three sources (R212). -/
def v3Int : List ((BitVec 5 → VA → Instr) × (Int → Int → Int → Int)) :=
  [(Instr.vfma, fun a b c => a * b + c), (Instr.vfms, fun a b c => a * b - c), (Instr.vfnma, fun a b c => c - a * b)]

/-- Integer words of one source (R212). -/
def v1Int : List ((BitVec 5 → VA → Instr) × (Int → Int)) :=
  [(Instr.vabs, fun a => if a < 0 then -a else a), (Instr.vneg, fun a => -a)]

/-- Float words of two sources with their bounds (R212, R213): exact, then rounded once (R83). -/
def v2Float : List ((BitVec 5 → VA → Instr) × Nat × (FpFmt → RMode → Fp → Fp → Nat × BitVec 6)) :=
  [(Instr.vadd, 4, addFp), (Instr.vsub, 4, fun f r a b => addFp f r a b.opp), (Instr.vmul, 4, mulFp), (Instr.vdiv, 24, divFp)]

/-- Float words of three sources. -/
def v3Float : List ((BitVec 5 → VA → Instr) × (FpFmt → RMode → Fp → Fp → Fp → Nat × BitVec 6)) :=
  [(Instr.vfma, fmaFp), (Instr.vfms, fun f r a b c => fmaFp f r a b c.opp), (Instr.vfnma, fun f r a b c => fmaFp f r a.opp b c)]

/-- Bitwise words of two sources (R214): bound 4. -/
def v2Bits : List ((BitVec 5 → VA → Instr) × (Nat → Nat → Nat → Nat)) :=
  [(Instr.vand, fun _ a b => a &&& b), (Instr.vor, fun _ a b => a ||| b), (Instr.vxor, fun _ a b => a ^^^ b),
   (Instr.vshl, fun w a b => a * 2 ^ (b % w)), (Instr.vshr, fun w a b => a / 2 ^ (b % w)),
   (Instr.vsar, fun w a b => wrapInt w (sgn w a / 2 ^ (b % w))),
   (Instr.vrot, fun w a b => a * 2 ^ (b % w) % 2 ^ w + a / 2 ^ (w - b % w))]

/-- Bitwise words of one source (R214, R215): bound 4. -/
def v1Bits : List ((BitVec 5 → VA → Instr) × (Nat → Nat → Nat)) :=
  [(Instr.vnot, fun w a => 2 ^ w - 1 - a), (Instr.vpopc, fun w a => ((List.range w).filter (fun i => a.testBit i)).length),
   (Instr.vclz, fun w a => if a = 0 then w else w - 1 - a.log2), (Instr.vmov, fun _ a => a)]

/-- The carry-less product of two elements of `w` bits (R215). -/
def carryless (w a b : Nat) : Nat := (List.range w).foldl (fun r i => if b.testBit i then r ^^^ (a * 2 ^ i) else r) 0

/-- The elements that make up result `k` of a reduction along an axis, in index order (R221). -/
def runOf (ax : BitVec 2) (rows cols k : Nat) : List Nat :=
  if ax = 0 then (List.range cols).map (fun c => k * cols + c)
  else if ax = 1 then (List.range rows).map (fun r => r * cols + k)
  else List.range (rows * cols)

/-- Result elements of a reduction along an axis (R221). -/
def runCount (ax : BitVec 2) (rows cols : Nat) : Nat := if ax = 0 then rows else if ax = 1 then cols else 1

/-- Reductions and scans with their operation. -/
def redTable : List ((BitVec 5 → VA → Instr) × ROp) :=
  [(Instr.vredadd, .add), (Instr.vredmin, .min), (Instr.vredmax, .max), (Instr.vredand, .and), (Instr.vredor, .or),
   (Instr.vredxor, .xor)]

def scanTable : List ((BitVec 5 → VA → Instr) × ROp) :=
  [(Instr.vscanadd, .add), (Instr.vscanmin, .min), (Instr.vscanmax, .max), (Instr.vscanxor, .xor)]

/-- The elements a reduction or scan works on: those the mask excludes stand as the identity. -/
def foldIn (s : State) (f : VA) (o : ROp) (e : Nat) : Nat :=
  if picked f.me (maskOf s f) e then elemAt (widthOf f.ty) e (s.vsrc 0 (widthOf f.ty) f.sa) else o.ident f.ty

/-- Composite words (R230). -/
def compTable : List ((BitVec 5 → VA → Instr) × Comp) :=
  [(Instr.frsqrt, .rsqrt), (Instr.frcp, .rcp), (Instr.fsqrt, .sqrt), (Instr.fexp2, .exp2), (Instr.flog2, .log2),
   (Instr.fsigm, .sigm), (Instr.ftanh, .tanh), (Instr.fsilu, .silu)]

/-! ### Vector memory -/

/-- The address of element `e` of the tile a VM word names (R163, R224). -/
def vmAddr (s : State) (f : VM) (e : Nat) : Nat :=
  let sh := s.seeSh 10 f.sh
  let w := widthOf f.ty
  let base : Int := ((if f.bk then s.kpar .v f.ki else 0) + f.off.signExtend 64).toNat
  let r : Int := (e / shCols sh : Nat)
  let c : Int := (e % shCols sh : Nat)
  let rs : Int := if shRowStride sh = 0 then (shCols sh * w / 8 : Nat) else shRowStride sh
  let cs : Int := if shColStride sh = 0 then (w / 8 : Nat) else shColStride sh
  ((base + r * rs + if w = 4 then c / 2 else c * cs) % 2 ^ 64).toNat

/-- The shape and the write mask a VM word reads. -/
def vmRegs (f : VM) : List (Nat × Nat) := (2, f.sh.toNat) :: if f.me then [(1, f.msk.toNat)] else []

/-- A VM word moves element `e`: it lies in the tile and the mask picks it. -/
def vmMoves (s : State) (f : VM) (e : Nat) : Prop :=
  e < tileE (s.seeSh 10 f.sh) ∧ picked f.me (s.seeM 11 f.msk) e = true

/-- The bits element `e` of `w` bits has in memory `m` at an address: 4-bit elements low nibble first (R224). -/
def elemInMem (w : Nat) (m : Nat → Byte) (a : Nat) (odd : Bool) : Nat :=
  if w = 4 then (if odd then (m a).toNat / 16 else (m a).toNat % 16)
  else natOfBytes ((List.range (w / 8)).map (fun i => m (a + i)))

/-- An access of a vector word is added; nothing else of the core changes but the replay record. -/
def VAccess (s t : State) (g : BitVec 5) (cls : BitVec 4) (acq rel : Nat) (due by_ : Option Nat) (foot : List Foot)
    (kind : AccKind → Prop) : Prop :=
  EngWent s t .v g ∧ VectorFrame s t ∧ EngineSame s t ∧ AccAdded s t .v cls acq rel due by_ foot kind

/-- A near store of a vector word: only near bytes change. -/
def VStore (s t : State) (g : BitVec 5) : Prop :=
  EngWent s t .v g ∧ OutsideSame s t ∧ ObsSame s t ∧ SeqKept s t ∧
    { t.core with seq := s.core.seq, obs := s.core.obs, ev := s.core.ev, near := s.core.near } = s.core

/-- A near load of a vector word: its result is in flight, and the replay record may differ. -/
def VLoad (s t : State) (g : BitVec 5) (n : Nat) (l : Land) : Prop :=
  EngWent s t .v g ∧ VectorFrame s t ∧
    t.core.x = { s.core.x with flight := s.core.x.flight ++ [engResult s .v n 0 l] }

/-! ### Matrix words -/

/-- What a matrix word leaves unchanged: all but its engine, the matrix state, results in flight and the counters. -/
def MatrixFrame (s t : State) : Prop :=
  OutsideSame s t ∧ MemorySame s t ∧ ObsSame s t ∧ SeqKept s t ∧
    { t.core with seq := s.core.seq, x := s.core.x, obs := s.core.obs, em := s.core.em, mat := s.core.mat } = s.core ∧
    EngineSame s t ∧ t.core.x.accs = s.core.x.accs ∧ t.core.x.nid = s.core.x.nid

/-- A matrix word's result in flight, landing at its bound exactly or by it. -/
def matResult (s : State) (n : Nat) (exact : Bool) (l : Land) : Result := { engResult s .m n 0 l with exact := exact }

/-- Planes of a weight format, and the passes one takes (R258). -/
def planeTable : List (BitVec 4 × Nat × Nat) := [(0xB, 2, 1), (0xC, 2, 2), (0xD, 3, 3), (0x9, 4, 4), (0xE, 6, 6), (0x0, 8, 8)]

/-- Activation formats with element bytes and passes (R260). -/
def actTable : List (BitVec 4 × Nat × Nat) := [(0x0, 1, 1), (0x1, 2, 2), (0x5, 2, 2), (0xF, 1, 1), (0x6, 1, 2), (0x7, 1, 2)]

/-- Output formats with element bytes (R266). -/
def outTable : List (BitVec 4 × Nat) := [(0x3, 4), (0x4, 2), (0x5, 2), (0x0, 1), (0xF, 1), (0x6, 1), (0x7, 1)]

/-! ### Exchange words -/

/-- Outside the core in focus only the walks queued at a die, and the number of the next free value, may differ. -/
def WalksOnly (s t : State) : Prop :=
  { t with core := s.core, dies := s.dies, free := s.free } = s ∧
    ∀ d : Fin 4, { t.dies[d] with walks := s.dies[d].walks } = s.dies[d]

/-- What a word of the exchange stream that adds an access leaves unchanged. -/
def ExchangeFrame (s t : State) (g : BitVec 5) : Prop :=
  EngWent s t .x g ∧ WalksOnly s t ∧ MemorySame s t ∧ ObsSame s t ∧ SeqKept s t ∧
    { t.core with seq := s.core.seq, x := s.core.x, obs := s.core.obs, ex := s.core.ex } = s.core

/-- The exchange forms (R274). -/
def xchTable : List ((BitVec 5 → XE → Instr) × Form) :=
  [(Instr.xchNd, .nd), (Instr.xchNm, .nm), (Instr.xchDm, .dm), (Instr.xchNp, .np), (Instr.xchAm, .am)]

/-- The atomic words: operation, bytes of its value, and whether it returns one (R282-R284). -/
def atomTable (f : XA) : List ((BitVec 5 → XA → Instr) × Nat × Nat × Bool) :=
  [(Instr.xatom, f.aop.toNat, 2 ^ f.w.toNat, true), (Instr.xred, f.aop.toNat, 2 ^ f.w.toNat, false),
   (Instr.xbinit, 10, 4, false), (Instr.xbadd, 11, 4, false), (Instr.xbread, 12, 4, true)]

/-- A send descriptor that R273 refuses at issue. -/
def BadDescriptor (s : State) (v : Word) (push : Bool) : Prop :=
  v &&& 0xFFFFFFFF001F0E00 ≠ 0 ∨
    (v.getLsbD 31 = false ∧ (v.extractLsb' 21 10 ≠ 0 ∨ s.core.share.n ≤ (v.extractLsb' 0 9).toNat)) ∨
    (v.getLsbD 31 = true ∧ (v.extractLsb' 21 10).toNat = s.nib.pkgId) ∨ (push = true ∧ v.extractLsb' 12 4 ≠ 0)

/-! ### Landings -/

/-- A mask covers the 64-bit word `j` of a register. -/
def coversWord {n : Nat} (m : BitVec n) (j : Nat) : Prop := ∀ i < 64, m.getLsbD (64 * j + i) = true

/-- An event of a core touches nothing outside the core in focus and no byte of memory. -/
def CoreOnly (s t : State) (core : Core → Core) : Prop := OutsideSame s t ∧ MemorySame s t ∧ core t.core = core s.core

/-- What a register result writes as it lands, nothing having landed at its place within its window: the register, the bits
its mask names, and no other. -/
def RegLands (s t : State) : Land → Prop
  | .sreg sup i v =>
    (∀ j, (t.core.seq.bankOf sup).get j = if j = i ∧ i ≠ 0 then v else (s.core.seq.bankOf sup).get j) ∧
      { (t.core.seq.bankOf sup) with s := (s.core.seq.bankOf sup).s } = s.core.seq.bankOf sup ∧
      t.core.seq.bankOf (!sup) = s.core.seq.bankOf (!sup) ∧
      { t.core.seq with thr := s.core.seq.thr, svr := s.core.seq.svr } = s.core.seq ∧
      MarksLeft s t (fun b => b.1 = (if sup = true then 6 else 5) ∧ b.2.1 = i.toNat) ∧
      CoreOnly s t (fun k => { k with seq := s.core.seq, x := s.core.x, badReg := s.core.badReg, vec := { k.vec with flg := s.core.vec.flg } })
  | .vec ws =>
    (ws.map VWrite.reg).Nodup → (∀ w ∈ ws, (t.core.vec.v[w.reg.toNat]?) = some (blend (s.core.vec.v[w.reg.toNat]?.getD 0) w.mask w.val)) ∧
      (∀ r : Fin 64, (∀ w ∈ ws, w.reg.toNat ≠ r.val) → t.core.vec.v[r] = s.core.vec.v[r]) ∧
      MarksLeft s t (fun b => b.1 = 0 ∧ ∃ w ∈ ws, w.reg.toNat = b.2.1 ∧ coversWord w.mask b.2.2) ∧
      CoreOnly s t (fun k => { k with x := s.core.x, badReg := s.core.badReg, vec := { k.vec with flg := s.core.vec.flg, v := s.core.vec.v } })
  | .mask i w v =>
    (∀ j : Fin 8, t.core.vec.m[j] = if j.val = i.toNat then blend s.core.vec.m[j] w v else s.core.vec.m[j]) ∧
      MarksLeft s t (fun b => b.1 = 1 ∧ b.2.1 = i.toNat ∧ coversWord w b.2.2) ∧
      CoreOnly s t (fun k => { k with x := s.core.x, badReg := s.core.badReg, vec := { k.vec with flg := s.core.vec.flg, m := s.core.vec.m } })
  | .shape i w v =>
    (∀ j : Fin 16, t.core.vec.sh[j] = if j.val = i.toNat then blend s.core.vec.sh[j] w v else s.core.vec.sh[j]) ∧
      (∀ b ∈ t.core.badReg, b ∈ s.core.badReg) ∧ (∀ b ∈ s.core.badReg, ¬(b.1 = 2 ∧ b.2.1 = i.toNat) → b ∈ t.core.badReg) ∧
      CoreOnly s t (fun k => { k with x := s.core.x, badReg := s.core.badReg, vec := { k.vec with flg := s.core.vec.flg, sh := s.core.vec.sh } })
  | .quill i q =>
    (∀ j : Fin 16, t.core.vec.q[j] = if j.val = i.toNat then q else s.core.vec.q[j]) ∧
      MarksLeft s t (fun b => b.1 = 3 ∧ b.2.1 = i.toNat) ∧
      CoreOnly s t (fun k => { k with x := s.core.x, badReg := s.core.badReg, vec := { k.vec with flg := s.core.vec.flg, q := s.core.vec.q } })
  | .vflgClear _ => CoreOnly s t (fun k => { k with x := s.core.x, vec := { k.vec with flg := s.core.vec.flg } })
  | _ => False

/-- Cell (m, n) of a tile. -/
def cellAt (k : Core) (t : Bool) (m n : Nat) : Word := Sparse.get 0 k.mat.cells (16384 * t.toNat + 128 * m + n)

/-- What a result of the matrix engine writes as it lands (R99, R100, R254, R261, R263, R268). -/
def MatLands (s t : State) : Land → Prop
  | .near bytes =>
    s.core.near.wf = true → (bytes.map Prod.fst).Nodup → (∀ e ∈ bytes, t.core.near.byte e.1 = e.2) ∧
      OutsideSame s t ∧ MemorySameBut (fun b => ∃ e ∈ bytes, e.1 = b) s t ∧
      { t.core with x := s.core.x, near := s.core.near, vec := s.core.vec } = s.core
  | .tileClear c =>
    (∀ m < 128, ∀ n < 128, cellAt t.core c m n = 0 ∧ cellAt t.core (!c) m n = cellAt s.core (!c) m n) ∧
      t.core.mat.flg = s.core.mat.flg.setIfInBounds c.toNat 0 ∧
      (∀ n, n ∈ t.core.mat.bad ↔ n ∈ s.core.mat.bad ∧ n / 16384 ≠ c.toNat) ∧
      (let same := fun (m : Mat) => { m with cells := s.core.mat.cells, flg := s.core.mat.flg, bad := s.core.mat.bad }
       CoreOnly s t (fun k => { k with x := s.core.x, vec := s.core.vec, mat := same k.mat }))
  | .tflgClear c =>
    t.core.mat = { s.core.mat with flg := s.core.mat.flg.setIfInBounds c.toNat 0 } ∧
      CoreOnly s t (fun k => { k with x := s.core.x, vec := s.core.vec, mat := s.core.mat })
  | .tflgSet c b =>
    t.core.mat = { s.core.mat with flg := s.core.mat.flg.setIfInBounds c.toNat ((s.core.mat.flg[c.toNat]?.getD 0) ||| b) } ∧
      CoreOnly s t (fun k => { k with x := s.core.x, vec := s.core.vec, mat := s.core.mat })
  | .latch w l =>
    t.core.mat = { s.core.mat with wl := s.core.mat.wl.setIfInBounds w.toNat l } ∧
      MarksLeft s t (fun b => b.1 = 4 ∧ b.2.1 = w.toNat) ∧
      CoreOnly s t (fun k => { k with x := s.core.x, badReg := s.core.badReg, vec := s.core.vec, mat := s.core.mat })
  | .row c m cs inv ovf =>
    let sum := fun (j : Nat) => (cs[j]?.getD []).foldl
      (fun (a : Word × Bool) x => ((accumulate a.1 x).1, a.2 || (accumulate a.1 x).2)) (cellAt s.core c m j, false)
    m < 128 → cs.length ≤ 128 →
      (∀ d i n, i < 128 → n < 128 → cellAt t.core d i n = if d = c ∧ i = m ∧ n < cs.length then (sum n).1 else cellAt s.core d i n) ∧
      (let old := s.core.mat.flg[c.toNat]?.getD 0
       ∃ b : Word, t.core.mat.flg = s.core.mat.flg.setIfInBounds c.toNat (old ||| b) ∧ b &&& ~~~3 = 0 ∧
         (b.getLsbD 0 = true ↔ ovf = true ∨ ∃ j < cs.length, (sum j).2 = true) ∧ b.getLsbD 1 = inv) ∧
      (let same := fun (m : Mat) => { m with cells := s.core.mat.cells, flg := s.core.mat.flg }
       CoreOnly s t (fun k => { k with x := s.core.x, vec := s.core.vec, mat := same k.mat }))
  | _ => False

/-- A result lands: it is no longer in flight, no other result or access ends, and the flags it raises are set (R85). -/
def Landed (s t : State) (i : Nat) (r : Result) (off : BitVec 32) : Prop :=
  t.core.x.flight.map Result.unraced = (dropAt s.core.x.flight i).map Result.unraced ∧
    t.core.x.accs.map Acc.unraced = s.core.x.accs.map Acc.unraced ∧
    { t.core.x with flight := s.core.x.flight, accs := s.core.x.accs } = s.core.x ∧
    t.core.vec.flg = (s.core.vec.flg &&& ~~~off) ||| r.flags

/-- A result clears flags that another raises (R227, R268). -/
def clearsFlags (q r : Result) : Prop :=
  (∃ t, q.land = .tflgClear t ∧ ((∃ m cs i o, r.land = .row t m cs i o) ∨ ∃ b, r.land = .tflgSet t b)) ∨
    (∃ t b, q.land = .tileClear t ∧ r.land = .tflgSet t b) ∨ (∃ b, q.land = .vflgClear b) ∧ r.flags ≠ 0

/-- Result `i` in flight may land: at its bound or, where it need not wait, before; not ahead of a clear that is due of flags
it raises, nor ahead of an earlier write of its own matrix word to a place they share (R227, R267, R268). -/
def LandsNow (k : Core) (i : Nat) (r : Result) : Prop :=
  k.x.flight[i]? = some r ∧ (r.due = 0 ∨ r.exact = false) ∧ (∀ q ∈ k.x.flight, q.due = 0 → ¬clearsFlags q r) ∧
    ∀ q ∈ k.x.flight.take i, ¬(q.strm = .m ∧ r.strm = .m ∧ q.ord = r.ord ∧ q.widx = r.widx ∧ q.land.meets r.land = true)

/-- A bank of a die is cleared, before the events of the present tick (R374). -/
def BankCleared (s t : State) (d b : Nat) : Prop :=
  ((∀ e ∈ (s.die d).today, e.1 ≠ b) → (t.die d).banks[b]? = some (Vector.replicate 8 0)) ∧
    ∀ base ev, (s.die d).today = [(b, base, [ev])] → b < 16 →
      (t.die d).banks[b]? = some (recordIn (Vector.replicate 8 0) ev (s.die d).tick)

/-- Results that land in registers, and those of the matrix engine. -/
def regLand : Land → Bool
  | .sreg _ _ _ => true
  | .vec _ => true
  | .mask _ _ _ => true
  | .shape _ _ _ => true
  | .quill _ _ => true
  | .vflgClear _ => true
  | _ => false

def matLand : Land → Bool
  | .near _ => true
  | .tileClear _ => true
  | .tflgClear _ => true
  | .tflgSet _ _ => true
  | .latch _ _ => true
  | .row _ _ _ _ _ => true
  | _ => false

/-- Flags of VFLG that a landing clears. -/
def clearsOf : Land → BitVec 32
  | .vflgClear b => b
  | _ => 0

/-- Bit `b` after a landing of `v` under mask `m`, where earlier landings within its window wrote the bits `lost`: the new
bit where none did, old or new where one did, and the old bit outside the mask (R23). -/
def raceBit (m lost v old new : Bool) : Prop :=
  if m = false then new = old else if lost = false then new = v else new = v ∨ new = old

/-- What a result leaves at its destination where others landed there within its window (R23). -/
def RegRaces (s t : State) (rs : List Land) : Land → Prop
  | .sreg sup i v =>
    ∃ x, (x = v ∨ x = (s.core.seq.bankOf sup).get i) ∧
      ∀ j, (t.core.seq.bankOf sup).get j = if j = i ∧ i ≠ 0 then x else (s.core.seq.bankOf sup).get j
  | .vec ws =>
    (ws.map VWrite.reg).Nodup → ∀ w ∈ ws, ∀ b < 4096, raceBit (w.mask.getLsbD b) ((lostV rs w.reg).getLsbD b) (w.val.getLsbD b)
      ((s.core.vec.v[w.reg.toNat]?.getD 0).getLsbD b) ((t.core.vec.v[w.reg.toNat]?.getD 0).getLsbD b)
  | .mask i w v =>
    ∀ b < 256, raceBit (w.getLsbD b) ((lostM rs i).getLsbD b) (v.getLsbD b)
      ((s.core.vec.m[i.toNat]?.getD 0).getLsbD b) ((t.core.vec.m[i.toNat]?.getD 0).getLsbD b)
  | .shape i w v =>
    ∀ b < 512, raceBit (w.getLsbD b) ((lostSh rs i).getLsbD b) (v.getLsbD b)
      ((s.core.vec.sh[i.toNat]?.getD 0).getLsbD b) ((t.core.vec.sh[i.toNat]?.getD 0).getLsbD b)
  | .quill i q => t.core.vec.q[i.toNat]? = some q ∨ t.core.vec.q[i.toNat]? = s.core.vec.q[i.toNat]?
  | .near bytes =>
    s.core.near.wf = true → (bytes.map Prod.fst).Nodup →
      ∀ e ∈ bytes, t.core.near.byte e.1 = e.2 ∨ t.core.near.byte e.1 = s.core.near.byte e.1
  | _ => True

/-! ### Accesses at their homes -/

/-- The atomics (R283, R284): the new value of a target of `n` bits from the old one, the operand and the compare value. -/
def atomRows : List (Nat × (Nat → Nat → Nat → Nat → Nat)) :=
  [(0, fun n o v _ => (o + v) % 2 ^ n), (1, fun n o v _ => if sgn n v < sgn n o then v else o),
   (2, fun n o v _ => if sgn n o < sgn n v then v else o), (3, fun _ o v _ => min o v), (4, fun _ o v _ => max o v),
   (5, fun _ o v _ => o &&& v), (6, fun _ o v _ => o ||| v), (7, fun _ o v _ => o ^^^ v), (8, fun _ _ v _ => v),
   (9, fun _ o v c => if o = c then v else o), (10, fun _ _ v _ => cellInit v), (11, fun _ o v _ => cellAdd o v),
   (12, fun _ o _ _ => o)]

/-- Main memory as its port reads it under a slot: `n` bytes from a physical address hold a number, and every other byte reads
under that slot's key as before; byte ranges whose lines are not touched keep their stored form. -/
def MainHolds (s t : State) (key : BitVec 11) (a n v : Nat) : Prop :=
  ∀ i, s.keyIdent key = some i → t.keyIdent key = some i ∧
    (∀ j < n, t.mainByte i (a + j) = BitVec.ofNat 8 (v / 256 ^ j)) ∧
    (∀ b, ¬(a ≤ b ∧ b < a + n) → t.mainByte i b = s.mainByte i b) ∧
    ∀ b, (b / 128 < a / 128 ∨ (a + n - 1) / 128 < b / 128) → t.main.byte b = s.main.byte b

/-- Nothing but the core in focus and its free values differs, of the core only accesses under way. -/
def AccsOnly (s t : State) : Prop :=
  OutsideSame s t ∧ MemorySame s t ∧ { t.core with x := s.core.x } = s.core ∧ { t.core.x with accs := s.core.x.accs } = s.core.x

/-- Access `id` is over; no other is changed. -/
def AccGone (s t : State) (id : Nat) : Prop := t.core.x.accs = s.core.x.accs.filter (fun b => b.id != id)

/-- Access `id` is now `f` of what it was; no other is changed. -/
def AccNow (s t : State) (id : Nat) (f : Acc → Acc) : Prop :=
  t.core.x.accs = s.core.x.accs.map (fun b => if b.id == id then f b else b)

/-- The open entry of a line closes, and nothing else happens (R152). -/
def LineCloses (s t : State) (main : Bool) (line : Nat) : Prop :=
  { t with entries := s.entries, free := s.free } = s ∧
    t.entries = s.entries.map (fun (e : Entry) => if e.main == main && e.line == line then { e with closed := true } else e)

/-- A trap found for access `a` once it was under way: recorded where its section has none (R289); a section that still runs
stops. -/
def LaterTrap (s t : State) (a : Acc) (cause sub : BitVec 8) (addr : Word) : Prop :=
  ((∀ x ∈ s.core.seq.traps, ¬(x.eng = a.strm ∧ x.secno = a.secno ∧ x.sup = a.sup)) →
    ∃ r, t.core.seq.traps = s.core.seq.traps ++ [r] ∧ r.cause = cause ∧ r.sub = sub ∧ r.addr = addr ∧ r.eng = a.strm ∧
      r.secno = a.secno ∧ r.widx = a.widx ∧ r.sup = a.sup) ∧
    t.core.vec = s.core.vec ∧ t.core.mat = s.core.mat ∧ t.core.near = s.core.near ∧ t.core.seq.thr = s.core.seq.thr ∧
    t.core.seq.svr = s.core.seq.svr ∧
    ∀ e ∈ engines, t.core.eng e = s.core.eng e ∨ e = a.strm ∧
      t.core.eng e = { s.core.eng e with run := (s.core.eng e).run.map (fun (r : Running) => { r with stopped := true }) }

/-- An exchange is abandoned (R126): its access and locks are gone, XABND is recorded with its cause, and every slot and home
keeps its block. -/
def Abandons (s t : State) (a : Acc) (cause : BitVec 8) (addr : Word) : Prop :=
  AccGone s t a.id ∧ (∀ l, l ∈ t.locks ↔ l ∈ s.locks ∧ ¬(l.core = s.here ∧ l.id = a.id)) ∧ LaterTrap s t a 0x14 cause addr ∧
    t.dieStore = s.dieStore ∧ t.remote = s.remote ∧ t.main = s.main

/-- Near slot or die block `n` holds a block. -/
def nearIs (s : State) (n : Nat) (b : Store) : Prop := ∀ i < 4096, s.core.near.byte (4096 * n + i) = b.byte i
def dieIs (s : State) (n : Nat) (b : Store) : Prop :=
  ∀ i < 4096, s.dieStore.byte (diePlace s.myMembersOn (4096 * n + i)).2 = b.byte i

/-! ### Events of the package -/

/-- No active loop of a core ends at its PC (R185). -/
def loopless (k : Core) : Prop := ∀ j : Fin 4, k.seq.bank.lc[j] ≠ 0 → k.seq.bank.lend[j] ≠ k.seq.pc

/-- Only error banks, the records trace rings are to write, blotters and reports to the host may differ (R374, R376, R389). -/
def ReportsOnly (s t : State) : Prop :=
  { t with core := s.core, others := s.others, dies := s.dies, host := s.host, hostLog := s.hostLog, free := s.free } = s ∧
    (∀ d : Fin 4, { t.dies[d] with banks := s.dies[d].banks, today := s.dies[d].today, rings := s.dies[d].rings } = s.dies[d]) ∧
    (KeysOk s → ∀ c, { t.coreAt c with obs := (s.coreAt c).obs } = s.coreAt c)

/-- Of two events that reach a bank in one tick, which comes first: fatal, contained, corrected; then ascending SRC; then
core id (R374). -/
def comesFirst (a b : ErrEv) : Prop :=
  let c := fun (e : ErrEv) => if e.kind ∈ ([0x01, 0x03, 0x06, 0x12, 0x14, 0x15] : List (BitVec 8)) then 2
    else if e.kind ∈ ([0x0D, 0x0E, 0x13] : List (BitVec 8)) then 0 else 1
  let id := fun (e : ErrEv) => if e.ofCore = true then e.core.toNat else 0x1FF
  c a < c b ∨ (c a = c b ∧ (a.src.toNat < b.src.toNat ∨ (a.src = b.src ∧ id a < id b)))

/-- Bank `b` of die `d` took an event (R374), alone in its tick or after one other. -/
def BankTook (s t : State) (d b : Nat) (ev : ErrEv) : Prop :=
  let now := (s.die d).tick
  ((∀ e ∈ (s.die d).today, e.1 ≠ b) → (t.die d).banks[b]? = ((s.die d).banks[b]?).map (fun w => recordIn w ev now)) ∧
    ∀ base ev0, (s.die d).today = [(b, base, [ev0])] → b < 16 →
      (comesFirst ev ev0 → (t.die d).banks[b]? = some (recordIn (recordIn base ev now) ev0 now)) ∧
      (¬comesFirst ev ev0 → (t.die d).banks[b]? = some (recordIn (recordIn base ev0 now) ev now))

/-- A core leaves PALIGN: for the next word, or from the alignment before its first tile for that tile's entry (R52, R74, R190). -/
def Resumes (s t : State) (c : Nat) : Prop :=
  let k := s.coreAt c
  let j := t.coreAt c
  j.seq.frz.align = none ∧ j.vec = k.vec ∧ j.mat = k.mat ∧ j.x = k.x ∧ j.near = k.near ∧
    (k.share.phase = .aligning → j.share = { k.share with phase := .entry } ∧ j.seq.pc = k.seq.pc) ∧
    (k.share.phase ≠ .aligning → loopless k → j.share = k.share ∧ j.seq.pc = k.seq.pc + 1 ∧ j.seq.wait = k.seq.frz.gap.toNat)

/-- A core of a partition on a die stands frozen in PALIGN(`.pkg`) at a target. -/
def AlignedAt (s : State) (d p c : Nat) (g : Word) : Prop :=
  dieOf c = d ∧ (s.partOf c).map Prod.fst = some p ∧ (s.coreAt c).inAlign = some (4, g)

/-- The value of a barrier reduction over its arrivals (R198). -/
def barSpec (f : BitVec 3) (l : List Word) : Word :=
  let op : Word → Word → Word := if f = 0 then (· + ·) else if f = 1 then (fun a b => if a.toInt ≤ b.toInt then a else b)
    else if f = 2 then (fun a b => if b.toInt ≤ a.toInt then a else b) else if f = 3 then (· &&& ·) else if f = 4 then (· ||| ·) else (· ^^^ ·)
  match l with
  | [] => 0
  | a :: r => r.foldl op a

/-- The strides of R54: T before position 0, divided by each position's extent in turn. -/
def walkStride (dims order : List Nat) (tiles : Nat) : Nat → Nat
  | 0 => tiles
  | j + 1 => walkStride dims order tiles j / dims[order[j]?.getD 0]?.getD 1

/-- The index of the dimension at visiting position `j` for tile `t` (R54). -/
def walkIndex (dims order : List Nat) (serp : BitVec 8) (tiles t j : Nat) : Nat :=
  let d := order[j]?.getD 0
  let e := dims[d]?.getD 1
  let x := t / walkStride dims order tiles (j + 1) % e
  if serp.getLsbD d = true ∧ t / walkStride dims order tiles j % 2 = 1 then e - 1 - x else x

/-- Near slot 255 and a home have swapped (R53): what each held under the home's key is in the other, and no other near byte or
register of the core changes. -/
def ParamSwapped (s t : State) (l : Leaf) : Prop :=
  s.core.near.wf = true → s.main.wf = true → Sparse.canon 0 s.seals = true →
    nearIs t 255 (s.mainBlock l.key l.pbn) ∧ (∀ b, b / 4096 ≠ 255 → t.core.near.byte b = s.core.near.byte b) ∧
    (∀ i, s.keyIdent l.key = some i → ∀ b < 4096, t.mainByte i (4096 * l.pbn + b) = s.core.near.byte (4096 * 255 + b)) ∧
    { t.core with near := s.core.near, share := s.core.share, seq := s.core.seq, obs := s.core.obs } = s.core ∧
    t.core.seq.thr = s.core.seq.thr ∧ t.dieStore = s.dieStore

/-- A core has run out: no section, result or access under way. -/
def RunOut (k : Core) : Prop := k.enginesIdle = true ∧ k.quiet = true ∧ k.x.wbs = []

/-- Only partition `p` changes, to `y`. -/
def PartNow (s t : State) (p : Nat) (y : Part) : Prop :=
  { t with parts := s.parts, free := s.free } = s ∧ t.part? p = some y ∧ ∀ q, q ≠ p → t.part? q = s.part? q

/-- Partition `p` becomes `y`; besides it the tables of slots, main memory or the planes may differ as the statement says. -/
def PartIs (s t : State) (p : Nat) (y : Part) : Prop :=
  t.part? p = some y ∧ (∀ q, q ≠ p → t.part? q = s.part? q) ∧ t.here = s.here ∧ t.nib = s.nib ∧ t.dieStore = s.dieStore ∧ t.keys = s.keys

/-- Launch `n` of a partition changed by `f`. -/
def Part.withLaunch (x : Part) (n : Nat) (f : Launch → Launch) : Part :=
  { x with table := x.table.map (fun l => if l.num = n then f l else l) }

/-- A launch that acceptance may choose (R341, R342). -/
def Launch.eligible (l : Launch) : Prop := l.ready = true ∧ l.status = none ∧ l.running = false

/-- A launch as step 5 of R348 leaves it: one that resumes keeps its LBT and its record and needs no token. -/
def startedAs (l : Launch) (lbt : Word) (cores : List Nat) (m : Launch) : Launch :=
  { m with accepting := false, running := true, resident := false, staged := false, lbt := if m.resident then m.lbt else lbt, tokens := if m.resident then [] else cores,
           raw := if m.resident then m.raw else m.raw.take 40 ++ bytesOfNat 8 l.seed.toNat ++ m.raw.drop 48 }

/-- An error bank takes an event (R373, R374): a fresh record where none is held, or where an uncorrectable one meets a corrected one
or one the host has seen; else it is counted beside the record held. -/
def BankRules (old new : Vector Word 8) (ev : ErrEv) (tick : Word) : Prop :=
  let c := if ev.kind ∈ ([0x01, 0x03, 0x06, 0x12, 0x14, 0x15] : List (BitVec 8)) then 0
    else if ev.kind ∈ ([0x0D, 0x0E, 0x13] : List (BitVec 8)) then 2 else 1
  let f := fun (w : Word) (lo n : Nat) => (w.extractLsb' lo n).toNat
  let fresh := f new[0] 62 2 = 2 ∧ f new[0] 60 2 = c ∧ f new[0] 56 4 = 0 ∧ f new[0] 48 8 = ev.src.toNat ∧ f new[0] 40 8 = ev.kind.toNat ∧
    f new[0] 33 7 = ev.part.toNat ∧ f new[0] 0 33 = 0 ∧ new[1] = tick ∧
    new[2].toNat = (if ev.src ∈ ([0x01, 0x10, 0x20] : List (BitVec 8)) ∨ ev.kind = 0x0D then ev.addr.toNat % 2 ^ 48 else 0) ∧ new[3] = ev.detail ∧
    f new[4] 32 32 = ev.ctx.toNat ∧ f new[4] 16 16 = ev.asid.toNat ∧ f new[4] 0 16 = 0 ∧
    f new[5] 55 9 = (if ev.ofCore then ev.core.toNat else 0x1FF) ∧ f new[5] 53 2 = ev.eng.toNat ∧ f new[5] 41 12 = ev.sec.toNat ∧
    f new[5] 27 14 = ev.widx.toNat ∧ f new[5] 7 20 = ev.token.toNat ∧ f new[5] 0 7 = 0 ∧ new[6] = (if ev.kind = 0x0E then ev.word6 else 0) ∧ new[7] = 0
  let rest := ∀ i : Fin 8, i.val ≠ 0 → new[i] = old[i]
  let held := old[0].getLsbD 63 = true
  let free := f old[0] 60 2 = 0 ∨ old[0].getLsbD 62 = true
  (¬held → fresh) ∧ (held → c ≠ 0 → free → fresh) ∧
    (held → c = 0 → rest ∧ new[0].getLsbD 56 = true ∧ f new[0] 0 16 = min 0xFFFF (f old[0] 0 16 + 1) ∧ f new[0] 57 7 = f old[0] 57 7 ∧
      f new[0] 16 40 = f old[0] 16 40) ∧
    (held → c ≠ 0 → ¬free → rest ∧ new[0].getLsbD 59 = true ∧ f new[0] 16 16 = min 0xFFFF (f old[0] 16 16 + 1) ∧ f new[0] 60 4 = f old[0] 60 4 ∧
      f new[0] 32 25 = f old[0] 32 25 ∧ f new[0] 0 16 = f old[0] 0 16 ∧
      new[0].getLsbD 57 = (decide (c = 1) || old[0].getLsbD 57) ∧ new[0].getLsbD 58 = (decide (c = 2) || old[0].getLsbD 58))

/-- Of the error banks only bank `b` of die `d` may differ. -/
def OnlyBank (s t : State) (d b : Nat) : Prop :=
  ∀ e < 4, ∀ n < 16, ¬(e = d ∧ n = b) → (t.die e).banks[n]? = (s.die e).banks[n]?

/-- The host is told of an event of a class (R376): its status bit, and a message unless one of the class went out within 1,000
ticks of die 0 or ERR_COR is masked. -/
def HostTold (s t : State) (c : Nat) : Prop :=
  let silent := (∃ x, s.host.sent[c]? = some (some x) ∧ ((s.die 0).tick - x).toNat < 1000) ∨ (c = 0 ∧ s.host.maskCor = true)
  t.host.cor = (s.host.cor || decide (c = 0)) ∧ t.host.unc = (s.host.unc || decide (c ≠ 0)) ∧ (silent → t.hostLog = s.hostLog) ∧
    (¬silent → t.hostLog = s.hostLog ++ [if c = 0 then .errCor else if c = 2 ∨ s.host.sevFatal = true then .errFatal else .errNonfatal])

/-- Only what the host has received may differ: one message more. -/
def HostGets (s t : State) (m : HostMsg) : Prop := { t with hostLog := s.hostLog, free := s.free } = s ∧ t.hostLog = s.hostLog ++ [m]

/-- A change of the nominal frequency is planned for one reference count, 10,000 counts ahead or more, and sensors may read
another temperature; nothing else differs (R394, R395). -/
def NominalPlanned (s t : State) (mhz : Nat) : Prop :=
  (∃ n, 10000 ≤ n ∧ n < 2 ^ 16 ∧ t.nib.newNom = some (s.refCount + BitVec.ofNat 48 n, BitVec.ofNat 16 mhz)) ∧
    { t with dies := s.dies, nib := s.nib, free := s.free } = s ∧
    { t.nib with newNom := s.nib.newNom, lowAt := s.nib.lowAt, coolAt := s.nib.coolAt } = s.nib ∧
    ∀ d : Fin 4, { t.dies[d] with hot := s.dies[d].hot } = s.dies[d]

/-- The planned nominal frequency is in force on every die at once, with the clock marks it makes due in rings and blotters; at
1,500 MHz a start leaves its stage 6. Nothing else differs (R390, R394, R405). -/
def NominalNow (s t : State) (mhz : Nat) : Prop :=
  t.nib.nom = BitVec.ofNat 16 mhz ∧ t.nib.newNom = none ∧ t.nib.stage = (if s.nib.stage = 6 ∧ mhz = 1500 then 7 else s.nib.stage) ∧
    { t with core := s.core, others := s.others, dies := s.dies, nib := s.nib, free := s.free } = s ∧
    { t.nib with nom := s.nib.nom, newNom := s.nib.newNom, stage := s.nib.stage } = s.nib ∧
    (∀ c, { t.coreAt c with obs := (s.coreAt c).obs } = s.coreAt c) ∧
    (∀ d : Fin 4, { t.dies[d] with rings := s.dies[d].rings } = s.dies[d] ∧ ∀ r ∈ t.dies[d].rings, r.mark = true) ∧
    t.core.obs.bmark = true ∧ ∀ e ∈ t.others, e.2.obs.bmark = true

/-- Only channel `ch` changes. -/
def ChannelNow (s t : State) (ch : Nat) (x : Channel) : Prop :=
  { t with chans := s.chans, free := s.free } = s ∧ t.chans[ch]? = some x ∧ ∀ i : Fin 24, i.val ≠ ch → t.chans[i] = s.chans[i]

/-- Everything volatile stands as at reset, and the host port as a start leaves it (R405, R408). -/
def Volatile (s t : State) : Prop :=
  (∀ c, t.coreAt c = Core.reset) ∧ t.dieStore = Store.empty ∧ t.parts = [] ∧ t.locks = [] ∧ t.parked = [] ∧ t.entries = [] ∧
    t.barriers = [] ∧ t.barMsgs = [] ∧ t.chanTab = [] ∧ t.fadTab = [] ∧ t.peers = [] ∧ t.nib.cmd = none ∧ t.nib.mail = [] ∧
    t.nib.hostNonce = none ∧ t.nib.partNonce = [] ∧ t.fuses = s.fuses ∧ t.remote = s.remote ∧ (∃ k, t.keys = [(0, { ident := k, part := none })] ∧ s.keyGen ≤ k) ∧
    t.host.link = true ∧ t.nib.power = true ∧ t.nib.off = false

/-! ### The machine as a whole -/

/-- Memory in canonical form everywhere: near stores, accumulator cells and barrier slots of every core; die stores,
main memory, other packages' memory and the seals of main memory. -/
def Canonical (s : State) : Prop :=
  s.dieStore.wf = true ∧ s.main.wf = true ∧ s.remote.wf = true ∧ Sparse.canon 0 s.seals = true ∧
    ∀ e ∈ s.cores, e.2.near.wf = true ∧ Sparse.canon 0 e.2.mat.cells = true ∧ Sparse.canon BSlot.zero e.2.seq.bslots = true

/-- Registers of a core within their ranges: FRZLIM from 256 to 2^24 (R70), s0 zero in both banks and in the checkpoint
(R173), RB a multiple of four (R305), at most 16 link credits (R279). -/
def RegsLegal (k : Core) : Prop :=
  256 ≤ k.seq.frzlim.toNat ∧ k.seq.frzlim.toNat ≤ 2 ^ 24 ∧ k.seq.thr.s[0] = 0 ∧ k.seq.svr.s[0] = 0 ∧
    k.vec.rb.toNat % 4 = 0 ∧ (∀ c, k.seq.ckpt = some c → c.thr.s[0] = 0 ∧ c.rb.toNat % 4 = 0) ∧
    k.x.credits ≤ 16 ∧ k.share.credits ≤ 16 ∧ ∀ v ∈ k.saved, v.credits ≤ 16

/-- Nothing is scripted, the part is up, and no event is due in this cycle on any core or on the package. -/
def Quiet (s : State) : Prop :=
  s.script = [] ∧ s.nib.power = true ∧ s.nib.off = false ∧ s.packageDue = none ∧
    ∀ e ∈ s.cores, (s.focus e.1).coreDue = none

/-- It is the turn of a stream of the core in focus: X, then the matrix feed, M, V, and the control stream last. -/
def TurnOf (k : Core) : Stream → Prop
  | .x => True
  | .m => k.engMove .x = none ∧ k.feedDue = false
  | .v => k.engMove .x = none ∧ k.feedDue = false ∧ k.engMove .m = none
  | .seq => k.engMove .x = none ∧ k.feedDue = false ∧ k.engMove .m = none ∧ k.engMove .v = none

/-- The 12 bytes a stream fetches next on the core in focus, none of them poisoned: an engine reads its running section's next
word, the control stream the word at PC, below SBASE in user state (R303). -/
def fetched (k : Core) : Stream → Option (List Byte)
  | .seq =>
    if k.seqReady ∧ (k.seq.sup ∨ k.seq.pc < k.seq.sbase) ∧ k.cur.wordBad k.seq.pc.toNat = false then k.cur.word k.seq.pc.toNat
    else none
  | e =>
    match (k.eng e).run with
    | some r =>
      let a := r.base + 12 * r.next
      if k.wordReady e ∧ k.cur.poisoned a 12 = false then some (k.cur.bytes a 12) else none
    | none => none

/-- A word of 96 bits with values at bit positions. -/
def bitsAt (l : List (Nat × Nat)) : InstrWord := BitVec.ofNat 96 ((l.map (fun e => e.2 * 2 ^ e.1)).sum)

/-- A control-stream word: OP, GAP, the guard's GE, GN and GP, and its fields (R162). -/
def seqBits (op : Nat) (h : Head) (l : List (Nat × Nat)) : InstrWord :=
  bitsAt ((88, op) :: (83, h.gap.toNat) :: (match h.guard with
    | some g => [(82, 1), (81, g.neg.toNat), (78, g.p.toNat)]
    | none => []) ++ l)

/-- The exact value of a finite code. -/
def finVal : Fp → Option ℚ
  | .fin s m e => some ((if s then -1 else 1) * m * 2 ^ e)
  | _ => none

end Sys2Proof.Machine
end

