-- ==== Sys2Proof/Certificates/Slice0/Obligations.lean ====
section
/-! DEFINITION. The statements for the provers. An obligation with several parts is the conjunction of its claims, each of
which stands above it with the rules it follows. -/

open Sys2Proof Sys2Proof.Machine

/-- What reset leaves where the spec gives it: FRZLIM 65,536 (R70), PRELIM 2^20 (R305), WDOG 2^26, BLCTL with EN and every
trigger (R392), counters at zero, 16 inflow credits (R279), stage 1, MODE 0 and mh0 to mh7 zero (R405, R411); and on it hold
the invariants that steps keep.
Rests on choices of the model: log entry 4. -/
def Obligations.ResetState : Prop :=
  let k := State.reset.core
  k.seq.frzlim = 65536 ∧ k.seq.prelim = 0x100000 ∧ k.obs.wdog = 0x4000000 ∧ k.obs.btrig = 0x3F ∧ k.obs.ben = true ∧
  k.obs.wptr = 0 ∧ (∀ i : Fin 4, k.obs.frz[i] = 0) ∧ k.x.credits = 16 ∧ (∀ i : Fin 8, State.reset.nib.mh[i] = 0) ∧
  State.reset.nib.stage = 1 ∧ State.reset.nib.mode = 0 ∧ (∀ c, State.reset.coreAt c = k) ∧ State.reset.parts = [] ∧
  KeysOk State.reset ∧ Canonical State.reset ∧ ∀ e ∈ State.reset.cores, RegsLegal e.2

/-- R162-R171: words written out from the tables of fields decode to their instructions, and words with a reserved code, a
guard without GE or a reserved bit to none. -/
def Obligations.DecodeRight : Prop :=
  decode .seq 0x0100_081B_0000_0000_0000_0000 = some (.add ⟨0, none⟩ ⟨4, 1, 22⟩) ∧
  decode .m 0x30F8_0000_0000_0000_0000_0000 = some (.mclr 31 ⟨false, false, false, 0, 0, 0, 0, 0⟩) ∧
  decode .x 0x1100_8000_0000_40A0_0000_0000 = some (.xchNm 0 ⟨16, false, 0, 0, 0, 0, 1, 640⟩) ∧
  decode .seq (bitsAt [(88, 0x11), (83, 5), (82, 1), (81, 1), (78, 3), (73, 7), (68, 9), (4, 2 ^ 64 - 2)]) =
    some (.addi ⟨5, some ⟨true, 3⟩⟩ ⟨7, 9, 0xFFFFFFFFFFFFFFFE⟩) ∧
  decode .seq (bitsAt [(88, 0x50), (73, 6), (68, 7), (44, 2 ^ 24 - 8), (42, 3), (41, 1), (39, 1), (36, 3), (32, 5), (16, 200)]) =
    some (.ld ⟨0, none⟩ ⟨6, 7, 0xFFFFF8, 3, true, 1, 3, 5, 200⟩) ∧
  decode .v (bitsAt [(88, 0x01), (81, 2), (77, 3), (70, 1), (63, 2), (56, 0x49), (45, 3), (44, 1), (41, 2)]) =
    some (.vadd 0 ⟨2, 3, 1, 2, 0x49, 0, 3, true, 2, 0, 0⟩) ∧
  decode .m (bitsAt [(88, 0x20), (76, 1), (75, 1), (67, 7), (59, 9), (55, 4), (51, 6), (47, 3)]) =
    some (.macc 0 ⟨false, true, true, 7, 9, 4, 6, 3⟩) ∧
  decode .x (bitsAt [(88, 0x30), (79, 9), (77, 2), (75, 1), (73, 2), (71, 3), (70, 1), (68, 2), (44, 64), (42, 3), (39, 4), (35, 2),
    (19, 300), (18, 1)]) = some (.xatom 0 ⟨9, 2, 1, 2, 3, true, 2, 64, 3, 4, 2, 300, true⟩) ∧
  (∀ e ∈ [Stream.seq, .m, .v, .x], decode e 0 = none ∧ decode e (bitsAt [(88, 0xFF)]) = none ∧ decode e (bitsAt [(88, 0xFE), (0, 1)]) = none) ∧
  decode .seq (bitsAt [(88, 0x01), (81, 1)]) = none

/-- A step of a quiet machine runs what the fetched bytes decode to: X issues first, then M, V and the control stream; bytes
that decode to nothing raise ILLOP (R157), a fetch from the supervisor region in user state PRIV (R303), one beyond the stream
BADPC (R155), one of a word held poisoned POISON (R367); the head of the script is run as it stands, but where the part has no power or no
clock only what gives or takes the supply is.
Rests on choices of the model: log entries 1, 10, 36, 68, 69. -/
def Obligations.StepRunsDecodedWord : Prop :=
  (∀ (s : State) (e : Stream) (bs : List Byte) (i : Instr) (rest : List Byte), Quiet s → TurnOf s.core e →
    fetched s.core e = some bs → decodeBytes e bs = some (i, rest) → step s = Machine.exec i s) ∧
  (∀ (s : State) (bs : List Byte), Quiet s → TurnOf s.core .seq → fetched s.core .seq = some bs → decodeBytes .seq bs = none →
    ∃ t, step s = .next t ∧ SeqTraps s t 0x01 0 false) ∧
  (∀ (s : State) (e : Stream) (bs : List Byte), e ≠ .seq → Quiet s → TurnOf s.core e → fetched s.core e = some bs →
    decodeBytes e bs = none → ∃ t, step s = .next t ∧ EngTrapped s t e 0x01 0) ∧
  (∀ s : State, Quiet s → TurnOf s.core .seq → s.core.seqReady = true →
    let pc := s.core.seq.pc
    (s.core.cur.word pc.toNat = none → ∃ t, step s = .next t ∧ SeqTraps s t 0x07 (pc.setWidth 64) false) ∧
    (∀ bs, s.core.cur.word pc.toNat = some bs →
      (s.core.seq.sup = false → s.core.seq.sbase ≤ pc → ∃ t, step s = .next t ∧ SeqTraps s t 0x02 (pc.setWidth 64) false) ∧
      (s.core.seq.sup = true ∨ pc < s.core.seq.sbase → s.core.cur.wordBad pc.toNat = true →
        ∃ t, step s = .next t ∧ SeqErrs s t 0x19 0))) ∧
  (∀ (s : State) (e : Stream) (r : Running), e ≠ .seq → Quiet s → TurnOf s.core e → (s.core.eng e).run = some r → s.core.wordReady e = true →
    s.core.cur.poisoned (r.base + 12 * r.next) 12 = true → ∃ t, step s = .next t ∧ EngTrapped s t e 0x19 0) ∧
  (∀ (s : State) (i : Instr) (r : List Turn), s.script = .ev i :: r → s.scriptWaits i = false →
    let acts := s.nib.power = true ∧ s.nib.off = false ∨ i = .powerLoss ∨ ∃ im, i = .powerOn im
    (acts → step s = Machine.exec i { s with script := r }) ∧ (¬acts → step s = .next { s with script := r }))

/-- R154, R157, R162-R166: a well-formed instruction's word, and its 12 bytes, decode to it; a word that decodes is the word
of what it decodes to, which is well formed. -/
def Obligations.DecodeAndEncodeAgree : Prop :=
  (∀ (i : Instr) (e : Stream) (rest : List Byte), i.stream? = some e → wf i = true → decode e (encode i) = some i ∧
    decodeBytes e (wordBytes (encode i) ++ rest) = some (i, rest)) ∧
  (∀ (i : Instr) (e : Stream) (w : InstrWord), decode e w = some i → encode i = w ∧ wf i = true ∧ i.stream? = some e)

/-- R70, R173, R279, R305: whatever a step does, FRZLIM stays from 256 to 2^24, s0 reads zero in both banks and in the
checkpoint, RB stays a multiple of four, credits at most 16, and every core keeps one home. -/
def Obligations.RegistersStayLegal : Prop :=
  ∀ s t : State, KeysOk s → (∀ e ∈ s.cores, RegsLegal e.2) → step s = .next t → KeysOk t ∧ ∀ e ∈ t.cores, RegsLegal e.2

/-- Every step keeps every memory in canonical form.
Rests on choices of the model: log entry 5. -/
def Obligations.MemoriesStayCanonical : Prop :=
  ∀ s t : State, Canonical s → step s = .next t → Canonical t

/-- R82, R83: the result of a rounding, in binary32, binary16 and BF16, from any exact nonzero value, is the nearest value of the format (the even
one of two), the next toward zero, up or down, by the mode; NX tells whether it differs; an overflow lies beyond every
finite value and gives the infinity or the greatest value by mode and sign, with OF and NX.
Rests on choices of the model: log entry 64. -/
def Obligations.FloatsRoundOnce : Prop :=
  ∀ f ∈ [binary32, binary16, bfloat16], ∀ (r : RMode) (s : Bool) (m : Nat) (e : Int), m ≠ 0 →
    let x : ℚ := (if s then -1 else 1) * m * 2 ^ e
    let q := roundFp f r s m e false
    (q.2 &&& fOF = 0 → ∃ y : ℚ, finVal (readFp f q.1) = some y ∧ q.1 < 2 ^ f.width ∧ (q.1 / 2 ^ (f.width - 1) = if s then 1 else 0) ∧
      (q.2 &&& fNX = 0 ↔ y = x) ∧
      ∀ (c : Nat) (v : ℚ), c < 2 ^ f.width → finVal (readFp f c) = some v →
        match r with
        | .rne => |x - y| ≤ |x - v| ∧ (|x - y| = |x - v| → y ≠ v → q.1 % 2 = 0)
        | .rtz => |y| ≤ |x| ∧ (|v| ≤ |x| → |v| ≤ |y|)
        | .rup => x ≤ y ∧ (x ≤ v → y ≤ v)
        | .rdn => y ≤ x ∧ (v ≤ x → v ≤ y)) ∧
    (q.2 &&& fOF ≠ 0 → q.2 = fOF ||| fNX ∧
      (∀ (c : Nat) (v : ℚ), c < 2 ^ f.width → finVal (readFp f c) = some v → |v| < |x|) ∧
      q.1 = f.signBit s + (if r = .rne ∨ (r = .rup ∧ s = false) ∨ (r = .rdn ∧ s = true) then f.infBits else f.infBits - 1))

/-- Bringing a core into focus changes no core, and coming back gives the state again. -/
def Obligations.FocusChangesNothing : Prop :=
  ∀ (s : State) (c : Nat), KeysOk s → KeysOk (s.focus c) ∧ (∀ k, (s.focus c).coreAt k = s.coreAt k) ∧
    (Sparse.canon Core.reset s.others = true → (s.focus c).focus s.here = s)

/-- R66, R24: while a core is frozen no word issues on any of its streams, no section starts or checks AFTER, and SCYC holds;
it is frozen while, and only while, one of the causes remains. -/
def Obligations.FrozenCoreStands : Prop :=
  (∀ k : Core, k.frozen = true → (∀ m, k.words = some m → m = .feed) ∧ k.seqMove = none ∧ (∀ e, k.engMove e = none) ∧
    ∀ e, k.mayStart e = false) ∧
  (∀ (s : State) (c : Nat), KeysOk s → (s.coreAt c).frozen = true → (s.pass.coreAt c).seq.scyc = (s.coreAt c).seq.scyc) ∧
  (∀ k : Core, k.frozen = true ↔
    (k.obs.stopped = true ∨ k.seq.frz.bankOn = true ∨ k.seq.lateDue = true ∨ k.seq.frz.lateOn = true ∨
      (∃ a ∈ k.x.accs, a.due = some 0 ∧ k.paused a = false ∧ k.present a = false) ∨
      ((k.seq.frz.align ≠ none ∨ k.seq.frz.bar ≠ none) ∧ k.seq.frz.start = false)))

/-- R177, R174: every register-register word computes its f modulo 2^64 into s[DST] within its bound, goes on to the word at
PC + 1 at cycle c + 1 + GAP, and changes nothing else; its word is laid out as the table gives. -/
def Claim.ScalarRegisterWords : Prop :=
  (∀ row ∈ srTable, ∀ (h : Head) (f : SR) (s : State), RunsOn h [f.sa, f.sb] s →
    ∃ t, exec (row.1 h f) s = .next t ∧ GivesScalar s t h f.dst row.2.1 (row.2.2 (s.reg 0 f.sa) (s.reg 1 f.sb))) ∧
  ∀ x ∈ srTable.zipIdx, ∀ (h : Head) (f : SR),
    encode (x.1.1 h f) = seqBits (0x01 + x.2) h [(73, f.dst.toNat), (68, f.sa.toNat), (63, f.sb.toNat)]

/-- R178: the immediate words, of which `li` has SA zero. -/
def Claim.ScalarImmediateWords : Prop :=
  (∀ row ∈ siTable, ∀ (h : Head) (f : SI) (s : State), Runs h s → RegsClean s (scalars s (scalarReads false (row.1 h f))) →
    ∃ t, exec (row.1 h f) s = .next t ∧ GivesScalar s t h f.dst row.2.1 (row.2.2 (s.reg 0 f.sa) f.imm)) ∧
  (∀ x ∈ siTable.zipIdx, ∀ (h : Head) (f : SI),
    encode (x.1.1 h f) = seqBits (0x11 + x.2) h [(73, f.dst.toNat), (68, f.sa.toNat), (4, f.imm.toNat)]) ∧
  ∀ (w : InstrWord) (h : Head) (f : SI), decode .seq w = some (.li h f) → f.sa = 0

/-- Register and immediate words: result, bound, frame and word. -/
def Obligations.ScalarArithmetic : Prop :=
  Claim.ScalarRegisterWords ∧ Claim.ScalarImmediateWords

/-- R180, R181: compares and predicate logic write their predicate from the next cycle, and nothing else. -/
def Obligations.PredicateWords : Prop :=
  (∀ (h : Head) (f : SPr) (s : State), RunsOn h [f.sa, f.sb] s → f.cond.toNat < 6 →
    ∃ t v, exec (.cmp h f) s = .next t ∧ GivesPred s t h f.pd v ∧ (v = true ↔ condSpec f.cond (s.reg 0 f.sa) (s.reg 1 f.sb))) ∧
  (∀ (h : Head) (f : SPi) (s : State), RunsOn h [f.sa] s → f.cond.toNat < 6 →
    ∃ t v, exec (.cmpi h f) s = .next t ∧ GivesPred s t h f.pd v ∧ (v = true ↔ condSpec f.cond (s.reg 0 f.sa) f.imm)) ∧
  (∀ row ∈ plTable, ∀ (h : Head) (f : PL) (s : State), Runs h s →
    ∃ t, exec (row.1 h f) s = .next t ∧
      GivesPred s t h f.pd (row.2 (s.core.seq.bank.pred f.pa) (s.core.seq.bank.pred f.pb)))

/-- R175, R188: a control-stream word whose guard fails has no effect: it goes on to PC + 1 after its GAP (and a `wait` after
its idle), and nothing else changes. -/
def Claim.GuardFails : Prop :=
  ∀ (i : Instr) (h : Head) (s : State), headOf i = some h → guardHolds s.core.seq.bank h.guard = false →
    (privWord i = true → s.core.seq.sup = true) → badLoop s.core.seq.pc i = false → (exclWord i = true ∨ NoLoopEnds s) →
    ∃ t, exec i s = .next t ∧ WentOn s t (1 + h.gap.toNat + idleOf i) ∧ OnlyMoved s t

/-- R170, R303, R321: a privileged word in user state raises PRIV, whatever its guard, and performs nothing. -/
def Claim.PrivilegedInUserState : Prop :=
  ∀ (i : Instr) (h : Head) (s : State), headOf i = some h → privWord i = true → s.core.seq.sup = false →
    ∃ t, exec i s = .next t ∧ SeqTraps s t 0x02 0 false

/-- R367, R368: a control-stream word that reads a scalar held poisoned raises POISON, and one beside which a check fails lands
no result and raises PIPE; neither performs anything. -/
def Claim.FailedChecks : Prop :=
  (∀ (i : Instr) (h : Head) (s : State), headOf i = some h → guardHolds s.core.seq.bank h.guard = true →
    (privWord i = true → s.core.seq.sup = true) → badLoop s.core.seq.pc i = false →
    ¬RegsClean s (scalars s (scalarReads s.core.seq.half i)) → ∃ t, exec i s = .next t ∧ SeqPoisons s t 0) ∧
  (∀ (h : Head) (s : State), guardHolds s.core.seq.bank h.guard = true → s.core.seq.pipe = true →
    let pipes := fun (i : Instr) => RegsClean s (scalars s (scalarReads s.core.seq.half i)) → ∃ t, exec i s = .next t ∧ SeqErrs s t 0x1A 0
    (∀ row ∈ srTable, ∀ f, pipes (row.1 h f)) ∧ (∀ row ∈ siTable, ∀ f, pipes (row.1 h f)) ∧ (∀ row ∈ plTable, ∀ f, pipes (row.1 h f)) ∧
      (∀ f, pipes (.cmp h f)) ∧ (∀ f, pipes (.cmpi h f)) ∧ (∀ f, pipes (.br h f)) ∧ (∀ f, pipes (.waitWord h f)) ∧ pipes (.nop .seq h) ∧
      (∀ f, pipes (.rdtick h f)) ∧ (∀ f, pipes (.rdscyc h f)) ∧ (∀ f, pipes (.rdlbt h f)) ∧ pipes (.nextTile h) ∧ pipes (.endShareWord h) ∧
      ∀ f, pipes (.fence .seq h f)) ∧
  ∀ (h : Head) (e : Stream) (s : State), e ≠ .seq → (s.core.eng e).pipe = true →
    (∃ t, exec (.nop e h) s = .next t ∧ EngTrapped s t e 0x1A 0) ∧
    ∀ f : FF, ∃ t, exec (.fence e h f) s = .next t ∧ EngTrapped s t e 0x1A 0

/-- R185: at the last word of a body the innermost loop counts down and its body starts again; a loop that runs out leaves
the next outer one to count; with none left the word after follows. The rule holds whether or not the word's guard does. -/
def Claim.LoopEnd : Prop :=
  ∀ (h : Head) (s : State) (j : Fin 4), s.core.seq.pipe = false → LoopEndsHere s j →
    let b := s.core.seq.bank
    (b.lc[j] ≠ 1 → ∃ t, exec (.nop .seq h) s = .next t ∧ WentTo t b.lstart[j] (1 + h.gap.toNat) ∧
      t.core.seq.bank = { b with lc := b.lc.set j (b.lc[j] - 1) } ∧ ControlFrame s t) ∧
    (∀ k : Fin 4, k ≠ j → b.lc[j] = 1 → b.lc[k] ≠ 0 → b.lc[k] ≠ 1 → b.lend[k] = s.core.seq.pc →
      (∀ m : Fin 4, m ≠ j → m ≠ k → b.lc[m] ≠ 0 → b.lend[m] = s.core.seq.pc → b.lstart[m] < b.lstart[k]) →
      ∃ t, exec (.nop .seq h) s = .next t ∧ WentTo t b.lstart[k] (1 + h.gap.toNat) ∧
        t.core.seq.bank = { b with lc := (b.lc.set j 0).set k (b.lc[k] - 1) } ∧ ControlFrame s t) ∧
    (b.lc[j] = 1 → (∀ k : Fin 4, k ≠ j → b.lc[k] ≠ 0 → b.lend[k] ≠ s.core.seq.pc) →
      ∃ t, exec (.nop .seq h) s = .next t ∧ WentTo t (s.core.seq.pc + 1) (1 + h.gap.toNat) ∧
        t.core.seq.bank = { b with lc := b.lc.set j 0 } ∧ t.core.obs.snap.seq = s.core.obs.snap.seq + 1 ∧
        t.core.obs.snap.lend = s.core.seq.pc ∧ TraceOnly s t ∧ MemorySame s t ∧ SeqSame s t ∧
        { t.core with seq := s.core.seq, obs := s.core.obs } = s.core)

/-- Guards, privilege, failed checks and the end of an iteration. Rests on choices of the model: log entry 55. -/
def Obligations.GuardsAndPrivilege : Prop :=
  Claim.GuardFails ∧ Claim.PrivilegedInUserState ∧ Claim.FailedChecks ∧ Claim.LoopEnd

/-- R182: `br`, `call` and `ret`; a full or empty return stack raises RSOVF or RSUNF, stack and PC unchanged. Their
words. -/
def Obligations.Branches : Prop :=
  ∀ (h : Head) (s : State), Acts h s →
    let b := s.core.seq.bank
    (∀ f : SB, ∃ t, exec (.br h f) s = .next t ∧ WentTo t f.tgt (1 + h.gap.toNat) ∧ t.core.seq.bank = b ∧ ControlFrame s t) ∧
    (∀ f : SB, b.depth.toNat < 16 → ∃ t, exec (.call h f) s = .next t ∧ WentTo t f.tgt (1 + h.gap.toNat) ∧
      t.core.seq.bank = { b with stack := b.stack.setIfInBounds b.depth.toNat (s.core.seq.pc + 1), depth := b.depth + 1 } ∧
      ControlFrame s t) ∧
    (b.depth ≠ 0 → ∃ t, exec (.ret h) s = .next t ∧ WentTo t (b.stack[b.depth.toNat - 1]?.getD 0) (1 + h.gap.toNat) ∧
      t.core.seq.bank = { b with depth := b.depth - 1 } ∧ ControlFrame s t) ∧
    (∀ f : SB, 16 ≤ b.depth.toNat → ∃ t, exec (.call h f) s = .next t ∧
      SeqTraps s t 0x08 0 false) ∧
    (b.depth = 0 → ∃ t, exec (.ret h) s = .next t ∧ SeqTraps s t 0x09 0 false) ∧
    (∀ f : SB, encode (.br h f) = seqBits 0x30 h [(59, f.tgt.toNat)] ∧ encode (.call h f) = seqBits 0x31 h [(59, f.tgt.toNat)]) ∧
    encode (.ret h) = seqBits 0x32 h []

/-- R184: a loop word sets its counter and bounds and goes on to the body, or past END where the count is 0; an END
at or before the word itself raises ILLOP. Their words.
Rests on choices of the model: log entry 68. -/
def Obligations.LoopWords : Prop :=
  ∀ (h : Head) (s : State), Acts h s →
    let b := s.core.seq.bank
    let starts := fun (t : State) (lc : BitVec 2) (last : BitVec 14) (n : BitVec 32) =>
      WentTo t (if n = 0 then last + 1 else s.core.seq.pc + 1) (1 + h.gap.toNat) ∧
      t.core.seq.bank = { b with lc := b.lc.set lc.toNat n (lc.isLt), lstart := b.lstart.set lc.toNat (s.core.seq.pc + 1) (lc.isLt),
                                 lend := b.lend.set lc.toNat last (lc.isLt) } ∧ ControlFrame s t
    (∀ f : SLr, s.core.seq.pc.toNat < f.last.toNat → RegsClean s (scalars s [f.sa]) →
      ∃ t, exec (.loopReg h f) s = .next t ∧ starts t f.lc f.last ((s.reg 0 f.sa).setWidth 32)) ∧
    (∀ f : SLi, s.core.seq.pc.toNat < f.last.toNat → ∃ t, exec (.loopi h f) s = .next t ∧ starts t f.lc f.last f.cnt) ∧
    (∀ f : SLi, f.last.toNat ≤ s.core.seq.pc.toNat → 
      ∃ t, exec (.loopi h f) s = .next t ∧ SeqTraps s t 0x01 0 false) ∧
    (∀ f : SLr, f.last.toNat ≤ s.core.seq.pc.toNat → 
      ∃ t, exec (.loopReg h f) s = .next t ∧ SeqTraps s t 0x01 0 false) ∧
    (∀ f : SLr, encode (.loopReg h f) = seqBits 0x34 h [(76, f.lc.toNat), (62, f.last.toNat), (57, f.sa.toNat)]) ∧
    ∀ f : SLi, encode (.loopi h f) = seqBits 0x35 h [(76, f.lc.toNat), (62, f.last.toNat), (30, f.cnt.toNat)]

/-- R187, R59, R15, R303: a DISP appends its section with the parameters as they stand at issue; BADSEC comes before
QFULL; a supervisor's DISP behind thread entries raises SVSEQ. -/
def Claim.Dispatch : Prop :=
  ∀ (h : Head) (f : SD) (s : State), RunsOn h [f.ka, f.kb, f.kc, f.kd] s → f.eng.toNat < 3 → (0xF00 ≤ f.secno.toNat → s.core.seq.sup = true) →
    let e := engOf f.eng
    let q := (s.core.eng e).queue
    (¬(s.core.seq.sup = true ∧ q.any (fun x => !x.sup) = true) →
      (∀ a, s.core.cur.find e f.secno.toNat = some a → q.length < 16 →
        ∃ t n, exec (.disp h f) s = .next t ∧ WentOn s t (1 + h.gap.toNat) ∧ (t.core.eng e).queue = q ++ [n] ∧
          n.secno = f.secno ∧ n.k = #v[s.reg 0 f.ka, s.reg 1 f.kb, s.reg 2 f.kc, s.reg 3 f.kd] ∧ n.sup = s.core.seq.sup ∧
          n.tile.toNat = s.core.share.tile % 2 ^ 40 ∧ n.held = false ∧
          { t.core.eng e with queue := q, disp := (s.core.eng e).disp, last := (s.core.eng e).last } = s.core.eng e ∧
          (∀ d ∈ engines, d ≠ e → t.core.eng d = s.core.eng d) ∧
          { t.core.seq with pc := s.core.seq.pc, wait := s.core.seq.wait, half := s.core.seq.half, rpl := s.core.seq.rpl,
                            count := s.core.seq.count, win := s.core.seq.win, ckpt := s.core.seq.ckpt } = s.core.seq ∧
          { t.core with seq := s.core.seq, obs := s.core.obs, em := s.core.em, ev := s.core.ev, ex := s.core.ex } = s.core ∧
          ObsSame s t ∧ OutsideSame s t ∧ MemorySame s t) ∧
      (∀ a, s.core.cur.find e f.secno.toNat = some a → 16 ≤ q.length → 
        ∃ t, exec (.disp h f) s = .next t ∧ SeqTraps s t 0x05 0 false) ∧
      (s.core.cur.find e f.secno.toNat = none → 
        ∃ t, exec (.disp h f) s = .next t ∧ SeqTraps s t 0x06 0 false)) ∧
    (s.core.seq.sup = true → q.any (fun x => !x.sup) = true → 
      ∃ t, exec (.disp h f) s = .next t ∧ SeqTraps s t 0x1E 0 false)

/-- R314, R317: the DISP of a section whose header carries `tile`, in either state, takes a checkpoint where every queue is empty
and every engine has retired; else RPL is cleared. COUNT starts again, but for the DISP a replay re-issues at its cycle. -/
def Claim.Checkpoint : Prop :=
  ∀ (h : Head) (f : SD) (s : State) (a : Nat), RunsOn h [f.ka, f.kb, f.kc, f.kd] s → f.eng.toNat < 3 →
    (0xF00 ≤ f.secno.toNat → s.core.seq.sup = true) →
    ¬(s.core.seq.sup = true ∧ (s.core.eng (engOf f.eng)).queue.any (fun x => !x.sup) = true) → s.core.cur.find (engOf f.eng) f.secno.toNat = some a → (s.core.eng (engOf f.eng)).queue.length < 16 →
    (s.core.cur.header a).tile = true →
    ∃ t, exec (.disp h f) s = .next t ∧
      (s.core.enginesIdle = true → t.core.seq.rpl = true ∧ ∃ c, t.core.seq.ckpt = some c ∧ c.thr = s.core.seq.thr ∧
        c.word = s.core.seq.pc ∧ c.scyc = s.core.seq.scyc ∧ c.rb = s.core.vec.rb ∧ c.vflg = s.core.vec.flg ∧
        c.tflg = s.core.mat.flg) ∧
      (s.core.enginesIdle = true →
        let again := ∃ c, s.core.seq.ckpt = some c ∧ c.word = s.core.seq.pc ∧ c.scyc = s.core.seq.scyc
        (again → t.core.seq.count = s.core.seq.count) ∧ (¬again → t.core.seq.count = 0)) ∧
      (s.core.enginesIdle = false → t.core.seq.rpl = false)

/-- DISP appends a section, and takes a checkpoint of a replay window. Rests on choices of the model: log entries 19, 56. -/
def Obligations.DispatchWords : Prop :=
  Claim.Dispatch ∧ Claim.Checkpoint

/-- R188, R202: `wait n` idles n more cycles, whether or not its guard holds, and does nothing else, `nop` does nothing and
spends its GAP. Their words; a word with OP 0xFE and a nonzero bit besides GAP and guard raises ILLOP. -/
def Obligations.WaitAndNop : Prop :=
  (∀ (h : Head) (s : State), NoLoopEnds s → s.core.seq.pipe = false →
    (∀ f : SW, ∃ t, exec (.waitWord h f) s = .next t ∧ WentOn s t (1 + f.cnt.toNat + h.gap.toNat) ∧ OnlyMoved s t) ∧
    ∃ t, exec (.nop .seq h) s = .next t ∧ WentOn s t (1 + h.gap.toNat) ∧ OnlyMoved s t) ∧
  (∀ (h : Head) (f : SW), encode (.waitWord h f) = seqBits 0x41 h [(62, f.cnt.toNat)]) ∧
  (∀ h : Head, decode .seq (seqBits 0xFE h []) = some (.nop .seq h)) ∧
  ∀ (w : InstrWord) (s : State), fieldAt w 88 8 = 0xFE#8 → (∀ h : Head, w ≠ seqBits 0xFE h []) → Quiet s → TurnOf s.core .seq →
    fetched s.core .seq = some (wordBytes w) → ∃ t, step s = .next t ∧ SeqTraps s t 0x01 0 false

/-- R57, R58, R189: `next` makes the core's next tile due; `end`, and `next` after the last tile, end the share: queued
sections run on, entries still held among them. -/
def Claim.TileEnds : Prop :=
  ∀ (h : Head) (s : State), Acts h s →
    let sh := s.core.share
    let ends := fun (t : State) => t.core.share = { sh with phase := .ending } ∧
      t.core.seq = { s.core.seq with ended := true, wait := 0, half := false } ∧ OutsideSame s t ∧ MemorySame s t ∧ ObsSame s t ∧
      { t.core with seq := s.core.seq, obs := s.core.obs, share := s.core.share, em := s.core.em, ev := s.core.ev, ex := s.core.ex } = s.core ∧
      ∀ e ∈ engines, t.core.eng e = { s.core.eng e with
        queue := (s.core.eng e).queue.map (fun q => { q with held := false, failed := false }) }
    (sh.tile + sh.n < sh.tiles → ∃ t, exec (.nextTile h) s = .next t ∧
      t.core.share = { sh with phase := .entry, tile := sh.tile + sh.n } ∧ t.core.seq = { s.core.seq with wait := 1, half := false } ∧
      { t.core with seq := s.core.seq, obs := s.core.obs, share := s.core.share } = s.core ∧ ObsSame s t ∧ OutsideSame s t ∧
      MemorySame s t) ∧
    (sh.tiles ≤ sh.tile + sh.n → ∃ t, exec (.nextTile h) s = .next t ∧ ends t) ∧
    (∃ t, exec (.endShareWord h) s = .next t ∧ ends t)

/-- R190, R74, R191: a PALIGN whose target is reached does not freeze, at `.pkg` one that TICKMIN has reached and that a release
received, or one sent whose exit tick has come, covers; another freezes from the next cycle. The tick reads. -/
def Claim.AlignAndTicks : Prop :=
  ∀ (h : Head) (f : SQ) (s : State), Runs h s →
    let g := s.reg 0 f.reg
    let met := if f.scope = 4 then g.toNat ≤ s.tickMin.toNat ∧ ∃ r ∈ (s.die s.myDie).rels, r.part = s.partNum ∧ g.toNat ≤ r.value.toNat ∧
        ∀ x, r.exit = some x → x.toNat ≤ s.tick.toNat
      else g.toNat ≤ s.tick.toNat
    (met → RegsClean s (scalars s [f.reg]) → ∃ t, exec (.palign h f) s = .next t ∧
      WentOn s t (1 + h.gap.toNat) ∧ TraceOnly s t ∧ ObsNoted s t ∧ MemorySame s t ∧
      { t.core with seq := s.core.seq, obs := s.core.obs } = s.core ∧
      { t.core.seq with pc := s.core.seq.pc, wait := s.core.seq.wait, half := s.core.seq.half } = s.core.seq) ∧
    (¬met → RegsClean s (scalars s [f.reg]) → ∃ t, exec (.palign h f) s = .next t ∧
      t.core.seq = { s.core.seq with frz := { s.core.seq.frz with align := some (f.scope, s.reg 0 f.reg), start := true,
                                                                  gap := h.gap, ticks := 0 } } ∧
      OutsideSame s t ∧ MemorySame s t ∧ { t.core with seq := s.core.seq, obs := s.core.obs } = s.core ∧ ObsSame s t) ∧
    (∃ t, exec (.rdtick h f) s = .next t ∧ GivesScalar s t h f.reg 1 s.tick) ∧
    (∃ t, exec (.rdscyc h f) s = .next t ∧ GivesScalar s t h f.reg 1 s.core.seq.scyc) ∧
    (∃ t, exec (.rdlbt h f) s = .next t ∧ GivesScalar s t h f.reg 1 s.core.share.lbt)

/-- next and end, palign, and the tick reads. Rests on choices of the model: log entry 14. -/
def Obligations.TilesAlignmentAndTicks : Prop :=
  Claim.TileEnds ∧ Claim.AlignAndTicks

/-- R145, R224, R322: words that complete where nothing stands against them: a system register read and written, a fence of any
stream, and near loads and stores of vectors and masks. -/
def Claim.WordsComplete : Prop :=
  (∀ (h : Head) (f : SX) (s : State), Runs h s → s.core.badReg = [] → s.core.seq.sup = true → f.sysreg = 0x002 →
    (∃ t, exec (.rdsys h f) s = .next t ∧ WentOn s t (1 + h.gap.toNat) ∧
      t.core.x.flight = s.core.x.flight ++ [seqResult s 2 (.sreg true f.reg s.core.seq.taddr)]) ∧
    ∃ t, exec (.wrsys h f) s = .next t ∧ WentOn s t (1 + h.gap.toNat) ∧ t.core.seq.taddr = s.reg 0 f.reg ∧ MemorySame s t) ∧
  (∀ (e : Stream) (h : Head) (f : FF) (s : State), (e = .seq → Runs h s) → (e ≠ .seq → (s.core.eng e).pipe = false) →
    ∃ t, exec (.fence e h f) s = .next t ∧ OutsideSame s t ∧ MemorySame s t ∧ (e = .seq → WentOn s t (1 + h.gap.toNat)) ∧
      (e ≠ .seq → (t.core.eng e).run = (s.core.eng e).run.map (fun (r : Running) => { r with next := r.next + 1, wait := 1 + h.gap.toNat }))) ∧
  ∀ (g : BitVec 5) (f : VM) (s : State),
    let sh := s.seeSh 10 f.sh
    let n := if widthOf f.ty = 4 then 1 else widthOf f.ty / 8
    let base := ((if f.bk then s.kpar .v f.ki else 0) + f.off.signExtend 64).toNat
    s.core.ev.pipe = false → s.core.badReg = [] → s.core.near.poison = [] → s.core.near.wf = true → f.lvl = false →
      (vmOk f sh = true → f.reg.toNat < 64 → (∀ e, vmMoves s f e → vmAddr s f e % n = 0 ∧ vmAddr s f e + n ≤ 2 ^ 20) → (∃ e, vmMoves s f e) →
        (∃ t l, exec (.vld g f) s = .next t ∧ VLoad s t g 8 l) ∧
        ((∀ a, s.core.nearBusy a = false) → ∃ t, exec (.vst g f) s = .next t ∧ VStore s t g ∧
          MemorySameBut (fun b => ∃ e, vmMoves s f e ∧ vmAddr s f e ≤ b ∧ b < vmAddr s f e + n) s t)) ∧
      (base % 32 = 0 → base + 32 ≤ 2 ^ 20 →
        (∃ t l, exec (.mld g f) s = .next t ∧ VLoad s t g 4 l) ∧
        ((∀ a, s.core.nearBusy a = false) → ∃ t, exec (.mst g f) s = .next t ∧ VStore s t g ∧
          MemorySameBut (fun b => base ≤ b ∧ b < base + 32) s t))

/-- R311, R316, R342, R343, R368, R369, R374, R375, R379-R385, R390: events that complete where their conditions hold: a trap
entered, a window replayed, a launch made ready, aged and staged to outrank, an error recorded, read and cleared, a frame sent
again, and what the debugger and the observers do. -/
def Claim.EventsComplete : Prop :=
  ∀ (s : State) (c p i d b : Nat),
    let u := s.focus c
    let k := u.core
    let q := k.seq
    (∀ r, k.quiet = true → q.traps = [r] → q.draining = true → q.sup = false → q.sen = true → k.frozen = false → q.replays = false → u.stopsOpen = false →
      ¬(k.share.stop = true ∧ k.share.fault = true) → ∃ t, exec (.trapEntry c) s = .next t ∧ t.core.seq.sup = true ∧ t.core.seq.pc = q.sbase ∧
        t.core.seq.tpc = r.resume.getD q.pc ∧ t.core.seq.taddr = r.addr ∧ t.core.seq.traps = []) ∧
    (∀ r w, k.quiet = true → q.traps = [r] → r.cause = 0x19 → q.draining = true → q.sup = false → q.rpl = true → q.count.toNat < 3 → q.ckpt = some w →
      k.frozen = false → ¬(k.share.stop = true ∧ k.share.fault = true) → ∃ t, exec (.replay c) s = .next t ∧ t.core.seq.pc = w.word ∧ t.core.seq.scyc = w.scyc ∧
        t.core.seq.thr = w.thr ∧ t.core.seq.count = q.count + 1 ∧ t.core.seq.traps = []) ∧
    (∀ x l, s.part? p = some x → x.table[i]? = some l →
      (l.ready = false → l.status = none → (∀ j < 3, (l.w 6).getLsbD (60 + j) = false) → ∃ t, exec (.launchReady p i) s = .next t ∧
        PartNow s t p (x.withLaunch l.num (fun m => { m with ready := true, status := none }))) ∧
      (x.age ≠ 0 → l.ready = true → l.running = false → l.prio < 3 → x.age.toNat ≤ l.age → ∃ t, exec (.agingStep p i) s = .next t ∧
        PartNow s t p (x.withLaunch l.num (fun m => { m with prio := m.prio + 1, age := m.age - x.age.toNat }))) ∧
      (∀ r, KeysOk s → x.pen = true → l.ready = true → l.status = none → l.resident = false → l.running = false → (∀ m ∈ x.table, m.resident = false ∧
        m.accepting = false ∧ m.outrank = false) → x.table.find? (fun m => m.running) = some r → r.status = none → r.prio < l.startPrio →
          l.bad (s.members x).length = false → ∃ t, exec (.outrankPreempt p i) s = .next t ∧ PartNow s t p (x.withLaunch l.num (fun m => { m with outrank := true })))) ∧
    (d < 4 → b < 16 →
      (∀ ev : ErrEv, ev.ofCore = false → ev.src = 0x38 → ev.kind = 0x01 → ∃ t, exec (.errorEvent d ev) s = .next t ∧ BankTook s t d 15 ev) ∧
      (s.hostUp = true → (∃ t, exec (.errorBankRead d b) s = .next t ∧ t.hostLog = s.hostLog ++ [.data (bytesOfNat 8 (s.bank d b)[0].toNat) false]) ∧
        ∃ t, exec (.errorRecordClear d b) s = .next t ∧ { t with dies := s.dies, free := s.free } = s ∧ ((s.die d).today = [] → ∀ w, (t.die d).banks[b]? = some w → w[0] = 0)) ∧
      ∃ t, exec (.frameRetry (.network d) true) s = .next t ∧ BankTook s t d 14 (plainEvent 0x06 0x31 127 0 0)) ∧
    (u.myDie < 4 → k.obs.wdog ≠ 0 → k.obs.wdog.toNat ≤ k.obs.wdogCnt → ∃ t, exec (.watchdogExpiry c) s = .next t ∧ t.core.obs.wdogCnt = 0) ∧
    (u.hostUp = true → k.obs.bfrozen = true → ∃ t, exec (.blotterUnfreeze c) s = .next t ∧ t.core = { k with obs := { k.obs with bfrozen := false } }) ∧
    (∀ x, s.part? p = some x → x.tren = true → d < 4 → s.membersOn x d ≠ [] → 2 ^ 20 ≤ ((s.die d).ring p).sinceMark → ∃ t, exec (.clockMark p d) s = .next t ∧
      ((t.die d).ring p).sinceMark = 0) ∧
    (u.nib.debugOpen = true → u.nib.scope = 7 →
      (k.obs.stopped = false → ∃ t, exec (.debugStop c 0) s = .next t ∧ t.core.obs.stopped = true ∧ t.core.obs.code = 0) ∧
      (k.obs.stopped = true → (∃ t, exec (.debugRun c) s = .next t ∧ t.core = { k with obs := { k.obs with stopped := false, steps := none } }) ∧
        (∃ t, exec (.debugStep c 1) s = .next t ∧ t.core = { k with obs := { k.obs with stopped := false, steps := some 1 } }) ∧
        (k.x.flight = [] → k.mat.loads = [] → k.mat.feeds = [] → ∀ v : BitVec 4096, ∃ t, exec (.debugWrite c (.vreg 0) v) s = .next t ∧ t.core.vec.v[0] = v))) ∧
    (k.obs.steps = some 0 → k.obs.stopped = false → ∃ t, exec (.stepEnd c) s = .next t ∧ t.core.obs.stopped = true ∧ t.core.obs.code = 0 ∧ t.core.obs.steps = none)

/-- Words and events that complete where nothing stands against them. -/
def Obligations.FormsComplete : Prop :=
  Claim.WordsComplete ∧ Claim.EventsComplete

/-- R201, R166, R141, R145: a control-stream `fence` keeps the pending accesses of its stream that it orders, of which a barrier
arrival is none; nothing else changes. -/
def Claim.ControlFence : Prop :=
  ∀ (h : Head) (s : State), Runs h s →
    ∀ f : FF, ∃ t, exec (.fence .seq h f) s = .next t ∧ WentOn s t (1 + h.gap.toNat) ∧ OutsideSame s t ∧ MemorySame s t ∧
      { t.core with seq := s.core.seq, obs := s.core.obs, fences := s.core.fences } = s.core ∧ ObsSame s t ∧
      { t.core.seq with pc := s.core.seq.pc, wait := s.core.seq.wait, half := s.core.seq.half } = s.core.seq ∧
      ∀ a ∈ s.core.unperformed, a.strm = .seq → (∀ b sc c fn v, a.kind ≠ .arrive b sc c fn v) → f.mask.getLsbD a.cls.toNat = true → a.reach ≤ f.scope.toNat →
        ∃ x ∈ t.core.fences, x.1 = f.mask ∧ x.2.1 = f.scope.toNat ∧ a.id ∈ x.2.2

/-- R269, R166, R141: `fence` and `nop` of an engine stream: the next word follows after GAP; a fence keeps the pending accesses
of its stream that it orders; nothing else changes. -/
def Claim.EngineFenceNop : Prop :=
  ∀ e ∈ engines, ∀ (h : Head) (s : State),
    (s.core.eng e).pipe = false → (∃ t, exec (.nop e h) s = .next t ∧ EngWent s t e h.gap ∧ OutsideSame s t ∧ MemorySame s t ∧ ObsSame s t ∧
      { t.core with obs := s.core.obs, em := s.core.em, ev := s.core.ev, ex := s.core.ex } = s.core ∧
      ∀ d ∈ engines, d ≠ e → t.core.eng d = s.core.eng d) ∧
    (∀ f : FF, ∃ t, exec (.fence e h f) s = .next t ∧ OutsideSame s t ∧ MemorySame s t ∧ ObsSame s t ∧
      { t.core with obs := s.core.obs, em := s.core.em, ev := s.core.ev, ex := s.core.ex } = s.core ∧
      (∀ d ∈ engines, d ≠ e → t.core.eng d = s.core.eng d) ∧
      { t.core.eng e with fences := (s.core.eng e).fences } = { s.core.eng e with
        pipe := false, run := (s.core.eng e).run.map (fun (r : Running) => { r with next := r.next + 1, wait := 1 + h.gap.toNat }) } ∧
      ∀ a ∈ s.core.unperformed, a.strm = e → f.mask.getLsbD a.cls.toNat = true → a.reach ≤ f.scope.toNat →
        ∃ x ∈ (t.core.eng e).fences, x.1 = f.mask ∧ x.2.1 = f.scope.toNat ∧ a.id ∈ x.2.2)

/-- fence of every stream, nop of the engines. -/
def Obligations.Fences : Prop :=
  Claim.ControlFence ∧ Claim.EngineFenceNop

/-- R193, near: `ld` reads its bytes at issue, little-endian, and lands within 4 cycles; `st` writes its bytes and no other.
A poisoned word raises POISON. Out of range both raise XRANGE; a store into a pending slot raises XBUSY; nothing is performed. -/
def Claim.NearLoadStore : Prop :=
  ∀ (h : Head) (f : SM) (s : State), RunsOn h [f.base] s → f.lvl = false →
    let ea := smAddr s f
    let nb := 2 ^ f.w.toNat
    let clean := RegsClean s (scalars s [f.reg])
    (ea + nb ≤ 2 ^ 20 → s.core.near.poisoned ea nb = false → ∃ t v, exec (.ld h f) s = .next t ∧ NearLoaded s ea nb v ∧
      GivesSeq s t h 4 (.sreg s.core.seq.sup f.reg (BitVec.ofNat 64 v))) ∧
    (ea + nb ≤ 2 ^ 20 → s.core.near.poisoned ea nb = true → ∃ t, exec (.ld h f) s = .next t ∧
      SeqPoisons s t (BitVec.ofNat 64 ea)) ∧
    (clean → ea + nb ≤ 2 ^ 20 → (slotsOf ea nb).any s.core.nearBusy = false → s.core.near.wf = true → ∃ t, exec (.st h f) s = .next t ∧
      WentOn s t (1 + h.gap.toNat) ∧ NearStored s t ea nb (s.reg 1 f.reg).toNat ∧ OutsideSame s t ∧ CoreSameButNear s t ∧
      SeqSameButReplay s t ∧ t.core.seq.bank = s.core.seq.bank ∧ t.core.x = s.core.x) ∧
    (2 ^ 20 < ea + nb → 
      (∃ t, exec (.ld h f) s = .next t ∧ SeqTraps s t 0x0A (BitVec.ofNat 64 ea) false) ∧
      (clean → ∃ t, exec (.st h f) s = .next t ∧ SeqTraps s t 0x0A (BitVec.ofNat 64 ea) false)) ∧
    (clean → ea + nb ≤ 2 ^ 20 → (slotsOf ea nb).any s.core.nearBusy = true →
      ∃ t, exec (.st h f) s = .next t ∧ SeqTraps s t 0x0B (BitVec.ofNat 64 ea) false)

/-- R193, R172, die: a load or store in range becomes an access of its class at its die byte address, a load with its arrival
cycle, a store with the bound of 64 cycles where its homes lie on the core's die, 192 elsewhere; out of range it raises XRANGE, into a slot pending under an exchange of the core a store raises XBUSY. -/
def Claim.DieLoadStore : Prop :=
  ∀ (h : Head) (f : SM) (s : State), RunsOn h [f.base] s → f.lvl = true →
    let ea := smAddr s f
    let nb := 2 ^ f.w.toNat
    let clean := RegsClean s (scalars s [f.reg])
    (s.dieOk ea nb = true → ∃ t, exec (.ld h f) s = .next t ∧ WentOn s t (1 + h.gap.toNat) ∧ AccFrame s t ∧
      AccAdded s t .seq f.cls (if f.ordq = 1 ∨ f.ordq = 3 then f.scope.toNat else 0) 0 (some f.arr.toNat) none
        [{ sp := .die, addr := ea, len := nb }] (fun k => ∃ ps, k = .load ps (.sreg s.core.seq.sup f.reg) ∧
          ps.all (fun p => !p.done) = true ∧ ps.map Piece.addr = if ea % nb = 0 then [ea] else (List.range nb).map (ea + ·))) ∧
    (clean → s.dieOk ea nb = true → (slotsOf ea nb).any s.core.diePendingOwn = false → ∃ t, exec (.st h f) s = .next t ∧
      WentOn s t (1 + h.gap.toNat) ∧ AccFrame s t ∧
      AccAdded s t .seq f.cls 0 (if f.ordq = 2 ∨ f.ordq = 3 then f.scope.toNat else 0) none
        (some (if s.reachDie s.myMembersOn ea nb ≤ 3 then 64 else 192))
        [{ sp := .die, addr := ea, len := nb }] (fun k => ∃ ps, k = .store ps ∧ ps.all (fun p => !p.done) = true ∧
          ps.flatMap Piece.data = (List.range nb).map (fun i => BitVec.ofNat 8 ((s.reg 1 f.reg).toNat / 256 ^ i)))) ∧
    (s.dieOk ea nb = false → 
      (∃ t, exec (.ld h f) s = .next t ∧ SeqTraps s t 0x0A (BitVec.ofNat 64 ea) false) ∧
      (clean → ∃ t, exec (.st h f) s = .next t ∧ SeqTraps s t 0x0A (BitVec.ofNat 64 ea) false)) ∧
    (clean → s.dieOk ea nb = true → (slotsOf ea nb).any s.core.diePendingOwn = true →
      ∃ t, exec (.st h f) s = .next t ∧ SeqTraps s t 0x0B (BitVec.ofNat 64 ea) false)

/-- ld and st, near and die. -/
def Obligations.ScalarMemory : Prop :=
  Claim.NearLoadStore ∧ Claim.DieLoadStore

/-- R195, R196: `shld` loads a 64-byte image within 4 cycles (MISAL off a multiple of 64, XRANGE beyond 2^20, POISON from a poisoned word); `shset` writes
a field from the low bits of a scalar; `shget` reads a field zero-extended, ALSB sign-extended. -/
def Obligations.ShapeWords : Prop :=
  (∀ (h : Head) (f : SM) (s : State), RunsOn h [f.base] s →
    let ea := smAddr s f
    (ea % 64 = 0 → ea + 64 ≤ 2 ^ 20 → s.core.near.poisoned ea 64 = false → ∃ t v, exec (.shld h f) s = .next t ∧
      NearLoaded s ea 64 v ∧ GivesSeq s t h 4 (.shape (f.reg.setWidth 4) (BitVec.allOnes 512) (BitVec.ofNat 512 v))) ∧
    (ea % 64 = 0 → ea + 64 ≤ 2 ^ 20 → s.core.near.poisoned ea 64 = true → ∃ t, exec (.shld h f) s = .next t ∧
      SeqPoisons s t (BitVec.ofNat 64 ea)) ∧
    (ea % 64 ≠ 0 → 
      ∃ t, exec (.shld h f) s = .next t ∧ SeqTraps s t 0x0C (BitVec.ofNat 64 ea) false) ∧
    (ea % 64 = 0 → 2 ^ 20 < ea + 64 → 
      ∃ t, exec (.shld h f) s = .next t ∧ SeqTraps s t 0x0A (BitVec.ofNat 64 ea) false)) ∧
  (∀ (h : Head) (f : SS) (s : State), Runs h s → f.sel.toNat < 17 →
    let lo := (selField f.sel.toNat).1
    let w := (selField f.sel.toNat).2
    (RegsClean s (scalars s [f.reg]) → ∃ t, exec (.shset h f) s = .next t ∧ WentOn s t (1 + h.gap.toNat) ∧
      (∀ i : Fin 16, ∀ b < 512, (t.core.vec.sh[i]).getLsbD b =
        if i.val = f.sh.toNat ∧ lo ≤ b ∧ b < lo + w then (s.reg 0 f.reg).getLsbD (b - lo) else (s.core.vec.sh[i]).getLsbD b) ∧
      OutsideSame s t ∧ MemorySame s t ∧ SeqSameButReplay s t ∧ t.core.seq.bank = s.core.seq.bank ∧ EngineSame s t ∧
      (∀ b ∈ t.core.badReg, b ∈ s.core.badReg) ∧ (∀ b ∈ s.core.badReg, ¬(b.1 = 2 ∧ b.2.1 = f.sh.toNat) → b ∈ t.core.badReg) ∧
      { t.core with seq := s.core.seq, x := s.core.x, obs := s.core.obs, badReg := s.core.badReg,
                    vec := { t.core.vec with sh := s.core.vec.sh } } = s.core) ∧
    (RegsClean s [(2, f.sh.toNat)] → ∃ t, exec (.shget h f) s = .next t ∧ WentOn s t (1 + h.gap.toNat) ∧
      ScalarResult s t f.reg 1 (if f.sel = 11
        then BitVec.ofInt 64 ((fieldAt (s.seeSh 1 f.sh) 140 10 : BitVec 10).toInt)
        else BitVec.ofNat 64 ((s.seeSh 1 f.sh).toNat / 2 ^ lo % 2 ^ w)) ∧
      OutsideSame s t ∧ MemorySame s t ∧ CoreSameButMarks s t ∧ SeqSameButReplay s t ∧ BankSame s t ∧ EngineSame s t ∧ AccsSame s t) ∧
    (¬RegsClean s [(2, f.sh.toNat)] → ∃ t, exec (.shget h f) s = .next t ∧ SeqPoisons s t 0))

/-- R198, R199, R313: `bar.init` sets a slot's count and scope and clears its marks; an arrival sets the arrival mark and adds one
access, a release at the scope; a wait whose done mark is set goes on at once and clears both marks, another freezes, and so
does a word resumed in its wait half. -/
def Claim.BarrierWords : Prop :=
  ∀ (h : Head) (f : SN) (s : State), Runs h s → Sparse.canon BSlot.zero s.core.seq.bslots = true →
    let sl := s.core.seq.slot f.bar.toNat
    let arrives := fun (t : State) (fn : Option (BitVec 3)) (v : Word) =>
      (t.core.seq.slot f.bar.toNat).arrived = true ∧ (t.core.seq.slot f.bar.toNat).c = sl.c ∧
      (∀ b, b ≠ f.bar.toNat → t.core.seq.slot b = s.core.seq.slot b) ∧
      t.core.x.nid = s.core.x.nid + 1 ∧ EngineSame s t ∧ t.core.x.flight = s.core.x.flight ∧
      (∃ a ∈ t.core.x.accs, a.id = s.core.x.nid ∧ a.acq = 0 ∧ a.foot = [] ∧ a.rel = f.scope.toNat ∧ a.kind = .arrive f.bar f.scope sl.c fn v) ∧
      ∀ b ∈ s.core.x.accs, b.id ≠ s.core.x.nid → b ∈ t.core.x.accs
    let freezes := fun (t : State) (dst : Option (BitVec 5)) =>
      t.core.seq.frz.bar = some { bar := f.bar, scope := f.scope, dst := dst } ∧ t.core.seq.frz.gap = h.gap ∧
      t.core.seq.pc = s.core.seq.pc
    let clean := RegsClean s (scalars s [f.sa])
    (clean → sl.arrived = false → s.reg 0 f.sa ≠ 0 → (s.reg 0 f.sa).toNat ≤ s.groupSize f.scope →
      ∃ t, exec (.barInit h f) s = .next t ∧ WentOn s t (1 + h.gap.toNat) ∧ SlotFrame s t ∧ t.core.x = s.core.x ∧
        (∀ b, t.core.seq.slot b = if b = f.bar.toNat then
          { c := (s.reg 0 f.sa).setWidth 20, scope := f.scope, arrived := false, done := false }
          else s.core.seq.slot b)) ∧
    (sl.c ≠ 0 → sl.scope = f.scope → sl.arrived = false →
      (∃ t, exec (.barArr h f) s = .next t ∧ WentOn s t (1 + h.gap.toNat) ∧ SlotFrame s t ∧ arrives t none 0) ∧
      (sl.done = false → s.core.seq.half = false →
        (∃ t, exec (.barSync h f) s = .next t ∧ SlotFrame s t ∧ arrives t none (s.reg 0 f.sa) ∧ freezes t none) ∧
        (clean → ∃ t, exec (.barRed h f) s = .next t ∧ SlotFrame s t ∧ arrives t (some f.fn) (s.reg 0 f.sa) ∧ freezes t (some f.dst)))) ∧
    (sl.arrived = true → sl.done = false → s.core.seq.half = true →
      let stays := fun (t : State) => SlotFrame s t ∧ t.core.x = s.core.x ∧ (∀ b, t.core.seq.slot b = s.core.seq.slot b)
      (∃ t, exec (.barSync h f) s = .next t ∧ stays t ∧ freezes t none) ∧ ∃ t, exec (.barRed h f) s = .next t ∧ stays t ∧ freezes t (some f.dst)) ∧
    (sl.arrived = true → sl.done = false → ∃ t, exec (.barWait h f) s = .next t ∧ SlotFrame s t ∧ t.core.x = s.core.x ∧
      (∀ b, t.core.seq.slot b = s.core.seq.slot b) ∧ freezes t none) ∧
    (sl.done = true →
      (∀ r ∈ s.core.seq.results, r.launch = s.core.share.launch → r.sup = s.core.seq.sup → r.bar = f.bar → r.bad = false) →
      ∃ t, exec (.barWait h f) s = .next t ∧ WentOn s t (1 + h.gap.toNat) ∧ TraceOnly s t ∧ MemorySame s t ∧ { t.core with seq := s.core.seq, obs := s.core.obs } = s.core ∧
      t.core.seq.thr = s.core.seq.thr ∧ t.core.seq.svr = s.core.seq.svr ∧
      ∀ b, t.core.seq.slot b = if b = f.bar.toNat then { sl with arrived := false, done := false } else s.core.seq.slot b)

/-- R199: BARBUSY for a `bar.init` while the arrival mark is set; BARSEQ for a count of 0 or above the group's cores, for an
arrival on a slot with C = 0, of another scope or with an arrival outstanding, and for a wait with neither mark. -/
def Claim.BarrierFates : Prop :=
  ∀ (h : Head) (f : SN) (s : State), Runs h s → 
    let sl := s.core.seq.slot f.bar.toNat
    let ad := BitVec.ofNat 64 f.bar.toNat
    let clean := RegsClean s (scalars s [f.sa])
    (clean → sl.arrived = true → ∃ t, exec (.barInit h f) s = .next t ∧ SeqTraps s t 0x0D ad false) ∧
    (clean → sl.arrived = false → (s.reg 0 f.sa = 0 ∨ s.groupSize f.scope < (s.reg 0 f.sa).toNat) →
      ∃ t, exec (.barInit h f) s = .next t ∧ SeqTraps s t 0x0E ad false) ∧
    ((sl.c = 0 ∨ sl.scope ≠ f.scope ∨ sl.arrived = true) →
      (∃ t, exec (.barArr h f) s = .next t ∧ SeqTraps s t 0x0E ad false) ∧
      (s.core.seq.half = false →
        (∃ t, exec (.barSync h f) s = .next t ∧ SeqTraps s t 0x0E ad false) ∧
        (clean → ∃ t, exec (.barRed h f) s = .next t ∧ SeqTraps s t 0x0E ad false))) ∧
    (sl.arrived = false → sl.done = false → (∃ t, exec (.barWait h f) s = .next t ∧ SeqTraps s t 0x0E ad false) ∧
      (s.core.seq.half = true → (∃ t, exec (.barSync h f) s = .next t ∧ SeqTraps s t 0x0E ad false) ∧
        ∃ t, exec (.barRed h f) s = .next t ∧ SeqTraps s t 0x0E ad false))

/-- The barrier words and their fates. Rests on choices of the model: log entries 46, 68. -/
def Obligations.Barriers : Prop :=
  Claim.BarrierWords ∧ Claim.BarrierFates

/-- R203, R311, R304, R307: `trap n` raises SWTRAP with TADDR = n and `brk` BREAK, each resuming at the word after. On a
drained core TPC is that word's index, TINFO names the word and its cause, S is set and PC goes to SBASE; with no supervisor
the share ends with FAULT; with results or sections under way the trap is recorded and the core drains. A failed guard falls through. Their words. -/
def Obligations.TrapWords : Prop :=
  (∀ (h : Head) (s : State), guardHolds s.core.seq.bank h.guard = true →
    (∀ f : SW, ∃ t, exec (.trapWord h f) s = .next t ∧ SeqTraps s t 0x17 (f.cnt.setWidth 64) true) ∧
    ∃ t, exec (.brk h) s = .next t ∧ SeqTraps s t 0x18 0 true) ∧
  (∀ (h : Head) (s : State), guardHolds s.core.seq.bank h.guard = false →
    (∀ f : SW, ∃ t, exec (.trapWord h f) s = .next t ∧ WentOn s t (1 + h.gap.toNat) ∧ OnlyMoved s t) ∧
    ∃ t, exec (.brk h) s = .next t ∧ WentOn s t (1 + h.gap.toNat) ∧ OnlyMoved s t) ∧
  (∀ (h : Head) (f : SW), encode (.trapWord h f) = seqBits 0x70 h [(62, f.cnt.toNat)]) ∧
  ∀ h : Head, encode (.brk h) = seqBits 0x71 h []

/-- R323, R347, R58, R198: `sret` restores S, PC and the wait half; after a fresh `pswap` it ignores TPC and the core waits for its
start token; `sret.fault`, and `sret` under a launch stop, end the share with FAULT. -/
def Claim.SupervisorReturns : Prop :=
  ∀ (h : Head) (s : State), Acts h s → s.core.seq.sup = true →
    let same := fun (t : State) => OutsideSame s t ∧ MemorySame s t ∧ t.core.seq.thr = s.core.seq.thr ∧
      t.core.seq.svr = s.core.seq.svr ∧ t.core.seq.scyc = s.core.seq.scyc ∧ t.core.vec = s.core.vec ∧
      t.core.mat = s.core.mat ∧ t.core.x = s.core.x
    let faults := fun (t : State) => t.core.share.fault = true ∧ t.core.share.phase = .ending ∧ t.core.seq.ended = true ∧
      t.core.seq.sup = false ∧ (∀ e ∈ engines, (t.core.eng e).queue = []) ∧ same t
    (s.core.share.stop = false → s.core.seq.fresh = false → ∃ t, exec (.sret h) s = .next t ∧
      t.core.seq = { s.core.seq with
        sup := s.core.seq.ps, pc := s.core.seq.tpc, half := s.core.seq.rw, rw := false, ended := s.core.seq.tpcEnd, tpcEnd := false,
        late := none, wait := 1 + h.gap.toNat, fresh := false, back := 1 + h.gap.toNat, bslots := t.core.seq.bslots } ∧
      (∀ b, { t.core.seq.slot b with done := (s.core.seq.slot b).done } = s.core.seq.slot b) ∧
      { t.core with seq := s.core.seq, obs := s.core.obs, em := s.core.em, ev := s.core.ev, ex := s.core.ex } = s.core ∧ same t ∧
      (s.core.seq.tpcEnd = false → ∀ e ∈ engines, t.core.eng e = s.core.eng e) ∧
      (s.core.seq.tpcEnd = true → ∀ e ∈ engines, ∀ q ∈ (t.core.eng e).queue, q.held = false)) ∧
    (s.core.share.stop = false → s.core.seq.fresh = true → ∃ t, exec (.sret h) s = .next t ∧
      t.core.seq.sup = false ∧ t.core.seq.pc = 0 ∧ t.core.seq.ended = true ∧
      t.core.share = { s.core.share with phase := .flipped } ∧ same t) ∧
    (s.core.seq.late = none → ∃ t, exec (.sretFault h) s = .next t ∧ faults t) ∧
    (s.core.share.stop = true → s.core.seq.late = none → ∃ t, exec (.sret h) s = .next t ∧ faults t)

/-- R324, R70: `lres` returns to the frozen point with the same requests outstanding and the count of FRZLIM at 0; `labn`
first abandons every late request of the thread: an `xland` discards the payload it would claim, or the one to come, an exchange lets its locks go,
an atomic keeps no destination, a barrier wait withdraws its arrival and clears its slot's marks. Outside a LATE entry both raise SVSEQ. -/
def Claim.LateReturns : Prop :=
  ∀ (h : Head) (s : State), Acts h s → s.core.seq.sup = true →
    (∀ f, s.core.seq.late = some f →
      (∃ t, exec (.lres h) s = .next t ∧ t.core.seq.sup = s.core.seq.ps ∧ t.core.seq.pc = f.pc ∧ t.core.seq.wait = f.wait ∧
        t.core.seq.ended = f.ended ∧ t.core.seq.late = none ∧ t.core.seq.frz = { f.freeze with run := 0 } ∧
        t.core.x = s.core.x ∧ t.core.vec = s.core.vec ∧ t.core.mat = s.core.mat ∧ t.core.seq.thr = s.core.seq.thr ∧
        t.core.seq.svr = s.core.seq.svr ∧ t.core.share = s.core.share ∧ OutsideSame s t ∧ MemorySame s t) ∧
      let gone := fun (a : Acc) => a.late = true ∧ a.id < f.nid
      ∃ t, exec (.labn h) s = .next t ∧ t.core.seq.sup = s.core.seq.ps ∧ t.core.seq.late = none ∧ t.core.seq.frz = Freeze.none ∧
        (∀ a ∈ s.core.x.accs, gone a → ∀ b ∈ t.core.x.accs, b.id = a.id → ∃ x, b.kind = .atom x ∧ x.dst = none) ∧
        (∀ a ∈ s.core.x.accs, gone a → (∀ x, a.kind ≠ .atom x) → ∀ l ∈ t.locks, ¬(l.core = s.here ∧ l.id = a.id)) ∧
        (∀ a ∈ s.core.x.accs, (∀ b ∈ s.core.x.accs, gone b → b.id ≠ a.id) →
          (∀ w, f.freeze.bar = some w → ∀ c fn v, a.kind ≠ .arrive w.bar w.scope c fn v) → a ∈ t.core.x.accs) ∧
        (∀ a ∈ s.core.x.accs, gone a → ∀ p src tag ad n, a.kind = .land p src tag ad n → s.core.claim a = none →
          (s.core.share.launch, p, src, tag) ∈ t.core.x.voids) ∧
        (∀ a i, s.core.x.accs.filter (fun b => b.late && decide (b.id < f.nid)) = [a] → (∃ p src tag ad n, a.kind = .land p src tag ad n) →
          s.core.claim a = some i → t.core.x.landing = s.core.x.landing.take i ++ s.core.x.landing.drop (i + 1)) ∧
        (∀ w, f.freeze.bar = some w → ∀ o ∈ t.barriers, o.part = s.partNum → o.bar = w.bar → o.scope = w.scope →
          o.group = groupOf s.here w.scope → ∀ x ∈ o.got, x.core = s.here → x.sup = true) ∧
        (∀ w, f.freeze.bar = some w → Sparse.canon BSlot.zero s.core.seq.bslots = true → (t.core.seq.slot w.bar.toNat).arrived = false ∧ (t.core.seq.slot w.bar.toNat).done = false) ∧
        (f.freeze.bar = none → f.freeze.align = none → t.core.seq.pc = f.pc ∧ t.core.seq.wait = f.wait) ∧
        t.core.vec = s.core.vec ∧ t.core.mat = s.core.mat ∧ MemorySame s t) ∧
    (s.core.seq.late = none → 
      (∃ t, exec (.lres h) s = .next t ∧ SeqTraps s t 0x1E 0 false) ∧
      ∃ t, exec (.labn h) s = .next t ∧ SeqTraps s t 0x1E 0 false)

/-- sret, sret.fault, lres and labn. Rests on choices of the model: log entries 14, 15, 57. -/
def Obligations.SupervisorReturns : Prop :=
  Claim.SupervisorReturns ∧ Claim.LateReturns

/-- R325, R326, R254, R344, R346, R347: `drain` releases every held entry; `pswap` on an empty core swaps the planes, empties both
latches and goes to the new SBASE, with the plane's initial state where KIND of the switch record is 1; a core not empty raises PSEQ. -/
def Claim.QueuesAndPlanes : Prop :=
  ∀ (h : Head) (s : State), Acts h s → s.core.seq.sup = true →
    let kind1 := ∃ p x, s.myPart = some (p, x) ∧ x.swkind = 1
    (NoLoopEnds s → ∃ t, exec (.drain h) s = .next t ∧ WentOn s t (1 + h.gap.toNat) ∧ OutsideSame s t ∧ MemorySame s t ∧
      (∀ e ∈ engines, t.core.eng e = { s.core.eng e with
        queue := (s.core.eng e).queue.map (fun q => { q with held := false, failed := false }) }) ∧
      { t.core.seq with pc := s.core.seq.pc, wait := s.core.seq.wait, half := s.core.seq.half } = s.core.seq ∧ ObsSame s t ∧
      { t.core with seq := s.core.seq, obs := s.core.obs, em := s.core.em, ev := s.core.ev, ex := s.core.ex } = s.core) ∧
    (s.core.holding = false → s.core.x.accs.any Acc.pends = false → s.core.enginesIdle = true →
      ∃ t, exec (.pswap h) s = .next t ∧ t.core.seq.pc = s.core.shd.sbase ∧ t.core.seq.sbase = s.core.shd.sbase ∧
        t.core.seq.sup = true ∧ t.core.seq.tpc = s.core.seq.tpc ∧ t.core.seq.svr = s.core.seq.svr ∧ t.core.shd = s.core.cur ∧
        t.core.cur = { s.core.shd with init := false } ∧ (t.core.seq.fresh = true ↔ kind1) ∧
        (∀ p x, s.myPart = some (p, x) → t.core.seq.sen = (x.desc.sen && s.core.shd.sen)) ∧ OutsideSame s t ∧
        (∀ w : Fin 2, t.core.mat.wl[w].full = false) ∧
        (¬kind1 → t.core.seq.thr = s.core.seq.thr ∧ t.core.vec = s.core.vec ∧ { t.core.mat with wl := s.core.mat.wl } = s.core.mat ∧
          t.core.seq.bslots = s.core.seq.bslots ∧ t.core.seq.scyc = s.core.seq.scyc ∧ MemorySame s t) ∧
        (kind1 → t.core.seq.thr = Bank.zero ∧ t.core.seq.scyc = 0 ∧ t.core.seq.bslots = [] ∧
          t.core.mat = Mat.reset ∧ t.core.vec = { Vec.reset with sh := shapesOf s.core.shd.shapes } ∧
          t.core.near = nearOfImages s.core.shd.slots)) ∧
    ((s.core.holding = true ∨ s.core.x.accs.any Acc.pends = true ∨ s.core.enginesIdle = false) → 
      ∃ t, exec (.pswap h) s = .next t ∧ SeqTraps s t 0x1C 0 false)

/-- R327-R330: the privileged words whose effect comes at a bound put it in flight: invalidations 256 cycles, `errrd` and
`errclr` 8, `parkrd` 64, `bar.kill` 128. `errrd` sees only its partition's records and sets SEEN by reading word 0, here where no event reached the bank in the tick;
`parkrd` into a pending slot raises XBUSY; a `bar.kill` of no barrier scope does nothing. -/
def Claim.PrivilegedLater : Prop :=
  ∀ (h : Head) (f : SX) (s : State), Runs h s → s.core.seq.sup = true →
    let v := s.reg 0 f.reg
    let a := s.reg 0 (f.sysreg.extractLsb' 7 5)
    let cleanA := RegsClean s (scalars s [f.sysreg.extractLsb' 7 5])
    (∃ t, exec (.tlbiAll h) s = .next t ∧ GivesSeq s t h 256 .tlbAll) ∧
    (RegsClean s (scalars s [f.reg]) →
    (∃ t, exec (.tlbiVa h f) s = .next t ∧ GivesSeq s t h 256 (.tlbVa s.core.seq.asid (v.setWidth 52))) ∧
    (∃ t, exec (.tlbiAsid h f) s = .next t ∧ GivesSeq s t h 256 (.tlbAsid (v.setWidth 16))) ∧
    (∃ t, exec (.errclr h f) s = .next t ∧ GivesSeq s t h 8 (.errclr (v.setWidth 4))) ∧
    (2 ≤ (v.extractLsb' 9 3).toNat → (v.extractLsb' 9 3).toNat ≤ 5 →
      ∃ t, exec (.barKill h f) s = .next t ∧ GivesSeq s t h 128 (.kill (v.setWidth 9) (v.extractLsb' 9 3))) ∧
    (((v.extractLsb' 9 3).toNat < 2 ∨ 5 < (v.extractLsb' 9 3).toNat) →
      ∃ t, exec (.barKill h f) s = .next t ∧ WentOn s t (1 + h.gap.toNat) ∧ OnlyMoved s t)) ∧
    (cleanA → s.core.nearBusy (a.extractLsb' 8 8).toNat = false →
      ∃ t, exec (.parkrd h f) s = .next t ∧ GivesSeq s t h 64 (.park (a.setWidth 8) (a.extractLsb' 8 8) true f.reg)) ∧
    (cleanA → s.core.nearBusy (a.extractLsb' 8 8).toNat = true → ∃ t, exec (.parkrd h f) s = .next t ∧
      SeqTraps s t 0x0B (BitVec.ofNat 64 (4096 * (a.extractLsb' 8 8).toNat)) false) ∧
    (let bank := fun (u : State) (b : Nat) => (u.die s.myDie).banks[b]?.getD (Vector.replicate 8 0)
     let bi := (a.setWidth 4).toNat
     let w := (a.extractLsb' 4 3).toNat
     let mine := fieldAt (bank s bi)[0] 33 7 = BitVec.ofNat 7 s.partNum ∨ (fieldAt (bank s bi)[0] 33 7 = 127#7 ∧ w ≤ 1)
     s.partNum < 128 → cleanA → (∀ e ∈ (s.die s.myDie).today, e.1 ≠ bi) → ∃ t x, exec (.errrd h f) s = .next t ∧ WentOn s t (1 + h.gap.toNat) ∧
       t.core.x.flight = s.core.x.flight ++ [seqResult s 8 (.sreg true f.reg x)] ∧ (mine → x = (bank s bi)[w]?.getD 0) ∧
       (¬mine → x = 0) ∧
       (w = 0 → x.getLsbD 63 = true → (bank t bi)[0] = (bank s bi)[0] ||| (1#64 <<< 62)) ∧
       (∀ b < 16, ∀ i < 8, (b ≠ bi ∨ i ≠ 0 ∨ w ≠ 0 ∨ x.getLsbD 63 = false) → (bank t b)[i]? = (bank s b)[i]?) ∧
       MemorySame s t ∧ CoreSame s t ∧ t.core.seq.bank = s.core.seq.bank ∧ t.core.x.accs = s.core.x.accs ∧
       { t with core := s.core, dies := s.dies, free := s.free } = s)

/-- drain, pswap, and the privileged words with a bound. Rests on choices of the model: log entry 15. -/
def Obligations.SupervisorWords : Prop :=
  Claim.QueuesAndPlanes ∧ Claim.PrivilegedLater

/-- R305, R306, R308, R322, R367: what each system register reads, and that `rdsys` gives it within 2 cycles. -/
def Claim.SysRegReads : Prop :=
  ∀ s : State,
    (∀ (h : Head) (f : SX), Runs h s → s.core.seq.sup = true → sysregOk f.sysreg = true → sysClean s f.sysreg.toNat → ∃ t, exec (.rdsys h f) s = .next t ∧
      GivesScalar s t h f.reg 2 (s.sysRead f.sysreg.toNat)) ∧
    (∀ (h : Head) (f : SX), Runs h s → s.core.seq.sup = true → sysregOk f.sysreg = true → ¬sysClean s f.sysreg.toNat → ∃ t,
      exec (.rdsys h f) s = .next t ∧ SeqPoisons s t 0) ∧
    (∀ row ∈ sysRegs, s.sysRead row.1 = row.2 s) ∧
    (let v := s.sysRead 0
     v.getLsbD 0 = s.core.seq.sup ∧ v.getLsbD 1 = s.core.seq.ps ∧ v.getLsbD 4 = s.core.seq.sen ∧ v.getLsbD 7 = s.core.seq.rw ∧
       v &&& 0xFFFFFFFFFFFFFF6C = 0) ∧
    (let v := s.sysRead 0x006
     v.getLsbD 0 = s.core.seq.req ∧ v.getLsbD 1 = s.core.seq.force ∧ v.toNat < 4) ∧
    (let v := s.sysRead 0x00C
     v.getLsbD 0 = s.core.seq.rpl ∧ (fieldAt v 8 8 : BitVec 8) = s.core.seq.count ∧
       (fieldAt v 16 16 : BitVec 16) = s.core.seq.total) ∧
    (let v := s.sysRead 0x008
     let eng := fun (x : Engine) (lo : Nat) => x.queue.length ≤ 16 → (v.extractLsb' lo 5).toNat = x.queue.length ∧ v.getLsbD (lo + 5) = x.run.isSome
     eng s.core.em 0 ∧ eng s.core.ev 8 ∧ eng s.core.ex 16 ∧ v.getLsbD 25 = s.core.x.accs.any Acc.pends ∧
       v.getLsbD 26 = decide (s.core.x.wbs ≠ []) ∧
       (v.getLsbD 27 = true ↔ ∃ e ∈ engines, ∃ q ∈ (s.core.eng e).queue, q.held = true) ∧ v &&& 0xFFFFFFFFF1C0C0C0 = 0) ∧
    (∀ i : BitVec 5, s.sysRead (0x040 + i.toNat) = s.core.seq.thr.get i) ∧
    (∀ i : Fin 4, s.sysRead (0x068 + i.val) = (s.core.seq.thr.lc[i]).setWidth 64 ∧
      (fieldAt (s.sysRead (0x06C + i.val)) 0 14 : BitVec 14) = s.core.seq.thr.lstart[i] ∧
      (fieldAt (s.sysRead (0x06C + i.val)) 16 14 : BitVec 14) = s.core.seq.thr.lend[i]) ∧
    (∀ i : Fin 16, s.sysRead (0x070 + i.val) = (s.core.seq.thr.stack[i]).setWidth 64) ∧
    (∀ b < 512, let v := s.sysRead (0x200 + b)
      (fieldAt v 0 20 : BitVec 20) = (s.core.seq.slot b).c ∧ (fieldAt v 20 3 : BitVec 3) = (s.core.seq.slot b).scope ∧
        v.getLsbD 23 = (s.core.seq.slot b).arrived ∧ v.getLsbD 24 = (s.core.seq.slot b).done) ∧
    (∀ (j : Fin 16) (w : Fin 8), s.sysRead (0x400 + 8 * j.val + w.val) = fieldAt (s.core.vec.sh[j]) (64 * w.val) 64)

/-- R305, R306, R320, R322, R70: a `wrsys` is in force from the next word; writable bits take the value, reserved and
read-only ones ignore it (those of a shape register too, R167), FRZLIM is clamped, and every other register reads as before; a changed CTX zeroes the vectors,
masks, shapes and quills and empties both latches. -/
def Claim.SysRegWrites : Prop :=
  ∀ (h : Head) (f : SX) (s : State), RunsOn h [f.reg] s → s.core.seq.sup = true → sysregOk f.sysreg = true →
    Sparse.canon BSlot.zero s.core.seq.bslots = true →
    let n := f.sysreg.toNat
    let v := s.reg 0 f.reg
    let others := fun (t : State) => ∀ m, m ≠ n → sysregOk (BitVec.ofNat 12 m) = true → m < 0x480 → t.sysRead m = s.sysRead m
    ∃ t, exec (.wrsys h f) s = .next t ∧ WentOn s t (1 + h.gap.toNat) ∧ MemorySame s t ∧ t.core.seq.svr = s.core.seq.svr ∧
      t.core.seq.sup = true ∧ t.core.seq.traps = s.core.seq.traps ∧ t.core.mat.cells = s.core.mat.cells ∧
      (n ≠ 0x00B → others t ∧ OutsideSame s t ∧ t.core.vec.v = s.core.vec.v ∧ t.core.vec.m = s.core.vec.m ∧
        t.core.vec.q = s.core.vec.q ∧ t.core.mat.wl = s.core.mat.wl ∧ EngineSame s t ∧ AccsSame s t) ∧
      (∀ row ∈ sysMasks, n = row.1 → t.sysRead n = v &&& row.2) ∧
      (n = 0x000 → t.sysRead n = (v &&& 0x92) ||| (s.sysRead n &&& 1)) ∧
      (n = 0x005 → t.sysRead n = if v.toNat < 256 then 256 else if 2 ^ 24 < v.toNat then 0x1000000 else v) ∧
      (n ∈ [0x001, 0x008, 0x009, 0x00C] → t.sysRead n = s.sysRead n) ∧
      (0x040 ≤ n → n < 0x060 → t.sysRead n = if n = 0x040 then 0 else v) ∧
      (0x200 ≤ n → n < 0x400 → t.sysRead n = v &&& 0x1FFFFFF) ∧
      (0x400 ≤ n → ∀ b < 64, (shapeHole (64 * ((n - 0x400) % 8) + b) → (t.sysRead n).getLsbD b = (s.sysRead n).getLsbD b) ∧
        (¬shapeHole (64 * ((n - 0x400) % 8) + b) → (t.sysRead n).getLsbD b = v.getLsbD b)) ∧
      (n = 0x00B → t.sysRead n = v &&& 0xFFFFFFFF ∧
        (∀ m, m ≠ n → sysregOk (BitVec.ofNat 12 m) = true → m < 0x400 → t.sysRead m = s.sysRead m) ∧
        (v &&& 0xFFFFFFFF ≠ s.sysRead n → t.core.vec.v = Vector.replicate 64 0 ∧ t.core.vec.m = Vector.replicate 8 0 ∧
          t.core.vec.sh = Vector.replicate 16 0 ∧ t.core.vec.q = Vector.replicate 16 Quill.zero ∧
          ∀ w : Fin 2, t.core.mat.wl[w].full = false) ∧
        (v &&& 0xFFFFFFFF = s.sysRead n → t.core.vec = s.core.vec ∧ t.core.mat = s.core.mat ∧ OutsideSame s t ∧ others t))

/-- What every system register reads and takes. Rests on choices of the model: log entries 27, 57. -/
def Obligations.SystemRegisters : Prop :=
  Claim.SysRegReads ∧ Claim.SysRegWrites

/-- R212: the integer arithmetic words, element by element modulo 2^w, raise no flag. -/
def Claim.VectorIntegers : Prop :=
  ∀ (g : BitVec 5) (f : VA) (s : State), intTy f.ty = true → f.dst.toNat < 64 →
    let w := widthOf f.ty
    (∀ row ∈ v2Int, Maps2 (row.1 g f) g f s 4 w (fun a b => (wrapInt w (row.2 w (sgn w a) (sgn w b)), 0))) ∧
    (∀ row ∈ v3Int, Maps3 (row.1 g f) g f s 4 w (fun a b c => (wrapInt w (row.2 (sgn w a) (sgn w b) (sgn w c)), 0))) ∧
    (∀ row ∈ v1Int, Maps1 (row.1 g f) g f s 4 w w w (fun a => (wrapInt w (row.2 (sgn w a)), 0)))

/-- R214, R215: the bitwise words and bit tools; `vsel` and `vsplat`; `vbidx` lists the places of the set bits, then all ones;
`vbcmp` gives a bit to each byte. -/
def Claim.VectorBits : Prop :=
  ∀ (g : BitVec 5) (f : VA) (s : State), f.dst.toNat < 64 →
    let w := widthOf f.ty
    let sh := shapeOf s f
    let n := tileE sh
    let a := s.vsrc 0 w f.sa
    let b := s.vsrc 1 w f.sb
    (∀ row ∈ v2Bits, Maps2 (row.1 g f) g f s 4 w (fun a b => (row.2 w a b, 0))) ∧
    (∀ row ∈ v1Bits, Maps1 (row.1 g f) g f s 4 w w w (fun a => (row.2 w a, 0))) ∧
    Maps2 (.vclmul g f) g f s 6 w
      (fun a b => (if f.imm.getLsbD 0 then carryless w a b / 2 ^ w else carryless w a b % 2 ^ w, 0)) ∧
    (VActs s f [] [w] → ∃ t l, exec (.vsplat g f) s = .next t ∧ GivesV s t g false 4 0 l ∧
      TileGives s l f.dst w n f.me (maskOf s f) (fun _ => f.imm.toNat)) ∧
    (f.me = true → VActs s f [f.sa, f.sb] [w] → ∃ t l, exec (.vsel g f) s = .next t ∧
      GivesV s t g (f.sa == 0x40 || f.sb == 0x40) 4 0 l ∧ TileGives s l f.dst w n false 0
        (fun e => if (s.seeM 11 f.msk).getLsbD e then elemAt w e a else elemAt w e b)) ∧
    (VActs s { f with me := false } [f.sa] [w] → ∃ t l, exec (.vbidx g f) s = .next t ∧
      GivesV s t g (f.sa == 0x40) 6 0 l ∧ TileGives s l f.dst w n false 0
        (fun e => (((List.range 4096).filter (fun i => a.getLsbD i))[e]?.map (fun i => i + f.imm.toNat)).getD (2 ^ w - 1))) ∧
    (VActs s { f with me := false } [f.sa] [8] → ∃ t v, exec (.vbcmp g f) s = .next t ∧
      GivesWhole s t g (f.sa == 0x40) 6 f.dst v ∧
      ∀ e < 4096, v.getLsbD e = (decide (e < n) && decide (elemAt 8 e (s.vsrc 0 8 f.sa) = f.imm.toNat % 256)))

/-- R216, R217: compares set the picked bits of their mask and zero the bits beyond the tile; the mask words write a mask or a
register whole. -/
def Claim.MaskWords : Prop :=
  ∀ (g : BitVec 5) (f : VA) (s : State),
    let w := widthOf f.ty
    let n := tileE (shapeOf s f)
    let vin := f.sa == 0x40 || f.sb == 0x40
    let a := fun e => elemAt w e (s.vsrc 0 w f.sa)
    let b := fun e => elemAt w e (s.vsrc 1 w f.sb)
    let compares := fun (res : Nat → Prop) (iv : Nat → Prop) =>
      ∃ t fl m v, exec (.vcmp g f) s = .next t ∧ GivesV s t g vin 2 fl (.mask (f.dst.setWidth 3) m v) ∧
        (∀ (old : BitVec 256) (e : Nat), e < 256 → ((blend old m v).getLsbD e = true ↔
          (e < n ∧ if picked f.me (s.seeM 11 f.msk) e then res e else old.getLsbD e = true))) ∧
        (∀ i, fl.getLsbD i = true ↔ i = 4 ∧ ∃ e < n, picked f.me (s.seeM 11 f.msk) e = true ∧ iv e)
    let gives := fun (i : Instr) (v : BitVec 256) =>
      ∃ t, exec i s = .next t ∧ GivesV s t g false 2 0 (.mask (f.dst.setWidth 3) (BitVec.allOnes 256) v)
    let acts := fun (is : List (BitVec 7)) => EngActs s .v (is.map (fun i => (1, (i.setWidth 3 : BitVec 3).toNat)))
    let ma := s.seeM 4 (f.sa.setWidth 3)
    let mb := s.seeM 5 (f.sb.setWidth 3)
    (EngActs s .v (vecRegs s [f.sa, f.sb] ++ tileRegs f) → tileOk (shapeOf s f) [w] true = true → VinReady s vin →
      (intTy f.ty = true →
        (f.imm = 0 → compares (fun e => a e = b e) (fun _ => False)) ∧
        (f.imm = 1 → compares (fun e => a e ≠ b e) (fun _ => False)) ∧
        (f.imm = 2 → compares (fun e => sgn w (a e) < sgn w (b e)) (fun _ => False)) ∧
        (f.imm = 3 → compares (fun e => sgn w (b e) ≤ sgn w (a e)) (fun _ => False)) ∧
        (f.imm = 4 → compares (fun e => a e < b e) (fun _ => False)) ∧
        (f.imm = 5 → compares (fun e => b e ≤ a e) (fun _ => False))) ∧
      (floatTy f.ty = true →
        let rd := readFp (fpOf f.ty)
        let nan := fun e => (rd (a e)).isNan = true ∨ (rd (b e)).isNan = true
        let sig := fun e => (rd (a e)).signals = true ∨ (rd (b e)).signals = true
        (f.imm = 0 → compares (fun e => ¬nan e ∧ eqFp (rd (a e)) (rd (b e)) = true) sig) ∧
        (f.imm = 1 → compares (fun e => nan e ∨ eqFp (rd (a e)) (rd (b e)) = false) sig) ∧
        (f.imm = 2 → compares (fun e => ¬nan e ∧ ltFp (rd (a e)) (rd (b e)) = true) nan) ∧
        (f.imm = 3 → compares (fun e => ¬nan e ∧ ltFp (rd (a e)) (rd (b e)) = false) nan))) ∧
    (acts [f.sa, f.sb] → gives (.mand g f) (ma &&& mb) ∧ gives (.mor g f) (ma ||| mb) ∧ gives (.mxor g f) (ma ^^^ mb)) ∧
    (acts [f.sa] → gives (.mnot g f) (~~~ma)) ∧
    (EngActs s .v (vecRegs s [f.sa]) → VinReady s (f.sa == 0x40) → ∃ t, exec (.mfromv g f) s = .next t ∧ GivesV s t g (f.sa == 0x40) 2 0
      (.mask (f.dst.setWidth 3) (BitVec.allOnes 256) ((s.vsrc 0 64 f.sa).setWidth 256))) ∧
    (acts [f.sa] → f.dst.toNat < 64 → ∃ t, exec (.mtov g f) s = .next t ∧ GivesWhole s t g false 2 f.dst (ma.setWidth 4096))

/-- Integer, bitwise and mask words, element by element. -/
def Obligations.VectorIntegersAndBits : Prop :=
  Claim.VectorIntegers ∧ Claim.VectorBits ∧ Claim.MaskWords

/-- R212, R213: the float arithmetic words round each element's exact result once in RM; `vmin` and `vmax` give the smaller
and larger code and raise no flag; `vabs` and `vneg` act on the sign bit alone.
Rests on choices of the model: log entries 3, 63, 64. -/
def Obligations.VectorFloats : Prop :=
  ∀ (g : BitVec 5) (f : VA) (s : State), floatTy f.ty = true → f.dst.toNat < 64 →
    let w := widthOf f.ty
    let F := fpOf f.ty
    let rd := readFp F
    (∀ row ∈ v2Float, Maps2 (row.1 g f) g f s row.2.1 w (fun a b => row.2.2 F (rmode f.rm) (rd a) (rd b))) ∧
    (∀ row ∈ v3Float, Maps3 (row.1 g f) g f s 4 w (fun a b c => row.2 F (rmode f.rm) (rd a) (rd b) (rd c))) ∧
    Maps1 (.vsqrt g f) g f s 24 w w w (fun a => sqrtFp F (rmode f.rm) (rd a)) ∧
    Maps2 (.vmin g f) g f s 4 w (fun a b => (minMaxFp F false a b, 0)) ∧
    Maps2 (.vmax g f) g f s 4 w (fun a b => (minMaxFp F true a b, 0)) ∧
    Maps1 (.vabs g f) g f s 4 w w w (fun a => (a % 2 ^ (w - 1), 0)) ∧
    Maps1 (.vneg g f) g f s 4 w w w (fun a => (a ^^^ 2 ^ (w - 1), 0))

/-- R218, R86, R89: `vcvt` rounds once into a float type, rounds and saturates into an integer type, and encodes a narrow
element; an odd tile of 4-bit elements raises SHAPE. -/
def Claim.Conversions : Prop :=
  ∀ (g : BitVec 5) (f : VA) (s : State), f.dst.toNat < 64 →
    let st : BitVec 4 := f.imm.setWidth 4
    let sw := widthOf st
    let dw := widthOf f.ty
    let n := tileE (shapeOf s f)
    let maps := Maps1 (.vcvt g f) g f s 6 dw sw dw
    let rd := fun (x : Nat) => if floatTy st then readFp (fpOf st) x else readNarrow (nfmtOf st) x
    (cvtTy f.ty = true → cvtTy st = true → ¬((sw = 4 ∨ dw = 4) ∧ n % 2 = 1) →
      (floatTy f.ty = true → (floatTy st = true ∨ narrowTy st = true → maps (fun x => putFp (fpOf f.ty) (rmode f.rm) (rd x))) ∧
        (floatTy st = false → narrowTy st = false →
          maps (fun x => roundFp (fpOf f.ty) (rmode f.rm) (decide (sgn sw x < 0)) (sgn sw x).natAbs 0 false))) ∧
      (narrowTy f.ty = true → (floatTy st = true ∨ narrowTy st = true → maps (fun x => cvtNarrow (nfmtOf f.ty) (rd x))) ∧
        (floatTy st = false → narrowTy st = false →
          maps (fun x => encElem (nfmtOf f.ty) (nfmtOf f.ty).top (decide (sgn sw x < 0)) (sgn sw x).natAbs 0 false))) ∧
      (floatTy f.ty = false → narrowTy f.ty = false →
        (floatTy st = true ∨ narrowTy st = true → maps (fun x => fpToInt dw (rmode f.rm) (rd x))) ∧
        (floatTy st = false → narrowTy st = false → maps (fun x =>
          if sgn sw x < -(2 ^ (dw - 1)) then (2 ^ (dw - 1), fOF)
          else if 2 ^ (dw - 1) - 1 < sgn sw x then (2 ^ (dw - 1) - 1, fOF)
          else (wrapInt dw (sgn sw x), 0))))) ∧
    (RegsClean s (vecRegs s [f.sa] ++ tileRegs f) → (sw = 4 ∨ dw = 4) → n % 2 = 1 → ∃ t, exec (.vcvt g f) s = .next t ∧ EngTrapped s t .v 0x03 0)

/-- R219, R220: `vmxq` quantises each run of 32 elements by R93 into codes and scales of two registers; `vmxd` gives each
code under its block's scale in the destination format. -/
def Claim.BlockConversions : Prop :=
  ∀ (g : BitVec 5) (f : VA) (s : State), floatTy f.ty = true →
    let w := widthOf f.ty
    let sh := shapeOf s f
    let n := tileE sh
    let b := shBlock sh
    let cw := if b = 8 then 4 else 8
    let regs := fun (cs : List (BitVec 7)) => vecRegs s cs ++ [(2, f.sh.toNat)]
    (tileOk sh [w] false = true → n % 32 = 0 → b ∈ [6#4, 7#4, 8#4, 15#4] →
      (EngActs s .v (regs [f.sa]) → f.dst.toNat < 63 → VinReady s (f.sa == 0x40) → ∃ t fl x y, exec (.vmxq g f) s = .next t ∧
        GivesV s t g (f.sa == 0x40) 12 fl (.vec [x, y]) ∧ x.reg.toNat = s.phys (s.supOf .v) f.dst.toNat ∧
        y.reg.toNat = s.phys (s.supOf .v) (f.dst.toNat + 1) ∧ x.mask = BitVec.allOnes 4096 ∧ y.mask = BitVec.allOnes 4096 ∧
        let q := fun (k : Nat) => quantise b (shEmax sh) (shInf sh)
          ((List.range 32).map (fun i => readFp (fpOf f.ty) (elemAt w (32 * k + i) (s.vsrc 0 w f.sa))))
        (∀ e < 4096 / cw, elemAt cw e x.val = if e < n then ((q (e / 32)).1[e % 32]?.getD 0) % 2 ^ cw else 0) ∧
        (∀ k < 512, elemAt 8 k y.val = if k < n / 32 then (q k).2.1 % 256 else 0) ∧
        (∀ i, fl.getLsbD i = true ↔ ∃ k < n / 32, (q k).2.2.getLsbD i = true)) ∧
      (EngActs s .v (regs [f.sa, f.sb]) → f.dst.toNat < 64 → VinReady s (f.sa == 0x40 || f.sb == 0x40) → ∃ t fl l, exec (.vmxd g f) s = .next t ∧
        GivesV s t g (f.sa == 0x40 || f.sb == 0x40) 8 fl l ∧
        let r := fun e => dequant b (fpOf f.ty) (rmode f.rm) (elemAt cw e (s.vsrc 0 w f.sa)) (elemAt 8 (e / 32) (s.vsrc 1 w f.sb))
        TileGives s l f.dst w n false 0 (fun e => (r e).1) ∧ FlagsAre fl n false 0 (fun e => (r e).2))) ∧
    (RegsClean s (regs [f.sa, f.sb]) → (tileOk sh [w] false = false ∨ n % 32 ≠ 0 ∨ b ∉ [6#4, 7#4, 8#4, 15#4]) →
      (∃ t, exec (.vmxq g f) s = .next t ∧ EngTrapped s t .v 0x03 0) ∧
      ∃ t, exec (.vmxd g f) s = .next t ∧ EngTrapped s t .v 0x03 0)

/-- vcvt, vmxq and vmxd. Rests on choices of the model: log entries 50, 63, 68. -/
def Obligations.VectorConversions : Prop :=
  Claim.Conversions ∧ Claim.BlockConversions

/-- R221, R110, R111: a reduction runs the pairwise tree along its axis, excluded elements standing as the identity, and
writes every result element; of integers it is the plain fold modulo 2^w. -/
def Claim.Reductions : Prop :=
  ∀ row ∈ redTable, ∀ (g : BitVec 5) (f : VA) (s : State), f.dst.toNat < 64 →
    let w := widthOf f.ty
    let sh := shapeOf s f
    let xs := fun k => (runOf f.ax (shRows sh) (shCols sh) k).map (foldIn s f row.2)
    VActs s f [f.sa] [w] → ∃ t fl l, exec (row.1 g f) s = .next t ∧
      GivesV s t g (f.sa == 0x40) 12 fl l ∧
      TileGives s l f.dst w (runCount f.ax (shRows sh) (shCols sh)) false 0
        (fun k => (treeRun (row.2.apply f.ty f.rm) 12 (xs k)).1) ∧
      FlagsAre fl (runCount f.ax (shRows sh) (shCols sh)) false 0 (fun k => (treeRun (row.2.apply f.ty f.rm) 12 (xs k)).2) ∧
      (floatTy f.ty = false → fl = 0 ∧ TileGives s l f.dst w (runCount f.ax (shRows sh) (shCols sh)) false 0
        (fun k => (xs k).foldl (fun a x => (row.2.apply f.ty f.rm a x).1) (row.2.ident f.ty)))

/-- R222: a scan folds in index order from the identity along its axis; `.excl` gives the value before each element; an
excluded element keeps its own result. -/
def Claim.Scans : Prop :=
  ∀ row ∈ scanTable, ∀ (g : BitVec 5) (f : VA) (s : State), f.dst.toNat < 64 → f.ax ≠ 3 →
    let w := widthOf f.ty
    let sh := shapeOf s f
    let n := tileE sh
    let op := row.2.apply f.ty f.rm
    let acc := fun (l : List Nat) => (l.map (foldIn s f row.2)).foldl (fun a x => (op a x).1) (row.2.ident f.ty)
    VActs s f [f.sa] [w] → ∃ (t : State) (fl : BitVec 6) (l : Land) (r : Nat → Nat × BitVec 6), exec (row.1 g f) s = .next t ∧
      GivesV s t g (f.sa == 0x40) 16 fl l ∧ TileGives s l f.dst w n f.me (maskOf s f) (fun e => (r e).1) ∧
      FlagsAre fl n f.me (maskOf s f) (fun e => (r e).2) ∧
      ∀ k < runCount f.ax (shRows sh) (shCols sh), ∀ p e, (runOf f.ax (shRows sh) (shCols sh) k)[p]? = some e →
        let before := acc ((runOf f.ax (shRows sh) (shCols sh) k).take p)
        r e = (if f.imm.getLsbD 0 then before else (op before (foldIn s f row.2 e)).1, (op before (foldIn s f row.2 e)).2)

/-- Reductions and scans along an axis. Rests on choices of the model: log entries 51, 63, 68. -/
def Obligations.ReductionsAndScans : Prop :=
  Claim.Reductions ∧ Claim.Scans

/-- R223: the permutes move raw elements by their tables and raise no flag; `vslide` by more than the tile raises ILLOP. -/
def Claim.Permutes : Prop :=
  ∀ (g : BitVec 5) (f : VA) (s : State), f.dst.toNat < 64 →
    let w := widthOf f.ty
    let sh := shapeOf s f
    let n := tileE sh
    let a := fun e => elemAt w e (s.vsrc 0 w f.sa)
    let b := fun e => elemAt w e (s.vsrc 1 w f.sb)
    let z := fun e => if e < n then a e else b (e - n)
    let m := s.seeM 11 f.msk
    let one := f.sa == 0x40
    let two := f.sa == 0x40 || f.sb == 0x40
    let acts1 := EngActs s .v (vecRegs s [f.sa] ++ tileRegs f) ∧ VinReady s one
    let acts2 := EngActs s .v (vecRegs s [f.sa, f.sb] ++ tileRegs f) ∧ VinReady s two
    let gives := fun (i : Instr) (vin me : Bool) (r : Nat → Nat) =>
      ∃ t l, exec i s = .next t ∧ GivesV s t g vin 8 0 l ∧ TileGives s l f.dst w n me (maskOf s f) r
    (tileOk sh [w] false = true → acts1 →
      gives (.vtrn g f) one false (fun e => a (e % shRows sh * shCols sh + e / shRows sh))) ∧
    (tileOk sh [w] true = true → acts2 → gives (.vperm g f) two f.me
      (fun e => let i := elemAt 16 e (s.vsrc 1 w f.sb); if i < n then a i else 0)) ∧
    (tileOk sh [w] f.me = true → acts1 → f.imm = 4 → gives (.vshuf g f) one f.me (fun e => a (n - 1 - e))) ∧
    (tileOk sh [w] f.me = true → n % 2 = 0 → acts2 →
      (f.imm = 0 → gives (.vshuf g f) two f.me (fun e => if e % 2 = 0 then a (e / 2) else b (e / 2))) ∧
      (f.imm = 1 → gives (.vshuf g f) two f.me (fun e => if e % 2 = 0 then a (e / 2 + n / 2) else b (e / 2 + n / 2))) ∧
      (f.imm = 2 → gives (.vshuf g f) two f.me (fun e => z (2 * e))) ∧
      (f.imm = 3 → gives (.vshuf g f) two f.me (fun e => z (2 * e + 1)))) ∧
    (tileOk sh [w] f.me = true → f.imm.toNat ≤ n → acts2 →
      gives (.vslide g f) two f.me (fun e => z (e + f.imm.toNat))) ∧
    (tileOk sh [w] f.me = true → n < f.imm.toNat → RegsClean s [(2, f.sh.toNat)] → ∃ t, exec (.vslide g f) s = .next t ∧ EngTrapped s t .v 0x01 0) ∧
    (tileOk sh [w] true = true → f.me = true → acts1 →
      gives (.vcompress g f) one false (fun e => (((List.range n).filter (fun i => m.getLsbD i))[e]?.map a).getD 0) ∧
      gives (.vexpand g f) one false
        (fun e => if m.getLsbD e then a ((List.range e).filter (fun i => m.getLsbD i)).length else 0))

/-- R227, R232, R233: `vfclr` clears flags and `vfrd` reads them within 2 cycles; `vrng` gives Philox bits within 10; `vrotw`
moves the window from the next cycle. -/
def Claim.FlagsRandomWindow : Prop :=
  ∀ (g : BitVec 5) (f : VA) (s : State), s.core.ev.pipe = false →
    (∃ t, exec (.vfclr g f) s = .next t ∧ GivesV s t g false 2 0 (.vflgClear (f.imm &&& 0x3F))) ∧
    (f.dst.toNat < 64 → ∃ t v, exec (.vfrd g f) s = .next t ∧ GivesWhole s t g false 2 f.dst v ∧
      (s.core.x.flight = [] → v = s.core.vec.flg.setWidth 4096)) ∧
    (f.dst.toNat < 64 → VActs s f [] [widthOf f.ty] → ∃ t fl l, exec (.vrng g f) s = .next t ∧
      GivesV s t g false 10 fl l ∧
      let r := fun e => rngElem f.ty (elemAt (widthOf f.ty) e
        (philoxRaw s.core.share.seed.toNat f.imm.toNat (s.sect .v).entry.tile.toNat))
      TileGives s l f.dst (widthOf f.ty) (tileE (shapeOf s f)) f.me (maskOf s f) (fun e => (r e).1) ∧
      FlagsAre fl (tileE (shapeOf s f)) f.me (maskOf s f) (fun e => (r e).2)) ∧
    (∃ t, exec (.vrotw g f) s = .next t ∧ EngWent s t .v g ∧ OutsideSame s t ∧ MemorySame s t ∧ ObsSame s t ∧
      t.core.vec = { s.core.vec with rb := BitVec.ofNat 5 (s.core.vec.rb.toNat + 4 * (f.imm.toNat % 8)) } ∧
      { t.core with obs := s.core.obs, ev := s.core.ev, vec := s.core.vec } = s.core)

/-- Permutes, the flag words, vrng and vrotw. -/
def Obligations.PermutesFlagsAndRandom : Prop :=
  Claim.Permutes ∧ Claim.FlagsRandomWindow

/-- R102, R103, R228-R231: the log-path words, element by element. -/
def Obligations.LogPathWords : Prop :=
  ∀ (g : BitVec 5) (f : VA) (s : State), f.dst.toNat < 64 →
    let w := widthOf f.ty
    let F := fpOf f.ty
    let r := rmode f.rm
    let out := fun (x : L32 × BitVec 6) => (x.1.code, x.2)
    Maps1 (.vtol g f) g f s 8 w w 32 (fun a => out (tol (readFp F a))) ∧
    Maps1 (.vfroml g f) g f s 8 w 32 w (fun a => alog F r (readL32 a)) ∧
    Maps2 (.lmul g f) g f s 4 32 (fun a b => out (lmulStep (readL32 a) (readL32 b))) ∧
    Maps2 (.ldiv g f) g f s 4 32 (fun a b => out (ldivStep (readL32 a) (readL32 b))) ∧
    Maps1 (.lroot g f) g f s 4 32 32 32 (fun a => out (lrootStep (readL32 a) f.imm.toNat)) ∧
    Maps1 (.lpow g f) g f s 4 32 32 32 (fun a => out (lpowStep (readL32 a) (f.imm.setWidth 16).toInt)) ∧
    (∀ row ∈ compTable, Maps1 (row.1 g f) g f s 24 w w w (composite F r row.2))

/-- R224, R226: near loads read their elements at issue and land within 8 cycles (masks within 4); near stores write their
elements' bytes, later elements over earlier, and no other byte; a load or store that moves no element is still one access of
its class, of no byte. -/
def Claim.VectorNear : Prop :=
  ∀ (g : BitVec 5) (f : VM) (s : State),
    let sh := s.seeSh 10 f.sh
    let w := widthOf f.ty
    let n := if w = 4 then 1 else w / 8
    let v := s.seeV 0 (s.phys (s.supOf .v) f.reg.toNat)
    let base := ((if f.bk then s.kpar .v f.ki else 0) + f.off.signExtend 64).toNat
    let odd := fun e => e % shCols sh % 2 == 1
    let some_ := ∃ e, vmMoves s f e
    let acqs := if f.ordq = 1 ∨ f.ordq = 3 then f.scope.toNat else 0
    let rels := if f.ordq = 2 ∨ f.ordq = 3 then f.scope.toNat else 0
    (EngActs s .v (vmRegs f) → vmOk f sh = true → f.reg.toNat < 64 → f.lvl = false →
      (∀ e, vmMoves s f e → vmAddr s f e % n = 0 ∧ vmAddr s f e + n ≤ 2 ^ 20) →
      ((∀ e, vmMoves s f e → s.core.near.poisoned (vmAddr s f e) n = false) → ∃ t l r, exec (.vld g f) s = .next t ∧
        (some_ → VLoad s t g 8 l) ∧
        (¬some_ → EngWent s t .v g ∧ VectorFrame s t ∧ EngineSame s t ∧ t.core.x.nid = s.core.x.nid + 1 ∧
          t.core.x.flight = s.core.x.flight ++ [engResult s .v 8 0 l] ∧ ∃ a : Acc, t.core.x.accs = s.core.x.accs ++ [a] ∧
            a.id = s.core.x.nid ∧ a.strm = .v ∧ a.cls = f.cls ∧ a.acq = acqs ∧ a.rel = 0 ∧ a.due = none ∧ a.foot = []) ∧ TileGives s l f.reg w (tileE sh) f.me (s.seeM 11 f.msk) r ∧
        (s.core.nearNews = [] → ∀ e, vmMoves s f e → r e = elemInMem w s.core.near.byte (vmAddr s f e) (odd e))) ∧
      (RegsClean s [(0, s.phys (s.supOf .v) f.reg.toNat)] → ¬some_ → ∃ t, exec (.vst g f) s = .next t ∧
        VAccess s t g f.cls 0 rels none none [] (fun k => ∃ ps, k = .store ps ∧ ps.all (fun p => p.len == 0 && !p.done) = true)) ∧
      (RegsClean s [(0, s.phys (s.supOf .v) f.reg.toNat)] → some_ →
        (∀ e, vmMoves s f e → (slotsOf (vmAddr s f e) n).any s.core.nearBusy = false) → s.core.near.wf = true →
        ∃ t, exec (.vst g f) s = .next t ∧ VStore s t g ∧
          MemorySameBut (fun b => ∃ e, vmMoves s f e ∧ vmAddr s f e ≤ b ∧ b < vmAddr s f e + n) s t ∧
          (w ≠ 4 → ∀ e, vmMoves s f e → ∀ i < n, (∀ d, e < d → vmMoves s f d →
            ¬(vmAddr s f d ≤ vmAddr s f e + i ∧ vmAddr s f e + i < vmAddr s f d + n)) →
            t.core.near.byte (vmAddr s f e + i) = BitVec.ofNat 8 (elemAt w e v / 256 ^ i)) ∧
          (w = 4 → ∀ e, vmMoves s f e → (∀ d, e < d → vmMoves s f d → vmAddr s f d = vmAddr s f e → odd d ≠ odd e) →
            elemInMem 4 t.core.near.byte (vmAddr s f e) (odd e) = elemAt 4 e v))) ∧
    (s.core.ev.pipe = false → base % 32 = 0 → base + 32 ≤ 2 ^ 20 →
      (s.core.near.poisoned base 32 = false → ∃ t x, exec (.mld g f) s = .next t ∧ NearLoaded s base 32 x ∧
        VLoad s t g 4 (.mask (f.reg.setWidth 3) (BitVec.allOnes 256) (BitVec.ofNat 256 x))) ∧
      (RegsClean s [(1, (f.reg.setWidth 3 : BitVec 3).toNat)] → (slotsOf base 32).any s.core.nearBusy = false → s.core.near.wf = true →
        ∃ t, exec (.mst g f) s = .next t ∧ VStore s t g ∧
        NearStored s t base 32 (s.seeM 4 (f.reg.setWidth 3)).toNat))

/-- R224, R163, R172: a die `vld` or `vst` whose written elements are aligned and in range is one access of its class, a load with
its arrival cycle, a store with its bound of 64 or 192 cycles; one that moves no element touches nothing and never freezes the core. -/
def Claim.VectorDie : Prop :=
  ∀ (g : BitVec 5) (f : VM) (s : State),
    let sh := s.seeSh 10 f.sh
    let w := widthOf f.ty
    let n := if w = 4 then 1 else w / 8
    let moved := (List.range (tileE sh)).filter (fun e => picked f.me (s.seeM 11 f.msk) e)
    let foot : List Foot := moved.map (fun e => { sp := .die, addr := vmAddr s f e, len := n })
    EngActs s .v (vmRegs f) → vmOk f sh = true → f.reg.toNat < 64 → f.lvl = true → (∀ e, vmMoves s f e → vmAddr s f e % n = 0 ∧ s.dieOk (vmAddr s f e) n = true) →
      (∃ t, exec (.vld g f) s = .next t ∧ VAccess s t g f.cls (if f.ordq = 1 ∨ f.ordq = 3 then f.scope.toNat else 0) 0
        (if moved = [] then none else some f.arr.toNat) none foot
        (fun k => ∃ ps d, k = .load ps d ∧ ps.all (fun p => !p.done) = true)) ∧
      (RegsClean s [(0, s.phys (s.supOf .v) f.reg.toNat)] →
        (∀ e, vmMoves s f e → (slotsOf (vmAddr s f e) n).any s.core.diePendingOwn = false) → ∃ t, exec (.vst g f) s = .next t ∧
        VAccess s t g f.cls 0 (if f.ordq = 2 ∨ f.ordq = 3 then f.scope.toNat else 0) none
          (some (if s.reachAll foot ≤ 3 then 64 else 192)) foot
          (fun k => ∃ ps, k = .store ps ∧ ps.all (fun p => !p.done) = true))

/-- Vector and mask loads and stores, near and die. -/
def Obligations.VectorMemory : Prop :=
  Claim.VectorNear ∧ Claim.VectorDie

/-- R168, R208, R225, R226, R123: SHAPE for a tile that is not legal or does not match the word, MISAL for a misaligned
element, XRANGE beyond the near store or the die slots, XBUSY for a store into a pending slot; nothing is performed. -/
def Claim.VectorTraps : Prop :=
  (∀ (g : BitVec 5) (f : VA) (s : State),
    let w := widthOf f.ty
    let shape := fun (i : Instr) => RegsClean s (vecRegs s [f.sa, f.sb, f.sc] ++ [(2, f.sh.toNat), (1, f.msk.toNat)]) →
      ∃ t, exec i s = .next t ∧ EngTrapped s t .v 0x03 0
    (tileOk (shapeOf s f) [w] f.me = false →
      (∀ row ∈ v2Int, shape (row.1 g f)) ∧ (∀ row ∈ v3Int, shape (row.1 g f)) ∧ (∀ row ∈ v2Bits, shape (row.1 g f)) ∧
      shape (.vdiv g f) ∧ shape (.vclmul g f) ∧ shape (.vsplat g f) ∧ shape (.vshuf g f) ∧ shape (.vslide g f) ∧ shape (.vrng g f) ∧
      (∀ row ∈ redTable, shape (row.1 g f)) ∧ (∀ row ∈ scanTable, shape (row.1 g f))) ∧
    (tileOk (shapeOf s f) [w, w] f.me = false → (∀ row ∈ v1Int, shape (row.1 g f)) ∧ (∀ row ∈ v1Bits, shape (row.1 g f)) ∧
      shape (.vsqrt g f) ∧ ∀ row ∈ compTable, shape (row.1 g f)) ∧
    (tileOk (shapeOf s f) [w] true = false →
      shape (.vsel g f) ∧ shape (.vcmp g f) ∧ shape (.vperm g f) ∧ shape (.vcompress g f) ∧ shape (.vexpand g f))) ∧
  (∀ (g : BitVec 5) (f : VM) (s : State), RegsClean s ((0, s.phys (s.supOf .v) f.reg.toNat) :: vmRegs f) →
    let sh := s.seeSh 10 f.sh
    let n := if widthOf f.ty = 4 then 1 else widthOf f.ty / 8
    let ok := fun e => if f.lvl then s.dieOk (vmAddr s f e) n = true else vmAddr s f e + n ≤ 2 ^ 20
    let raises := fun (i : Instr) (c : BitVec 8) (e : Nat) =>
      ∃ t, exec i s = .next t ∧ EngTrapped s t .v c (BitVec.ofNat 64 (vmAddr s f e))
    (vmOk f sh = false → (∃ t, exec (.vld g f) s = .next t ∧ EngTrapped s t .v 0x03 0) ∧
      ∃ t, exec (.vst g f) s = .next t ∧ EngTrapped s t .v 0x03 0) ∧
    (vmOk f sh = true → ∀ e, vmMoves s f e → vmAddr s f e % n ≠ 0 → (∀ d, vmMoves s f d → d < e → vmAddr s f d % n = 0) →
      raises (.vld g f) 0x0C e ∧ raises (.vst g f) 0x0C e) ∧
    (vmOk f sh = true → (∀ d, vmMoves s f d → vmAddr s f d % n = 0) → ∀ e, vmMoves s f e → ¬ok e →
      (∀ d, vmMoves s f d → d < e → ok d) → raises (.vld g f) 0x0A e ∧ raises (.vst g f) 0x0A e) ∧
    (vmOk f sh = true → (∀ d, vmMoves s f d → vmAddr s f d % n = 0 ∧ ok d) → ∀ e, vmMoves s f e →
      let busy := fun d => (slotsOf (vmAddr s f d) n).any (fun b => if f.lvl then s.core.diePendingOwn b else s.core.nearBusy b) = true
      busy e → (∀ d, vmMoves s f d → d < e → ¬busy d) → raises (.vst g f) 0x0B e)) ∧
  ∀ (g : BitVec 5) (f : VM) (s : State), RegsClean s [(1, (f.reg.setWidth 3 : BitVec 3).toNat)] →
    let base := ((if f.bk then s.kpar .v f.ki else 0) + f.off.signExtend 64).toNat
    let raises := fun (i : Instr) (c : BitVec 8) => ∃ t, exec i s = .next t ∧ EngTrapped s t .v c (BitVec.ofNat 64 base)
    (base % 32 ≠ 0 → raises (.mld g f) 0x0C ∧ raises (.mst g f) 0x0C) ∧
    (base % 32 = 0 → 2 ^ 20 < base + 32 → raises (.mld g f) 0x0A ∧ raises (.mst g f) 0x0A) ∧
    (base % 32 = 0 → base + 32 ≤ 2 ^ 20 → (slotsOf base 32).any s.core.nearBusy = true → raises (.mst g f) 0x0B)

/-- R207, R224, R226, R252, R367, R368: a near `vld`, `mld` or `qld` of a poisoned word raises POISON and lands nothing; a word that
reads `vin` from an empty inflow queue raises VINEMPTY, and from a poisoned entry takes it and raises POISON; so does a word that
reads a register with a poisoned word, and one beside which a check fails raises PIPE, the entry it read gone. -/
def Claim.PoisonAndInflow : Prop :=
  (∀ (g : BitVec 5) (f : VM) (s : State), f.lvl = false → RegsClean s (vmRegs f) →
    let n := if widthOf f.ty = 4 then 1 else widthOf f.ty / 8
    let base := ((if f.bk then s.kpar .v f.ki else 0) + f.off.signExtend 64).toNat
    (vmOk f (s.seeSh 10 f.sh) = true → (∀ e, vmMoves s f e → vmAddr s f e % n = 0 ∧ vmAddr s f e + n ≤ 2 ^ 20) →
      ∀ e, vmMoves s f e → s.core.near.poisoned (vmAddr s f e) n = true →
        (∀ d, vmMoves s f d → d < e → s.core.near.poisoned (vmAddr s f d) n = false) →
        ∃ t, exec (.vld g f) s = .next t ∧ VectorPoisoned s t false (BitVec.ofNat 64 (vmAddr s f e))) ∧
    (base % 32 = 0 → base + 32 ≤ 2 ^ 20 → s.core.near.poisoned base 32 = true → ∃ t, exec (.mld g f) s = .next t ∧
      VectorPoisoned s t false (BitVec.ofNat 64 base)) ∧
    (base % 8 = 0 → base + 264 ≤ 2 ^ 20 → s.core.near.poisoned base 264 = true → ∃ t, exec (.qld g f) s = .next t ∧
      VectorPoisoned s t false (BitVec.ofNat 64 base))) ∧
  (∀ (g : BitVec 5) (f : VA) (s : State),
    let w := widthOf f.ty
    let regs := vecRegs s [f.sa, f.sb] ++ tileRegs f
    let vin := f.sa == 0x40 || f.sb == 0x40
    tileOk (shapeOf s f) [w] f.me = true → ∀ row ∈ v2Int, intTy f.ty = true →
      (¬RegsClean s regs → (vin = true → s.core.x.inflow ≠ []) → ∃ t, exec (row.1 g f) s = .next t ∧ VectorPoisoned s t vin 0) ∧
      (RegsClean s regs → VinReady s vin → s.core.ev.pipe = true → ∃ t, exec (row.1 g f) s = .next t ∧ VectorErrs s t vin 0x1A 0)) ∧
  (∀ (g : BitVec 5) (f : VA) (s : State), f.sa = 0x40 →
    let w := widthOf f.ty
    let ends := fun (i : Instr) => (s.core.x.inflow = [] → ∃ t, exec i s = .next t ∧ EngTrapped s t .v 0x0F 0) ∧
      (∀ p r, s.core.x.inflow = p :: r → p.data.poisoned 0 512 = true → ∃ t, exec i s = .next t ∧ VectorPoisoned s t true 0)
    (tileOk (shapeOf s f) [w] f.me = true → (∀ row ∈ v2Int, ends (row.1 g f)) ∧ (∀ row ∈ v3Int, ends (row.1 g f)) ∧
      (∀ row ∈ v2Bits, ends (row.1 g f)) ∧ ends (.vdiv g f) ∧ ends (.vclmul g f)) ∧
    (tileOk (shapeOf s f) [w, w] f.me = true → (∀ row ∈ v1Int, ends (row.1 g f)) ∧ (∀ row ∈ v1Bits, ends (row.1 g f)) ∧
      ends (.vsqrt g f) ∧ ∀ row ∈ compTable, ends (row.1 g f)))

/-- The traps of vector words, poison and the inflow queue. Rests on choices of the model: log entries 49, 69. -/
def Obligations.VectorTrapsAndPoison : Prop :=
  Claim.VectorTraps ∧ Claim.PoisonAndInflow

/-- R241-R252: the quill words: what each computes from the pairs, tiles and parameters it reads at issue, its bound, and
that it changes nothing else, where no register it reads is poisoned; loads and stores of 264-byte images. -/
def Claim.QuillWords : Prop :=
  (∀ (g : BitVec 5) (f : VA) (s : State),
    let w := widthOf f.ty
    let F := fpOf f.ty
    let r := rmode f.rm
    let a := s.seeQ 7 (f.sa.setWidth 4)
    let b := s.seeQ 8 (f.sb.setWidth 4)
    let vin := f.sa == 0x40
    let tile := tileOk (shapeOf s f) [w] false = true ∧ tileE (shapeOf s f) = 128
    let quill := fun (i : Instr) (vin : Bool) (n : Nat) (q : Quill × BitVec 6) =>
      ∃ t, exec i s = .next t ∧ GivesV s t g vin n q.2 (.quill (f.dst.setWidth 4) q.1)
    let elems := fun (i : Instr) (vin : Bool) (bound w n : Nat) (x : Nat → Nat × BitVec 6) =>
      ∃ t fl l, exec i s = .next t ∧ GivesV s t g vin bound fl l ∧ TileGives s l f.dst w n false 0 (fun e => (x e).1) ∧
        FlagsAre fl n false 0 (fun e => (x e).2)
    let q1 := EngActs s .v [(3, (f.sa.setWidth 4 : BitVec 4).toNat)]
    let q2 := EngActs s .v [(3, (f.sa.setWidth 4 : BitVec 4).toNat), (3, (f.sb.setWidth 4 : BitVec 4).toNat)]
    (tile → VinReady s vin → EngActs s .v (vecRegs s [f.sa] ++ [(2, f.sh.toNat)]) →
      quill (.qfrom g f) vin 20 (canonFp ((List.range 128).map (fun e => readFp F (elemAt w e (s.vsrc 0 w f.sa)))))) ∧
    (f.dst.toNat < 64 →
      (tile → q1 → RegsClean s [(2, f.sh.toNat)] → elems (.qto g f) false 8 w 128 (fun e => qtoElem F r a (a.d e))) ∧
      (tile → VinReady s (f.sb == 0x40) → q1 → RegsClean s (vecRegs s [f.sb] ++ [(2, f.sh.toNat)]) →
        elems (.qrms g f) (f.sb == 0x40) 12 w 128 (fun e => qrmsElem F r a (a.d e) (elemAt w e (s.vsrc 0 w f.sb)))) ∧
      (q2 → elems (.qcos g f) false 16 32 1 (fun _ => qcosVal r a b) ∧ elems (.qdot g f) false 20 32 1 (fun _ => qdotVal r a b)) ∧
      (q1 → elems (.qnget g f) false 2 32 1 (fun _ => ((a.norm.signExtend 32).toNat, 0)))) ∧
    (f.imm.msb = false → q1 → quill (.qscl g f) false 2 (qsclVal a ((f.imm.setWidth 24).toInt))) ∧
    (f.imm.msb = true → VinReady s (f.sb == 0x40) → q1 → RegsClean s (vecRegs s [f.sb]) → quill (.qscl g f) (f.sb == 0x40) 2
      (qsclVal a (BitVec.ofNat 24 (elemAt 32 0 (s.vsrc 0 32 f.sb))).toInt)) ∧
    (q2 → quill (.qadd g f) false 24 (combine 1 1 0 a b) ∧ quill (.qsub g f) false 24 (combine 1 (-1) 0 a b) ∧
    quill (.qlerp g f) false 24 (combine (65536 - (f.imm.toNat : Int)) f.imm.toNat (-16) a b)) ∧
    (q1 → quill (.qneg g f) false 2 (qnegVal a, 0) ∧ quill (.qmov g f) false 2 (a, 0)) ∧
    (VinReady s vin → EngActs s .v ((3, (f.dst.setWidth 4 : BitVec 4).toNat) :: vecRegs s [f.sa]) → quill (.qnset g f) vin 2
      (qnsetVal (s.seeQ 7 (f.dst.setWidth 4)) (BitVec.ofNat 24 (elemAt 32 0 (s.vsrc 0 32 f.sa))))) ∧
    (q1 → f.dst.toNat < 63 → ∃ t x y, exec (.qq8 g f) s = .next t ∧ GivesV s t g false 10 (qq8Val a).2.2 (.vec [x, y]) ∧
      x.reg.toNat = s.phys (s.supOf .v) f.dst.toNat ∧ y.reg.toNat = s.phys (s.supOf .v) (f.dst.toNat + 1) ∧
      x.mask = BitVec.allOnes 4096 ∧ y.mask = BitVec.allOnes 4096 ∧
      ∀ e < 512, elemAt 8 e x.val = ((qq8Val a).1[e]?.getD 0) % 256 ∧ elemAt 8 e y.val = ((qq8Val a).2.1[e]?.getD 0) % 256) ∧
    (let k := f.imm.toNat % 256
     let hit := if f.imm.toNat / 256 % 4 = 0 then a.norm = 0x800000 else if f.imm.toNat / 256 % 4 = 1 then a.norm = 0x7FFFFF
       else if f.imm.toNat / 256 % 4 = 2 then a.norm ≠ 0x800000 ∧ a.norm ≠ 0x7FFFFF else a.norm = 0x800000 ∨ a.norm = 0x7FFFFF
     q1 → ∃ t m v, exec (.qcls g f) s = .next t ∧ GivesV s t g false 2 0 (.mask (f.dst.setWidth 3) m v) ∧
       ∀ (old : BitVec 256) (e : Nat), (e ≠ k → (blend old m v).getLsbD e = old.getLsbD e) ∧
         ((blend old m v).getLsbD k = true ↔ hit))) ∧
  (∀ (g : BitVec 5) (f : VM) (s : State),
    let a := ((if f.bk then s.kpar .v f.ki else 0) + f.off.signExtend 64).toNat
    let i : BitVec 4 := f.reg.setWidth 4
    let q := s.seeQ 7 i
    let img := q.dir.toNat + 2 ^ 2048 * (q.norm.signExtend 32).toNat
    let foot : List Foot := [{ sp := .die, addr := a, len := 264 }]
    (a % 8 = 0 → f.lvl = false → a + 264 ≤ 2 ^ 20 →
      (s.core.ev.pipe = false → s.core.near.poisoned a 264 = false → ∃ t x fl, exec (.qld g f) s = .next t ∧ GivesV s t g false 8 fl (.quill i x) ∧
        (s.core.nearNews = [] →
          let y : Quill := { dir := BitVec.ofNat 2048 (nearNum s a 256), norm := BitVec.ofNat 24 (nearNum s (a + 256) 3) }
          if y.ok then x = y ∧ fl = 0 else x = { dir := 0, norm := 0x7FFFFF } ∧ fl = fIV)) ∧
      (EngActs s .v [(3, i.toNat)] → (slotsOf a 264).any s.core.nearBusy = false → s.core.near.wf = true → ∃ t, exec (.qst g f) s = .next t ∧ VStore s t g ∧
        NearStored s t a 264 img)) ∧
    (a % 8 = 0 → f.lvl = true → s.dieOk a 264 = true →
      (s.core.ev.pipe = false → ∃ t, exec (.qld g f) s = .next t ∧ VAccess s t g f.cls (if f.ordq = 1 ∨ f.ordq = 3 then f.scope.toNat else 0) 0
        (some f.arr.toNat) none foot (fun k => ∃ ps, k = .load ps (.quill i) ∧ ps.all (fun p => !p.done) = true)) ∧
      (EngActs s .v [(3, i.toNat)] → (slotsOf a 264).any s.core.diePendingOwn = false → ∃ t, exec (.qst g f) s = .next t ∧ VAccess s t g f.cls 0
        (if f.ordq = 2 ∨ f.ordq = 3 then f.scope.toNat else 0) none (some (if s.reachAll foot ≤ 3 then 64 else 192)) foot (fun k => ∃ ps, k = .store ps ∧
          ps.all (fun p => !p.done) = true ∧ ps.flatMap Piece.data = (List.range 264).map (fun j => BitVec.ofNat 8 (img / 256 ^ j))))) ∧
    (RegsClean s [(3, i.toNat)] →
      let raises := fun (c : BitVec 8) (w : Instr) => ∃ t, exec w s = .next t ∧ EngTrapped s t .v c (BitVec.ofNat 64 a)
      let inside := if f.lvl then s.dieOk a 264 = true else a + 264 ≤ 2 ^ 20
      (a % 8 ≠ 0 → raises 0x0C (.qld g f) ∧ raises 0x0C (.qst g f)) ∧
      (a % 8 = 0 → ¬inside → raises 0x0A (.qld g f) ∧ raises 0x0A (.qst g f)) ∧
      (a % 8 = 0 → inside → (slotsOf a 264).any (fun b => if f.lvl then s.core.diePendingOwn b else s.core.nearBusy b) = true →
        raises 0x0B (.qst g f))))

/-- R105, R239, R240: every pair `qfrom`, `qneg`, `qscl`, `qnset` and `qld` give is well-formed: its norm is the zero or
invalid code over zero directions, or its directions lie in range and their squares sum to 1 within 2^-10. -/
def Claim.QuillsWellFormed : Prop :=
  (∀ xs : List Fp, xs.length = 128 → (∀ x ∈ xs, ∀ s m e, x = .fin s m e → m < 2 ^ 24 ∧ -149 ≤ e ∧ e ≤ 104) → (canonFp xs).1.ok = true) ∧
  (∀ q : Quill, q.ok = true → (qnegVal q).ok = true ∧ (∀ d, (qsclVal q d).1.ok = true) ∧ ∀ c, (qnsetVal q c).1.ok = true) ∧
  (∀ bs, (quillOfImage bs).1.ok = true) ∧
  (∀ q : Quill, q.ok = true ↔ (((q.norm = 0x800000 ∨ q.norm = 0x7FFFFF) ∧ q.dir = 0) ∨
    (q.norm ≠ 0x800000 ∧ q.norm ≠ 0x7FFFFF ∧ (∀ i < 128, -16384 ≤ q.d i ∧ q.d i ≤ 16384) ∧
      2 ^ 28 - 2 ^ 18 ≤ ((List.range 128).map (fun i => q.d i * q.d i)).sum ∧
      ((List.range 128).map (fun i => q.d i * q.d i)).sum ≤ 2 ^ 28 + 2 ^ 18)))

/-- The quill words, and that the pairs they give are well formed. Rests on choices of the model: log entry 50. -/
def Obligations.Quills : Prop :=
  Claim.QuillWords ∧ Claim.QuillsWellFormed

/-- R258, R259, R260-R263, R268: `mwld` opens its latch's window and reads its first beat; `macc` occupies the feed for
M · passes cycles and its tile for 136 more; `mclr` clears at the end of 32 cycles, `mfclr` of 4; `mflg` stores the flags. -/
def Claim.MatrixWords : Prop :=
  ∀ (g : BitVec 5) (f : MC) (s : State),
    let sh := s.seeSh 10 f.sh
    let m := s.core.mat
    (EngActs s .m [(2, f.sh.toNat)] → ∀ row ∈ planeTable, shReserved sh = false → shRows sh = 128 → shCols sh = 128 → shWfmt sh = row.1 →
      ¬(f.sc = true ∧ shTrans sh = true) → 4096 * f.ns.toNat + 2048 * row.2.1 ≤ 2 ^ 20 → two m.used f.wl = 0 → s.core.near.poisoned (4096 * f.ns.toNat) 128 = false →
      ∃ t l, exec (.mwld g f) s = .next t ∧ EngWent s t .m g ∧ MatrixFrame s t ∧ t.core.x.flight = s.core.x.flight ∧
        t.core.mat = { m with load := m.load.set f.wl.toNat (max (two m.load f.wl) (16 * row.2.1 + if f.sc then 16 else 0)) (by cases f.wl <;> decide),
                              loads := m.loads ++ [l] } ∧
        l.wl = f.wl ∧ l.fmt = row.1 ∧ l.trans = shTrans sh ∧ l.sc = f.sc ∧ l.planes = row.2.1 ∧ l.base = 4096 * f.ns.toNat ∧
        l.sbase = 4096 * f.ns2.toNat ∧ l.beat = 1 ∧
        (s.core.nearNews = [] → l.got = (List.range 128).map (fun i => s.core.near.byte (4096 * f.ns.toNat + i)))) ∧
    (EngActs s .m [(2, f.sh.toNat), (4, f.wl.toNat)] → ∀ row ∈ planeTable, ∀ col ∈ actTable, shReserved sh = false → shAfmt sh = f.fmt → f.fmt = col.1 → 1 ≤ shM sh → shM sh ≤ 128 →
      shCols sh = 128 → let eb := col.2.1
      let rs : Int := if shRowStride sh = 0 then 128 * eb else shRowStride sh
      rs % 128 = 0 → (∀ r < shM sh, (0 : Int) ≤ 4096 * f.ns.toNat + r * rs ∧ 4096 * f.ns.toNat + r * rs + 128 * eb ≤ 2 ^ 20) →
      (m.wl[f.wl.toNat]?.getD Latch.empty).full = true → (m.wl[f.wl.toNat]?.getD Latch.empty).fmt = row.1 →
      two m.load f.wl = 0 → m.feed = 0 → s.core.held f.at_ = false → two m.clr f.at_ = 0 → m.badRow f.at_ (shM sh) = false →
      s.core.near.poisoned (4096 * f.ns.toNat) 128 = false → (mxTy f.fmt = true → s.core.near.poisoned (4096 * f.ns2.toNat) 4 = false) →
      let passes := row.2.2 * col.2.2
      ∃ t, exec (.macc g f) s = .next t ∧ EngWent s t .m g ∧ MatrixFrame s t ∧ t.core.mat.feed = shM sh * passes ∧
        two t.core.mat.used f.wl = shM sh * passes ∧
        two t.core.mat.macc f.at_ = max (two m.macc f.at_) (shM sh * passes + 136) ∧ t.core.mat.cells = m.cells ∧
        t.core.mat.flg = m.flg ∧ t.core.mat.wl = m.wl ∧ t.core.mat.load = m.load ∧ t.core.mat.clr = m.clr ∧
        (eb = 2 → t.core.x.flight = s.core.x.flight) ∧
        (eb = 1 → s.core.nearNews = [] → ∃ x, t.core.x.flight = s.core.x.flight ++ [matResult s (passes + 136) true
          (rowLand (m.wl[f.wl.toNat]?.getD Latch.empty) x)] ∧ x.tile = f.at_ ∧ x.row = 0 ∧ x.fmt = f.fmt ∧ x.alsb = shAlsb sh ∧
          x.got = (List.range 128).map (fun i => s.core.near.byte (4096 * f.ns.toNat + i)) ∧
          (mxTy f.fmt = true → x.scs = (List.range 4).map (fun i => s.core.near.byte (4096 * f.ns2.toNat + i))))) ∧
    (s.core.em.pipe = false → s.core.held f.at_ = false → two m.macc f.at_ = 0 → ∃ t, exec (.mclr g f) s = .next t ∧ EngWent s t .m g ∧ MatrixFrame s t ∧
      t.core.mat = { m with clr := m.clr.set f.at_.toNat 32 (by cases f.at_ <;> decide) } ∧
      t.core.x.flight = s.core.x.flight ++ [matResult s 32 true (.tileClear f.at_)]) ∧
    (s.core.em.pipe = false → ∃ t, exec (.mfclr g f) s = .next t ∧ EngWent s t .m g ∧ MatrixFrame s t ∧ t.core.mat = m ∧
      t.core.x.flight = s.core.x.flight ++ [matResult s 4 true (.tflgClear f.at_)]) ∧
    (s.core.em.pipe = false → s.core.nearBusy f.ns.toNat = false → ∃ t v, exec (.mflg g f) s = .next t ∧ EngWent s t .m g ∧ MatrixFrame s t ∧
      t.core.mat = m ∧ t.core.x.flight = s.core.x.flight ++ [matResult s 4 false (.near ((List.range 8).map
        (fun i => (4096 * f.ns.toNat + 8 * f.at_.toNat + i, BitVec.ofNat 8 (v / 256 ^ i)))))] ∧
      (s.core.x.flight = [] → v = (m.flg[f.at_.toNat]?.getD 0).toNat))

/-- R264-R267: `mepi` holds its tile and destination slots, and puts each row's converted bytes in flight, row r to land
within 144 + 4(r + 1) cycles, an MX row's scales with the last; the cells and every memory stay. -/
def Claim.MatrixEpilogue : Prop :=
  ∀ row ∈ outTable, ∀ (g : BitVec 5) (f : MC) (s : State),
    let sh := s.seeSh 10 f.sh
    let m := s.core.mat
    let rows := shRows sh
    let rs : Int := if shRowStride sh = 0 then 128 * row.2 else shRowStride sh
    let place := fun (r : Nat) => ((4096 * f.ns.toNat : Nat) + r * rs : Int).toNat
    let scaled := (shEpi sh).getLsbD 0
    let biased := (shEpi sh).getLsbD 1
    let slots := (List.range rows).flatMap (fun r => slotsOf (place r) (128 * row.2)) ++ if mxTy f.fmt then [f.ns2.toNat] else []
    let num := fun (a n : Nat) => nearNum s (a + 4 * n) 4
    let value := fun (r n : Nat) => epiValue (Sparse.get 0 m.cells (16384 * f.at_.toNat + 128 * r + n)) (shAlsb sh).toInt
      (if scaled then some (num (shBase sh) n) else none) (if biased then some (num (shBase sh + 512) n) else none)
      ((shEpi sh).toNat / 4)
    let out := fun (r : Nat) => epiRow f.fmt (shEmax sh) (shInf sh) ((List.range 128).map (value r))
    EngActs s .m [(2, f.sh.toNat)] → f.fmt = row.1 → mepiOk f sh = true → rs % 128 = 0 → (scaled = true ∨ biased = true → shBase sh % 4 = 0) →
      (∀ r < rows, (0 : Int) ≤ 4096 * f.ns.toNat + r * rs ∧ 4096 * f.ns.toNat + r * rs + 128 * row.2 ≤ 2 ^ 20) →
      (scaled = true → shBase sh + 512 ≤ 2 ^ 20 ∧ s.core.near.poisoned (shBase sh) 512 = false) →
      (biased = true → shBase sh + 1024 ≤ 2 ^ 20 ∧ s.core.near.poisoned (shBase sh + 512) 512 = false) →
      (∀ n ∈ slots, s.core.nearBusy n = false) → two m.macc f.at_ = 0 → two m.clr f.at_ = 0 → m.badRow f.at_ rows = false →
      s.core.nearNews = [] →
      ∃ t rl, exec (.mepi g f) s = .next t ∧ EngWent s t .m g ∧ MatrixFrame s t ∧ { t.core.mat with holds := m.holds } = m ∧
        (∃ h ∈ t.core.mat.holds, h.tile = f.at_ ∧ ∀ n, n ∈ h.slots ↔ n ∈ slots) ∧ t.core.x.flight = s.core.x.flight ++ rl ∧
        (∀ r < rows, matResult s (144 + 4 * (r + 1)) false (.near (placed (place r) (out r).1 ++
          if r + 1 = rows then placed (4096 * f.ns2.toNat) ((List.range rows).flatMap (fun r => (out r).2.1)) else [])) ∈ rl) ∧
        (∀ r < rows, (out r).2.2 ≠ 0 → matResult s (144 + 4 * (r + 1)) false (.tflgSet f.at_ (out r).2.2) ∈ rl) ∧
        ∀ x ∈ rl, (∃ b, x.land = .near b) ∨ ∃ b, x.land = .tflgSet f.at_ b

/-- R270, R259, R262, R263, R267, R168: the fates of matrix words: SHAPE, XRANGE, MISAL, XBUSY, and MSEQ with its cause. -/
def Claim.MatrixTraps : Prop :=
  ∀ (g : BitVec 5) (f : MC) (s : State), RegsClean s [(2, f.sh.toNat), (4, f.wl.toNat)] →
    let sh := s.seeSh 10 f.sh
    let m := s.core.mat
    let raises := fun (i : Instr) (c u : BitVec 8) (a : Nat) =>
      ∃ t, exec i s = .next t ∧ EngTrappedSub s t .m c u (BitVec.ofNat 64 a)
    let base := 4096 * f.ns.toNat
    (((shReserved sh = true ∨ shRows sh ≠ 128 ∨ shCols sh ≠ 128 ∨ (∀ row ∈ planeTable, shWfmt sh ≠ row.1) ∨ (f.sc = true ∧ shTrans sh = true)) →
        raises (.mwld g f) 0x03 0 0) ∧
      (∀ row ∈ planeTable, shReserved sh = false → shRows sh = 128 → shCols sh = 128 → shWfmt sh = row.1 → ¬(f.sc = true ∧ shTrans sh = true) →
        (2 ^ 20 < base + 2048 * row.2.1 → raises (.mwld g f) 0x0A 0 (2 ^ 20)) ∧
        (base + 2048 * row.2.1 ≤ 2 ^ 20 → two m.used f.wl ≠ 0 → raises (.mwld g f) 0x10 3 0))) ∧
    ((shReserved sh = true ∨ shAfmt sh ≠ f.fmt ∨ (∀ col ∈ actTable, f.fmt ≠ col.1) ∨ shM sh = 0 ∨ 128 < shM sh ∨ shCols sh ≠ 128) →
      raises (.macc g f) 0x03 0 0) ∧
    (∀ col ∈ actTable, shReserved sh = false → shAfmt sh = f.fmt → f.fmt = col.1 → 1 ≤ shM sh → shM sh ≤ 128 → shCols sh = 128 →
      let rs : Int := if shRowStride sh = 0 then 128 * col.2.1 else shRowStride sh
      let inside := ∀ r < shM sh, (0 : Int) ≤ base + r * rs ∧ base + r * rs + 128 * col.2.1 ≤ 2 ^ 20
      let full := (m.wl[f.wl.toNat]?.getD Latch.empty).full
      (rs % 128 ≠ 0 → raises (.macc g f) 0x0C 0 base) ∧ (rs % 128 = 0 → ¬inside → raises (.macc g f) 0x0A 0 base) ∧
      (rs % 128 = 0 → inside →
        (two m.load f.wl ≠ 0 → raises (.macc g f) 0x10 2 0) ∧
        (two m.load f.wl = 0 → full = false → raises (.macc g f) 0x10 1 0) ∧
        (two m.load f.wl = 0 → full = true → m.feed ≠ 0 → raises (.macc g f) 0x10 4 0) ∧
        (two m.load f.wl = 0 → full = true → m.feed = 0 → s.core.held f.at_ = true → raises (.macc g f) 0x10 5 0) ∧
        (two m.load f.wl = 0 → full = true → m.feed = 0 → s.core.held f.at_ = false → two m.clr f.at_ ≠ 0 →
          raises (.macc g f) 0x10 6 0) ∧
        (two m.load f.wl = 0 → full = true → m.feed = 0 → s.core.held f.at_ = false → two m.clr f.at_ = 0 →
          m.badRow f.at_ (shM sh) = true → raises (.macc g f) 0x19 0 0))) ∧
    (s.core.held f.at_ = true → raises (.mclr g f) 0x10 5 0) ∧
    (s.core.held f.at_ = false → two m.macc f.at_ ≠ 0 → raises (.mclr g f) 0x10 6 0) ∧
    (s.core.nearBusy f.ns.toNat = true → raises (.mflg g f) 0x0B 0 (base + 8 * f.at_.toNat)) ∧
    (mepiOk f sh = false → raises (.mepi g f) 0x03 0 0) ∧
    (mepiOk f sh = true → ∀ row ∈ outTable, f.fmt = row.1 →
      let rs : Int := if shRowStride sh = 0 then 128 * row.2 else shRowStride sh
      let rows := shRows sh
      let place := fun (r : Nat) => ((base : Nat) + r * rs : Int).toNat
      let used := shEpi sh &&& 3 ≠ 0
      let last := if (shEpi sh).getLsbD 1 = true then 1024 else 512
      let inside := (∀ r < rows, (0 : Int) ≤ base + r * rs ∧ base + r * rs + 128 * row.2 ≤ 2 ^ 20)
      let slots := (List.range rows).flatMap (fun r => slotsOf (place r) (128 * row.2)) ++ if mxTy f.fmt then [f.ns2.toNat] else []
      (rs % 128 ≠ 0 → raises (.mepi g f) 0x0C 0 base) ∧
      (rs % 128 = 0 → used → shBase sh % 4 ≠ 0 → raises (.mepi g f) 0x0C 0 (shBase sh)) ∧
      (rs % 128 = 0 → (used → shBase sh % 4 = 0) → ¬inside → raises (.mepi g f) 0x0A 0 base) ∧
      (rs % 128 = 0 → (used → shBase sh % 4 = 0) → inside → used → 2 ^ 20 < shBase sh + last → raises (.mepi g f) 0x0A 0 (shBase sh)) ∧
      (rs % 128 = 0 → (used → shBase sh % 4 = 0 ∧ shBase sh + last ≤ 2 ^ 20) → inside →
        (∀ n ∈ slots, s.core.nearBusy n = true → (∀ m ∈ slots, m < n → s.core.nearBusy m = false) → raises (.mepi g f) 0x0B 0 (4096 * n)) ∧
        ((∀ n ∈ slots, s.core.nearBusy n = false) → two m.macc f.at_ ≠ 0 ∨ two m.clr f.at_ ≠ 0 → raises (.mepi g f) 0x10 6 0) ∧
        ((∀ n ∈ slots, s.core.nearBusy n = false) → two m.macc f.at_ = 0 → two m.clr f.at_ = 0 → m.badRow f.at_ rows = true →
          raises (.mepi g f) 0x19 0 0)))

/-- The matrix words, the epilogue and their traps. Rests on choices of the model: log entries 47, 48, 68. -/
def Obligations.MatrixWords : Prop :=
  Claim.MatrixWords ∧ Claim.MatrixEpilogue ∧ Claim.MatrixTraps

/-- R275, R121, R133, R276: an exchange that nothing forbids takes copies of its near side, marks it pending, asks for its far
side, is due at its arrival cycle, and spends a credit a block of main memory (in supervisor state the bucket stands, R319); else it raises PRIV, XRANGE, XBUSY, XOVER, MSEQ
or XORD and nothing begins.
Rests on choices of the model: log entries 37, 38. -/
def Obligations.Exchanges : Prop :=
  ∀ row ∈ xchTable, ∀ (g : BitVec 5) (f : XE) (s : State),
    let form := row.2
    let v := s.kpar .x f.fki + f.foff.signExtend 64
    let k := f.cnt.toNat + 1
    let a := if f.nk then (s.kpar .x f.nki).toNat else f.nsl.toNat
    let near := (List.range k).map (fun i => i + a)
    let far := (List.range k).map (fun i => i + if form = .np then v.toNat % 2 ^ 40 else v.toNat)
    let pkg := if form = .np then v.toNat / 2 ^ 40 else 0
    let foot := s.xchFoot form near far pkg
    let reach := if form = .np then 5 else 4
    let user := form = .am ∧ s.supOf .x = false
    let inside := s.xchIn form a v.toNat k = true
    let busy := s.xchBusy form near far = true
    let fits := k + s.core.buffered ≤ Config.xchBufferBlocks
    let tile := form = .am ∧ ∃ b ∈ near, s.core.tileBusy (decide (32 ≤ b)) = true
    let early := s.xord f.cls foot reach 0 f.arr.toNat = true
    let raises := fun (c u : BitVec 8) (w : Word) => ∃ t, exec (row.1 g f) s = .next t ∧ EngTrappedSub s t .x c u w
    (s.core.ex.pipe = false → ¬user → inside → ¬busy → fits → ¬tile → ¬early → ∃ t x e, exec (row.1 g f) s = .next t ∧ ExchangeFrame s t g ∧
      t.core.seq = s.core.seq ∧ t.core.x.accs = s.core.x.accs ++ [e] ∧ e.id = s.core.x.nid ∧ e.strm = .x ∧ e.cls = f.cls ∧
      e.due = some f.arr.toNat ∧ e.by_ = none ∧ e.foot = foot ++ s.physFeet foot ∧ e.reach = reach ∧ e.kind = .xch x ∧ x.form = form ∧ x.near = near ∧ x.far = far ∧ x.pkg = pkg ∧
      x.arrived = false ∧ x.inn = [] ∧ x.xl.length = (if form = .nd ∨ form = .np then 0 else k) ∧
      (form = .nd ∨ form = .nm ∨ form = .np → (∀ n ∈ near, t.core.nearBusy n = true) ∧
        (s.core.nearNews = [] → x.out = near.map s.core.near.block)) ∧
      (form = .am → x.out = near.map s.core.mat.accBlock) ∧ (form = .dm → ∀ b ∈ near, t.core.diePendingOwn b = true) ∧
      { t.core.x with accs := s.core.x.accs, nid := s.core.x.nid, credits := s.core.x.credits } = s.core.x ∧
      t.core.x.nid = s.core.x.nid + 1 ∧ t.core.x.credits = if form = .nd ∨ form = .np ∨ s.supOf .x = true then s.core.x.credits
        else s.core.x.credits - k) ∧
    (user → raises 0x02 0 0) ∧ (¬user → ¬inside → raises 0x0A 0 v) ∧ (¬user → inside → busy → raises 0x0B 0 v) ∧
    (¬user → inside → ¬busy → ¬fits → raises 0x11 0 v) ∧ (¬user → inside → ¬busy → fits → tile → raises 0x10 6 0) ∧
    (¬user → inside → ¬busy → fits → ¬tile → early → raises 0x1D 0 v)

/-- R273, R277, R281: `xsend` and `xpush` read their payload at issue, poison with it, and add a store to their receiver with its bound; `xland` marks its near
bytes and adds a landing at its arrival cycle; MISAL, XRANGE, XDEST, XBUSY and XORD perform nothing. -/
def Claim.Messages : Prop :=
  ∀ (g : BitVec 5) (f : XT) (s : State),
    let a := ((if f.bk then s.kpar .x f.ki else 0) + f.off.signExtend 64).toNat
    let n := f.len.toNat
    let v := s.kpar .x f.kd
    let pkg := if v.getLsbD 31 then some (v.extractLsb' 21 10).toNat else none
    let core := (v.extractLsb' 0 9).toNat
    let tag := (v.extractLsb' 12 4).toNat
    let read := fun (m : Store) => (s.core.nearNews = [] → ∀ i < n, m.byte i = s.core.near.byte (a + i)) ∧
      ∀ w, w ∈ m.poison ↔ a / 8 + w ∈ s.core.near.poison ∧ 8 * w < n
    let near := s.myDie = dieOf (s.coreOf s.partNum core)
    let bound := if v.getLsbD 31 = true then s.figures.plat else if near then 96 else 200
    let acts := s.core.ex.pipe = false
    let foot : List Foot := [{ sp := .near, addr := a, len := n }]
    let raises := fun (i : Instr) (c : BitVec 8) (w : Word) => ∃ t, exec i s = .next t ∧ EngTrapped s t .x c w
    let ad := BitVec.ofNat 64 a
    (a % 8 = 0 → a + n ≤ 2 ^ 20 →
      (acts → ¬BadDescriptor s v false → ∃ t, exec (.xsend g f) s = .next t ∧ ExchangeFrame s t g ∧ EngineSame s t ∧
        AccAdded s t .x f.cls 0 0 none (some bound) [] (fun k => ∃ m, k = .send pkg core tag m n ∧ read m)) ∧
      (acts → ¬BadDescriptor s v true → ∃ t, exec (.xpush g f) s = .next t ∧ ExchangeFrame s t g ∧ EngineSame s t ∧
        AccAdded s t .x f.cls 0 0 none (some bound) [] (fun k => ∃ m, k = .push pkg core m n ∧ read m)) ∧
      (acts → ¬BadDescriptor s v false → (slotsOf a n).any s.core.nearBusy = false → s.xord f.cls foot 3 0 f.arr.toNat = false →
        ∃ t, exec (.xland g f) s = .next t ∧ ExchangeFrame s t g ∧ EngineSame s t ∧
          AccAdded s t .x f.cls 0 0 (some f.arr.toNat) none foot (fun k => k = .land pkg core tag a n) ∧
          ∀ b ∈ slotsOf a n, t.core.nearBusy b = true)) ∧
    (a % 8 ≠ 0 → raises (.xsend g f) 0x0C ad ∧ raises (.xpush g f) 0x0C ad ∧ raises (.xland g f) 0x0C ad) ∧
    (a % 8 = 0 → 2 ^ 20 < a + n → raises (.xsend g f) 0x0A ad ∧ raises (.xpush g f) 0x0A ad ∧ raises (.xland g f) 0x0A ad) ∧
    (a % 8 = 0 → a + n ≤ 2 ^ 20 →
      (BadDescriptor s v false → raises (.xsend g f) 0x12 v ∧ raises (.xland g f) 0x12 v) ∧
      (BadDescriptor s v true → raises (.xpush g f) 0x12 v) ∧
      (¬BadDescriptor s v false → (slotsOf a n).any s.core.nearBusy = true → raises (.xland g f) 0x0B ad) ∧
      (¬BadDescriptor s v false → (slotsOf a n).any s.core.nearBusy = false → s.xord f.cls foot 3 0 f.arr.toNat = true →
        raises (.xland g f) 0x1D ad))

/-- R282-R286: an atomic whose target and destination are aligned, in range and free adds one access with its operands, its
scopes and, where it returns a value, its arrival cycle and landing mark, else its bound of 64 cycles or MLAT; else MISAL, XRANGE, XBUSY or XORD. -/
def Claim.Atomics : Prop :=
  ∀ (g : BitVec 5) (f : XA) (s : State), ∀ row ∈ atomTable f,
    let aop := row.2.1
    let n := row.2.2.1
    let ret := row.2.2.2
    let size := if 10 ≤ aop then 32 else n
    let v := s.kpar .x f.ka
    let a := v.toNat
    let d := ((if f.bk then s.kpar .x f.ki else 0) + f.off.signExtend 64).toNat
    let acq := if f.ordq = 1 ∨ f.ordq = 3 then f.scope.toNat else 0
    let rel := if f.ordq = 2 ∨ f.ordq = 3 then f.scope.toNat else 0
    let foot : List Foot := { sp := if f.al then .main s.core.seq.asid else .die, addr := a, len := size } ::
      if ret then [{ sp := .near, addr := d, len := n }] else []
    let reach := if f.al then 4 else s.reachDie s.myMembersOn a size
    let aligned := a % size = 0 ∧ (ret = true → d % n = 0)
    let inMem := if f.al then a + size ≤ 2 ^ 52 else s.dieOk a size = true
    let inNear := ret = true → d + n ≤ 2 ^ 20
    let taken := f.al = false ∧ (slotsOf a size).any s.core.diePendingOwn = true
    let marked := ret = true ∧ (slotsOf d n).any s.core.nearBusy = true
    let early := ret = true ∧ s.xord f.cls foot reach rel f.arr.toNat = true
    let raises := fun (c : BitVec 8) (w : Word) => ∃ t, exec (row.1 g f) s = .next t ∧ EngTrapped s t .x c w
    (s.core.ex.pipe = false → aligned → inMem → inNear → ¬taken → ¬marked → ¬early → ∃ t, exec (row.1 g f) s = .next t ∧ ExchangeFrame s t g ∧
      EngineSame s t ∧ t.core.seq.rpl = false ∧
      AccAdded s t .x f.cls acq rel (if ret then some f.arr.toNat else none)
        (if ret then none else some (if f.al then s.figures.mlat else 64)) foot (fun k => ∃ x, k = .atom x ∧ x.aop = aop ∧
        x.bytes = n ∧ x.main = f.al ∧ x.addr = a ∧ x.v.toNat = (s.kpar .x f.kv).toNat % 2 ^ (8 * min n 8) ∧
        x.cv.toNat = (s.kpar .x f.kc).toNat % 2 ^ (8 * min n 8) ∧ x.dst = (if ret then some d else none) ∧
        x.joined = false ∧ x.old = none)) ∧
    (a % size ≠ 0 → raises 0x0C v) ∧ (a % size = 0 → ret = true → d % n ≠ 0 → raises 0x0C (BitVec.ofNat 64 d)) ∧
    (aligned → ¬inMem → raises 0x0A v) ∧ (aligned → inMem → ¬inNear → raises 0x0A (BitVec.ofNat 64 d)) ∧
    (aligned → inMem → inNear → taken → raises 0x0B v) ∧
    (aligned → inMem → inNear → ¬taken → marked → raises 0x0B (BitVec.ofNat 64 d)) ∧
    (aligned → inMem → inNear → ¬taken → ¬marked → early → raises 0x1D v)

/-- xsend, xpush, xland and the atomics at issue. Rests on choices of the model: log entries 37, 38. -/
def Obligations.MessagesAndAtomics : Prop :=
  Claim.Messages ∧ Claim.Atomics

/-- R60, R61, R62, R156, R233, R389: the entry at the head of an engine's queue starts on an idle engine of an unfrozen core: its
header is at a multiple of 4 of the plane, its parameters are its DISP's, and a rotating section turns the window. A header that is
faulty raises ILLOP, an AFTER field whose engine has not retired the section it names ORDER, one with a poisoned word POISON, and the
entry stays. -/
def Claim.SectionStarts : Prop :=
  ∀ (c : Nat) (e : Stream) (s : State), e ≠ .seq →
    let u := s.focus c
    let x := u.core.eng e
    let ev := exec (.sectionStart c e) s
    let others := fun (t : State) => ∀ d ∈ engines, d ≠ e → t.core.eng d = u.core.eng d
    ((u.core.frozen = true ∨ x.run ≠ none ∨ x.gap ≠ 0 ∨ u.core.seq.draining = true ∨ x.queue = []) → ev = .next s) ∧
    (∀ q rest, x.queue = q :: rest → (q.fresh = true ∨ q.held = true ∨ q.failed = true) → ev = .next s) ∧
    (∀ q rest, x.queue = q :: rest → u.core.frozen = false → x.run = none → x.gap = 0 → u.core.seq.draining = false →
      q.fresh = false → q.held = false → q.failed = false →
      let a := (u.core.cur.find e q.secno.toNat).getD 0
      let h := u.core.cur.header a
      let after := fun (d : Stream) (f : BitVec 12) =>
        f = 0xFFF ∨ ∃ o, q.last[engIdx d]?.getD none = some (o, f) ∧ o < (u.core.eng d).retired
      let r : Running := { entry := q, hdr := h, base := a + 8, next := 0, wait := 0, stopped := false }
      let met := after (otherEngines e).1 h.after1 ∧ after (otherEngines e).2 h.after2
      let bad := u.core.cur.poisoned a 8 = true
      (¬bad → h.faulty e = false → met → ∃ t, ev = .next t ∧ others t ∧
        t.core.eng e = { x with queue := rest, started := x.started + 1, run := some r } ∧
        t.core.vec = { u.core.vec with rb := if h.rot then u.core.vec.rb + 4 else u.core.vec.rb } ∧
        Notes u t (fun k => { k with em := u.core.em, ev := u.core.ev, ex := u.core.ex, vec := u.core.vec })) ∧
      (bad ∨ ¬(h.faulty e = false ∧ met) → ∃ t, ev = .next t ∧ others t ∧ OutsideSame u t ∧ MemorySame u t ∧
        t.core.eng e = { x with queue := { q with failed := true } :: rest } ∧
        ((∀ x ∈ u.core.seq.traps, ¬(x.eng = e ∧ x.secno = q.secno ∧ x.sup = q.sup)) → ∃ cause,
          (bad → cause = 0x19) ∧ (¬bad → cause = if h.faulty e then 0x01 else 0x04) ∧ t.core.seq = { u.core.seq with
            traps := u.core.seq.traps ++ [{ cause := cause, sub := 0, eng := e, secno := q.secno, widx := 0, addr := 0, resume := none,
                                            sup := q.sup }] }) ∧
        { t.core with seq := u.core.seq, em := u.core.em, ev := u.core.ev, ex := u.core.ex } = u.core))

/-- R63, R64, R381, R389: a section retires when its last word has issued, or a trap has stopped it, and no result or access of it is
under way; the GAP of its last word still holds the engine's next start, and its fences end. -/
def Claim.SectionRetires : Prop :=
  ∀ (c : Nat) (e : Stream) (s : State) (r : Running), e ≠ .seq →
    let u := s.focus c
    let x := u.core.eng e
    let ev := exec (.sectionRetire c e) s
    let mine := fun (d : Stream) (o : Nat) => d = e ∧ o = x.retired
    let ended := r.stopped = true ∨ r.hdr.len.toNat ≤ r.next
    let clear := (∀ q ∈ u.core.x.flight, ¬mine q.strm q.ord) ∧ (∀ a ∈ u.core.x.accs, ¬mine a.strm a.ord) ∧
      (e = .m → (∀ l ∈ u.core.mat.loads, l.ord ≠ x.retired) ∧ ∀ l ∈ u.core.mat.feeds, l.ord ≠ x.retired)
    (x.run = none → ev = .next s) ∧
    (x.run = some r → ¬(ended ∧ clear) → ev = .next s) ∧
    (x.run = some r → ended → clear → ∃ t, ev = .next t ∧
      t.core.eng e = { x with run := none, gap := r.wait, retired := x.retired + 1, ret := x.ret + 1, fences := [] } ∧
      (∀ d ∈ engines, d ≠ e → t.core.eng d = u.core.eng d) ∧
      Notes u t (fun k => { k with em := u.core.em, ev := u.core.ev, ex := u.core.ex }))

/-- Sections start and retire. Rests on choices of the model: log entries 56, 68. -/
def Obligations.Sections : Prop :=
  Claim.SectionStarts ∧ Claim.SectionRetires

/-- R22, R45, R65, R85, R99, R100, R227, R254, R261, R263, R267, R268: a result lands at its bound, or before it where it need
not wait; it writes its destination and nothing else, and raises its flags. A result that lands exactly at its bound does not
land before, none lands ahead of a clear that is due of flags it raises, and a matrix word's writes to one place land in order. -/
def Claim.ResultLandings : Prop :=
  ∀ (c i : Nat) (s : State),
    let u := s.focus c
    let ev := exec (.resultLanding c i) s
    (u.core.x.flight[i]? = none → ev = .next s) ∧
    ∀ r, u.core.x.flight[i]? = some r →
      (¬LandsNow u.core i r → ev = .next s) ∧
      (LandsNow u.core i r → r.raced = [] →
        (regLand r.land = true → ∃ t, ev = .next t ∧ Landed u t i r (clearsOf r.land) ∧ RegLands u t r.land) ∧
        (matLand r.land = true → Sparse.canon 0 u.core.mat.cells = true → ∃ t, ev = .next t ∧ Landed u t i r 0 ∧ MatLands u t r.land))

/-- R22, R23, R65, R195: inside the window of a result a read of its destination gives the old value or the new, element by
element, and elsewhere the value the register holds; where two results meet, each element ends with one of them. -/
def Claim.WindowValues : Prop :=
  (∀ (s : State) (k : Nat),
    let q := s.core.seq
    (∀ i, s.reg k i = q.bank.get i ∨ i ≠ 0 ∧ Land.sreg q.sup i (s.reg k i) ∈ s.core.coming) ∧
    (∀ r : Fin 64, ∀ b < 4096, (s.seeV k r.val).getLsbD b = s.core.vec.v[r].getLsbD b ∨ ∃ ws w, Land.vec ws ∈ s.core.coming ∧
      w ∈ ws ∧ w.reg.toNat = r.val ∧ w.mask.getLsbD b = true ∧ (s.seeV k r.val).getLsbD b = w.val.getLsbD b) ∧
    (∀ i : BitVec 3, ∀ b < 256, (s.seeM k i).getLsbD b = (s.core.vec.m[i.toNat]?.getD 0).getLsbD b ∨
      ∃ w v, Land.mask i w v ∈ s.core.coming ∧ w.getLsbD b = true ∧ (s.seeM k i).getLsbD b = v.getLsbD b) ∧
    (∀ i : BitVec 4, ∀ b < 512, (s.seeSh k i).getLsbD b = (s.core.vec.sh[i.toNat]?.getD 0).getLsbD b ∨
      ∃ w v, Land.shape i w v ∈ s.core.coming ∧ w.getLsbD b = true ∧ (s.seeSh k i).getLsbD b = v.getLsbD b) ∧
    ∀ i : BitVec 4, some (s.seeQ k i) = s.core.vec.q[i.toNat]? ∨ Land.quill i (s.seeQ k i) ∈ s.core.coming) ∧
  ∀ (c i : Nat) (s : State) (r : Result),
    let u := s.focus c
    LandsNow u.core i r →
      ∃ t, exec (.resultLanding c i) s = .next t ∧ RegRaces u t r.raced r.land

/-- R327, R328, R329, R330, R375: at its bound an invalidation drops the entries it names from its die's TLB and its cores', and
no other; `errclr` empties a record its partition may clear; `parkrd` swaps a recovery entry into its near slot and gives its
PBN, or 0 where the entry is empty; `bar.kill` empties the object of its core's group, whose frozen cores leave with BARSEQ. -/
def Claim.PrivilegedLandings : Prop :=
  ∀ (c i : Nat) (s : State) (r : Result),
    let u := s.focus c
    let d := u.myDie
    LandsNow u.core i r → r.raced = [] →
      ∃ t, exec (.resultLanding c i) s = .next t ∧ Landed u t i r 0 ∧
      (∀ bad : TlbEntry → Prop,
        ((∃ a va, r.land = .tlbVa a va ∧ ∀ x, bad x ↔ x.holds a va.toNat = true) ∨ (∃ a, r.land = .tlbAsid a ∧ ∀ x, bad x ↔ x.asid = a) ∨
          (r.land = .tlbAll ∧ ∀ x, bad x ↔ True)) →
        (d < 4 → ∀ x, x ∈ (t.die d).tlb ↔ x ∈ (u.die d).tlb ∧ ¬bad x) ∧ (∀ e ≠ d, t.die e = u.die e) ∧
        (∀ k x, dieOf k = d → (x ∈ (t.coreAt k).tlb ↔ x ∈ (u.coreAt k).tlb ∧ ¬bad x)) ∧
        (∀ k, dieOf k ≠ d → t.coreAt k = u.coreAt k) ∧ MemorySame u t ∧ t.core.seq = u.core.seq ∧ t.core.mat = u.core.mat) ∧
      (∀ b, r.land = .errclr b →
        (let old := (((u.die d).today.find? (fun e => e.1 = b.toNat)).map (fun e => e.2.1)).getD <| (u.die d).banks[b.toNat]?.getD (Vector.replicate 8 0)
         let mine := old[0].getLsbD 63 = false ∨ (fieldAt old[0] 33 7 : BitVec 7).toNat = u.partNum
         d < 4 → (mine → BankCleared u t d b.toNat) ∧ ((∀ e ∈ (u.die d).today, e.1 ≠ b.toNat) → ¬mine → (t.die d).banks[b.toNat]? = some old)) ∧
        (∀ e, e ≠ b.toNat → (t.die d).banks[e]? = (u.die d).banks[e]?) ∧ (∀ e ≠ d, t.die e = u.die e) ∧ MemorySame u t ∧
        t.core.seq = u.core.seq ∧ t.core.mat = u.core.mat) ∧
      (∀ e n sup dst, r.land = .park e n sup dst → dst ≠ 0 →
        (∀ p, Sparse.find (u.die d).recovery e.toNat = some p → e.toNat < 192 →
          (t.core.seq.bankOf sup).get dst = BitVec.ofNat 64 (p.home.pbn % 2 ^ 36 + 2 ^ 63) ∧
          t.core.near = u.core.near.setBlock n.toNat p.block ∧ (d < 4 → (t.die d).recovery = Sparse.erase (u.die d).recovery e.toNat)) ∧
        (Sparse.find (u.die d).recovery e.toNat = none ∨ 192 ≤ e.toNat → (t.core.seq.bankOf sup).get dst = 0 ∧
          MemorySame u t ∧ t.dies = u.dies)) ∧
      (∀ b sc, r.land = .kill b sc →
        let p := u.partNum
        let g := groupOf u.here sc
        let waits := fun (n : Nat) (k : Core) => groupOf n sc = g ∧ (u.partOf n).map Prod.fst = some p ∧
          ∃ w, k.seq.frz.bar = some w ∧ w.bar = b ∧ w.scope = sc
        (∀ o, o ∈ t.barriers ↔ o ∈ u.barriers ∧ ¬(o.part = p ∧ o.bar = b ∧ o.scope = sc ∧ o.group = g)) ∧
        (∀ n, waits n (u.coreAt n) → (t.coreAt n).seq.frz.bar = none ∧ ∃ x, (t.coreAt n).seq.traps = (u.coreAt n).seq.traps ++ [x] ∧
          x.cause = 0x0E ∧ x.eng = .seq ∧ x.addr = BitVec.ofNat 64 b.toNat ∧ x.resume = some (u.coreAt n).seq.pc) ∧
        (∀ n, n ≠ u.here → ¬waits n (u.coreAt n) → t.coreAt n = u.coreAt n) ∧ MemorySame u t)

/-- Results land at their bounds; reads inside a window. Rests on choices of the model: log entries 58, 59. -/
def Obligations.ResultsLand : Prop :=
  Claim.ResultLandings ∧ Claim.WindowValues ∧ Claim.PrivilegedLandings

/-- R25, R68, R123, R148, R193, R224, R252, R277, R278, R281, R283, R367: in its arrival cycle a load gives its register the bytes
its events read, an `xland` its near bytes those of the payload it claims with their poison, an atomic its old value; a poisoned
load word raises POISON and a payload of another length XLEN, and nothing is written. Before the arrival cycle, without its data
or its order, nothing lands. -/
def Claim.AccessLandings : Prop :=
  ∀ (c id : Nat) (s : State),
    let u := s.focus c
    let k := u.core
    let ev := exec (.landingDue c id) s
    let gone := fun (t : State) => t.core.x.accs.map Acc.unraced = (k.x.accs.filter (fun b => b.id != id)).map Acc.unraced
    let outside := fun (t : State) => OutsideSame u t ∧ t.core.mat = k.mat
    let nearIs := fun (t : State) (ad : Nat) (bs : List Byte) => (∀ i < bs.length, t.core.near.byte (ad + i) = bs[i]?.getD 0) ∧
      MemorySameBut (fun b => ad ≤ b ∧ b < ad + bs.length) u t
    let traps := fun (t : State) (a : Acc) (cause : BitVec 8) (ad : Word) => LaterTrap u t a cause 0 ad ∧ MemorySame u t
    (k.acc? id = none → ev = .next s) ∧
    ∀ a, k.acc? id = some a →
      (a.due ≠ some 0 ∨ k.present a = false ∨ k.paused a = true ∨ k.seq.frz.lateOn = true → ev = .next s) ∧
      (a.due = some 0 → k.present a = true → k.paused a = false → k.seq.frz.lateOn = false →
        (∀ ps d, a.kind = .load ps d →
          (∀ p, ps.find? Piece.poisoned = some p → ∃ t, ev = .next t ∧ gone t ∧ outside t ∧ traps t a 0x19 (BitVec.ofNat 64 p.addr)) ∧
          (ps.find? Piece.poisoned = none → a.raced = [] →
            (∀ sup i, d = .sreg sup i → ∃ t, ev = .next t ∧ gone t ∧ outside t ∧
              RegLands u t (.sreg sup i (BitVec.ofNat 64 (natOfBytes (ps.flatMap Piece.data))))) ∧
            (∀ reg w els mask, d = .vreg reg w els mask → (els.map Prod.fst).Nodup → (∀ e ∈ els, e.1 < 4096 / w) →
              w ∈ ([4, 8, 16, 32, 64] : List Nat) → ∃ t v, ev = .next t ∧ gone t ∧ outside t ∧ RegLands u t (.vec [{ reg := reg, w := w, mask := mask, val := v }]) ∧
                ∀ e ∈ els, elemAt w e.1 v = elemInMem w (pieceByte ps) e.2.1 e.2.2) ∧
            (∀ i, d = .quill i → ∃ t q, ev = .next t ∧ gone t ∧ outside t ∧ RegLands u t (.quill i q) ∧
              let ad := (ps.head?.map Piece.addr).getD 0
              let num := fun (b n : Nat) => natOfBytes ((List.range n).map (fun j => pieceByte ps (b + j)))
              let y : Quill := { dir := BitVec.ofNat 2048 (num ad 256), norm := BitVec.ofNat 24 (num (ad + 256) 3) }
              if y.ok then q = y ∧ t.core.vec.flg = k.vec.flg
              else q = { dir := 0, norm := 0x7FFFFF } ∧ t.core.vec.flg = k.vec.flg ||| fIV.setWidth 32))) ∧
        (∀ pkg src tag ad n, a.kind = .land pkg src tag ad n → ∀ j p, k.claim a = some j → k.x.landing[j]? = some p →
          (p.len = n → a.raced = [] → k.near.wf = true → ∃ t, ev = .next t ∧ gone t ∧ outside t ∧ t.core.x.landing = dropAt k.x.landing j ∧
            nearIs t ad ((List.range n).map p.data.byte) ∧ (∀ w ∈ p.data.poison, ad / 8 + w ∈ t.core.near.poison) ∧
            (∀ w ∈ t.core.near.poison, w ∈ k.near.poison ∨ ∃ v ∈ p.data.poison, w = ad / 8 + v) ∧ t.core.seq = { k.seq with rpl := false }) ∧
          (p.len ≠ n → ∃ t, ev = .next t ∧ gone t ∧ outside t ∧ t.core.x.landing = dropAt k.x.landing j ∧ traps t a 0x13 (BitVec.ofNat 64 ad))) ∧
        (∀ x ad v, a.kind = .atom x → x.dst = some ad → x.old = some v → a.raced = [] → k.near.wf = true →
          ∃ t, ev = .next t ∧ gone t ∧ outside t ∧ t.core.seq = k.seq ∧
            nearIs t ad ((List.range x.bytes).map (fun i => BitVec.ofNat 8 (v.toNat / 256 ^ i))) ∧
            (x.poisoned = true → ad / 8 ∈ t.core.near.poison) ∧ { t.core.x with accs := k.x.accs, flight := k.x.flight } = k.x))

/-- R18, R66, R386, R389: a bank-conflict freeze ends when its ticks have passed, not before, and only the freeze changes. -/
def Claim.BankConflictEnds : Prop :=
  ∀ (c : Nat) (s : State),
    let u := s.focus c
    let ev := exec (.bankConflictEnd c) s
    (u.core.seq.frz.bankOn = false ∨ u.core.seq.frz.bank ≠ 0 → ev = .next s) ∧
    (u.core.seq.frz.bankOn = true → u.core.seq.frz.bank = 0 → ∃ t, ev = .next t ∧
      t.core.seq = { u.core.seq with frz := { u.core.seq.frz with bankOn := false, ticks := 0 } } ∧
      Notes u t (fun k => { k with seq := u.core.seq }))

/-- R133: a core gains a block credit for every MRATE cycles counted, up to 16, and none besides. -/
def Claim.CreditsRefill : Prop :=
  ∀ (c : Nat) (s : State),
    let u := s.focus c
    let ev := exec (.creditRefill c) s
    (16 ≤ u.core.x.credits ∨ u.core.x.credit < u.figures.mrate → ev = .next s) ∧
    (u.core.x.credits < 16 → u.figures.mrate ≤ u.core.x.credit → ∃ t, ev = .next t ∧ OutsideSame u t ∧ MemorySame u t ∧
      t.core = { u.core with x := { u.core.x with credits := u.core.x.credits + 1, credit := u.core.x.credit - u.figures.mrate } })

/-- Landings at their arrival cycles, bank conflicts, credits. Rests on choices of the model: log entries 47, 58, 69. -/
def Obligations.AccessesLand : Prop :=
  Claim.AccessLandings ∧ Claim.BankConflictEnds ∧ Claim.CreditsRefill

/-- R123, R124, R142, R148, R152, R350, R396: an event of a die load reads its bytes at their banks, or from the block an exchange's commit
kept for it; one of a store writes its enabled bits and no others. A store to a slot pending under an exchange raises XBUSY
and writes nothing of the beat; over a failed link a load's bytes come poisoned and a store's are lost (log entry 70); a line with reductions still to apply lets them apply first. Nothing performs before what is
ordered before it, nor on a link where its partition owns no opportunity. -/
def Claim.AccessesPerform : Prop :=
  ∀ (c id n : Nat) (s : State) (a : Acc) (p : Piece),
    let u := s.focus c
    let ev := exec (.accessPerform c id n) s
    let ms := u.myMembersOn
    let here := (diePlace ms p.addr).2
    let core := fun (t : State) => { t.core with x := u.core.x } = u.core ∧ { t.core.x with accs := u.core.x.accs } = u.core.x
    u.core.acc? id = some a → a.pieces[n]? = some p →
      let cut := p.len ≠ 0 ∧ u.linkFailed (u.pieceWay a p).1 (u.pieceWay a p).2 = true
      let open_ := p.len = 0 ∨ u.fadOpen (u.pieceWay a p).1 (u.pieceWay a p).2 = true
      (p.done = true ∨ u.core.clearFor a = false ∨ (¬cut ∧ ¬open_) → ev = .next s) ∧
      (p.done = false → u.core.clearFor a = true → cut → ∃ t, ev = .next t ∧ AccsOnly u t ∧
        let qs := a.pieces.set n { p with data := List.replicate p.len 0, done := true, poisoned := true }
        if a.due = none ∧ qs.all Piece.done = true then AccGone u t id else AccNow u t id (fun b => b.setPieces qs)) ∧
      (p.done = false → u.core.clearFor a = true → ¬cut → open_ → p.len ≠ 0 → u.lineHeld false (here / 128) = true →
        ∃ t, ev = .next t ∧ LineCloses u t false (here / 128)) ∧
      (p.done = false → u.core.clearFor a = true → ¬cut → open_ → (p.len = 0 ∨ u.lineHeld false (here / 128) = false) →
        (∀ ps d, a.kind = .load ps d →
          let kept := a.snap.find? (fun e => e.1 == p.addr / 4096)
          let bytes := (List.range p.len).map (fun i =>
            (kept.map (fun e => e.2.byte (p.addr % 4096 + i))).getD (u.dieStore.byte (diePlace ms (p.addr + i)).2))
          let bad := (kept.map (fun e => e.2.poisoned (p.addr % 4096) p.len)).getD (u.dieStore.poisoned here p.len)
          let qs := ps.set n { p with data := bytes, done := true, poisoned := bad }
          ∃ t, ev = .next t ∧ AccsOnly u t ∧
            if a.due = none ∧ qs.all Piece.done = true then AccGone u t id
            else AccNow u t id (fun b => { b with kind := .load qs d })) ∧
        (∀ ps, a.kind = .store ps →
          (p.len ≠ 0 → u.dieMarked (p.addr / 4096) = true → ∃ t, ev = .next t ∧ LaterTrap u t a 0x0B 0 (BitVec.ofNat 64 p.addr) ∧
            OutsideSame u t ∧ MemorySame u t ∧
            let qs := ps.map (fun (q : Piece) => if q.addr / 128 = p.addr / 128 then { q with done := true } else q)
            if a.due = none ∧ qs.all Piece.done = true then AccGone u t id else AccNow u t id (fun b => b.setPieces qs)) ∧
          (p.len = 0 ∨ u.dieMarked (p.addr / 4096) = false → p.data.length = p.len → p.en.length = p.len →
            p.addr % 128 + p.len ≤ 128 → dieBlockOk ms (p.addr / 4096) = true → u.dieStore.wf = true →
            ∃ t, ev = .next t ∧ core t ∧ { t with core := u.core, dieStore := u.dieStore, free := u.free } = u ∧
              (∀ i < p.len, t.dieStore.byte (here + i) =
                (u.dieStore.byte (here + i) &&& ~~~(p.en[i]?.getD 0)) ||| ((p.data[i]?.getD 0) &&& (p.en[i]?.getD 0))) ∧
              (∀ b, ¬(here ≤ b ∧ b < here + p.len) → t.dieStore.byte b = u.dieStore.byte b) ∧
              let qs := ps.set n { p with done := true }
              if a.due = none ∧ qs.all Piece.done = true then AccGone u t id
              else AccNow u t id (fun b => b.setPieces qs))))

/-- R123, R125, R142, R152, R153, R283-R286, R359: an atomic at its home reads and writes its target in one event; one that
returns a value keeps the old one for its landing; a reduction that returns none joins the entry of its line. A poisoned target is
not written and its loss recorded. A translation fault raises XAFLT, a slot pending under an exchange XBUSY; over a failed link
nothing performs (log entry 70). -/
def Claim.AtomicsPerform : Prop :=
  ∀ (c id : Nat) (s : State) (a : Acc) (x : Atom),
    let u := s.focus c
    let ev := exec (.atomicPerform c id) s
    let merges := x.dst = none ∧ (x.aop ≤ 7 ∨ x.aop = 11)
    let cut := x.main = false ∧ u.linkFailed u.myDie (u.homeDie x.addr) = true
    let room := x.dst = none ∨ a.due = some 0 ∨ u.core.landingRoom x.bytes = true
    let open_ := fun (l : Leaf) => room ∧ (x.main = false → cut ∨ u.fadOpen u.myDie (u.homeDie x.addr) = true) ∧
      (x.main = true → (u.carries l.pbn = true ∨ u.broken l.pbn = true) ∧ (merges ∨ u.locked (Home.near l.pbn) = false))
    u.core.acc? id = some a → a.kind = .atom x →
      (x.old ≠ none ∨ x.joined = true ∨ u.core.clearFor a = false ∨ x.xl = .wait → ev = .next s) ∧
      (∀ l, x.xl = .ok l → ¬open_ l → ev = .next s) ∧
      (x.old = none → x.joined = false → u.core.clearFor a = true →
        (∀ kind lvl, x.xl = .bad kind lvl → ∃ t, ev = .next t ∧ AccGone u t id ∧
          LaterTrap u t a 0x15 (if kind.toNat ≤ 6 then 1 else 2)
            (BitVec.ofNat 64 (x.addr / 4096 % 2 ^ 40 + lvl % 16 * 2 ^ 44 + kind.toNat * 2 ^ 48)) ∧
          MemorySame u t) ∧
        (∀ l, x.xl = .ok l → open_ l → cut → ∃ t, ev = .next t ∧ OutsideSame u t ∧ MemorySame u t ∧ (x.dst = none → AccGone u t id) ∧
          (x.dst ≠ none → ∃ v, AccNow u t id (fun b => { b with kind := .atom { x with old := some v, poisoned := true } }))) ∧
        (∀ l, x.xl = .ok l → open_ l → ¬cut →
          let place := if x.main then 4096 * l.pbn + x.addr % 4096 else (diePlace u.myMembersOn x.addr).2
          let size := if 10 ≤ x.aop then 32 else x.bytes
          let marked := x.main = false ∧ u.dieMarked (x.addr / 4096) = true
          (marked → ∃ t, ev = .next t ∧ AccGone u t id ∧ LaterTrap u t a 0x0B 0 (BitVec.ofNat 64 x.addr) ∧ OutsideSame u t ∧
            MemorySame u t) ∧
          (¬marked → merges → ∃ t, ev = .next t ∧ AccNow u t id (fun b => { b with kind := .atom { x with joined := true } }) ∧
            { t with core := u.core, entries := u.entries, free := u.free } = u ∧ MemorySame u t ∧
            (let m : Member := { core := u.here, acc := id, addr := place, key := l.key, v := x.v }
             (∃ e ∈ t.entries, e.main = x.main ∧ e.line = place / 128 ∧ e.aop = x.aop ∧ e.bytes = x.bytes ∧ m ∈ e.members) ∧
             ∀ e ∈ u.entries, e.main = x.main → e.line = place / 128 → e.closed = false → e.aop = x.aop → e.bytes = x.bytes →
               ¬(x.main = true ∧ u.locked (Home.near l.pbn) = true) → { e with members := e.members ++ [m] } ∈ t.entries) ∧
            (x.main = true → u.locked (Home.near l.pbn) = true → ∀ e ∈ t.entries, e.main = x.main → e.line = place / 128 → e.closed = true)) ∧
          (¬marked → ¬merges → u.lineHeld x.main (place / 128) = true → ∃ t, ev = .next t ∧ LineCloses u t x.main (place / 128)) ∧
          (¬marked → ¬merges → u.lineHeld x.main (place / 128) = false → place % size = 0 → size ∣ 128 → u.dieStore.wf = true →
            u.main.wf = true → Sparse.canon 0 u.seals = true →
            let r := u.atomRead x.main l.key place size
            ∃ t, ev = .next t ∧ t.core.vec = u.core.vec ∧ t.core.seq = u.core.seq ∧ t.core.near = u.core.near ∧
              t.others = u.others ∧ t.here = u.here ∧ t.remote = u.remote ∧
              (x.main = true → t.dieStore = u.dieStore) ∧ (x.main = false → t.main = u.main) ∧
              (r.2 = true → MemorySame u t ∧
                let lost := fun (src : BitVec 8) (w : Nat) => u.coreEvent 0x0A src (BitVec.ofNat 64 w) 1 a.strm a.secno a.widx
                let home := place / Config.shareBytes
                let ch := u.chanOf (place / 4096)
                (x.main = true → ch < 24 → BankTook u t (ch / 6) (8 + ch % 6) (lost 0x20 place)) ∧
                (x.main = false → home < 512 → BankTook u t (home / 128) (home % 128 / 16) (lost 0x10 x.addr))) ∧
              (∀ row ∈ atomRows, x.aop = row.1 → r.2 = false → (row.1 = 11 ∨ row.1 = 12 → cellOk r.1 = true) →
                let new := row.2 (8 * x.bytes) r.1 x.v.toNat x.cv.toNat
                (x.main = true → MainHolds u t l.key place size new) ∧
                (x.main = false → (∀ j < size, t.dieStore.byte (place + j) = BitVec.ofNat 8 (new / 256 ^ j)) ∧
                  ∀ b, ¬(place ≤ b ∧ b < place + size) → t.dieStore.byte b = u.dieStore.byte b)) ∧
              (x.dst = none → AccGone u t id) ∧
              (x.dst ≠ none → ∃ v, AccNow u t id (fun b => { b with kind := .atom { x with old := some v, poisoned := r.2 } }) ∧
                (x.aop < 12 → v = BitVec.ofNat 64 r.1) ∧ (x.aop = 12 → cellOk r.1 = true → v = BitVec.ofNat 64 (cellRead r.1))))))

/-- R125, R152, R153, R283, R284: the oldest entry of a line applies all its members in one event, each target taking every
member's operation, and the members' accesses end; where a target is poisoned nothing is written, and the members lost are recorded. An entry behind another of its
line, or at a locked home, waits. -/
def Claim.MergedEntries : Prop :=
  ∀ (i : Nat) (s : State) (e : Entry),
    let ev := exec (.mergedEntryApply i) s
    let first := ∀ x ∈ s.entries.take i, ¬(x.main = e.main ∧ x.line = e.line)
    let unlocked := e.main = false ∨ s.locked (Home.near (e.line / 32)) = false ∧ (s.carries (e.line / 32) = true ∨ s.broken (e.line / 32) = true)
    let size := if 10 ≤ e.aop then 32 else e.bytes
    let read := fun (m : Member) => s.atomRead e.main m.key m.addr size
    s.entries[i]? = some e →
      (¬(first ∧ unlocked) → ev = .next s) ∧
      (first → unlocked → KeysOk s → ∃ t, ev = .next t ∧ t.entries = dropAt s.entries i ∧
        (∀ m ∈ e.members, ∀ a ∈ (t.coreAt m.core).x.accs, a.id ≠ m.acc) ∧
        (∀ c a, a ∈ (s.coreAt c).x.accs → (∀ m ∈ e.members, m.core = c → m.acc ≠ a.id) → a ∈ (t.coreAt c).x.accs) ∧
        (∀ c, { t.coreAt c with x := (s.coreAt c).x } = s.coreAt c) ∧ t.remote = s.remote ∧
        (e.main = true → t.dieStore = s.dieStore) ∧ (e.main = false → t.main = s.main) ∧
        (∀ m, e.members.find? (fun m => (read m).2) = some m → MemorySame s t ∧
          let lost := fun (src : BitVec 8) (ad : Word) => plainEvent 0x0A src (((s.partOf m.core).map Prod.fst).getD 127) ad
            (BitVec.ofNat 64 e.members.length)
          let home := m.addr / Config.shareBytes
          let ch := s.chanOf (m.addr / 4096)
          (e.main = true → ch < 24 → BankTook s t (ch / 6) (8 + ch % 6) (lost 0x20 (BitVec.ofNat 64 m.addr))) ∧
          (e.main = false → home < 512 → ∃ ad, BankTook s t (home / 128) (home % 128 / 16) (lost 0x10 ad))) ∧
        ((∀ m ∈ e.members, (read m).2 = false ∧ m.addr / 128 = e.line ∧ m.addr % size = 0 ∧ m.v.toNat < 2 ^ (8 * e.bytes) ∧ (e.aop = 11 → cellOk (read m).1 = true)) →
          (∀ m ∈ e.members, ∀ n ∈ e.members, m.key = n.key) → size ∣ 128 → s.dieStore.wf = true → s.main.wf = true →
          Sparse.canon 0 s.seals = true → ∀ row ∈ atomRows, e.aop = row.1 → (row.1 ≤ 7 ∨ row.1 = 11) → ∀ m ∈ e.members,
            let new := ((e.members.filter (fun d => d.addr == m.addr)).map (fun d => d.v.toNat)).foldl
              (fun o v => row.2 (8 * e.bytes) o v 0) (read m).1
            (e.main = true → (t.atomRead true m.key m.addr size).1 = new) ∧
            (e.main = false → ∀ j < size, t.dieStore.byte (m.addr + j) = BitVec.ofNat 8 (new / 256 ^ j))) ∧
        (e.main = false → s.dieStore.wf = true → ∀ b, (∀ m ∈ e.members, ¬(m.addr ≤ b ∧ b < m.addr + size)) →
          t.dieStore.byte b = s.dieStore.byte b))

/-- Loads, stores, atomics and merged entries perform at their homes. Rests on choices of the model: log entries 40, 41, 70. -/
def Obligations.AccessesPerform : Prop :=
  Claim.AccessesPerform ∧ Claim.AtomicsPerform ∧ Claim.MergedEntries

/-- R25, R118, R121, R124-R127, R132, R150, R276, R289, R350, R359, R371, R396: an exchange's far-side data arrives when every
translation stands, its places are clear, its homes unlocked on channels that work and where its partition holds an entry, its die
blocks whole and their link open, and the landing buffer takes it: its homes are locked and the far blocks taken; of a parked home
a supervisor's exchange takes the stale block poisoned, and any other takes it so or is abandoned. A translation or key fault, here
or at the other package, one physical block named twice, or a failed path abandons it, the path recorded at its unit. -/
def Claim.FarDataArrives : Prop :=
  ∀ (c id : Nat) (s : State) (a : Acc) (x : Xch),
    let u := s.focus c
    let ev := exec (.farDataArrival c id) s
    let takes := fun (t : State) (hs : List (Home × BitVec 11)) => ∃ y, { t with core := u.core, locks := u.locks, free := u.free } = u ∧
      MemorySame u t ∧ { t.core with x := u.core.x } = u.core ∧ AccNow u t id (fun b => { b with kind := .xch y }) ∧
      t.locks = u.locks ++ hs.map (fun (h : Home × BitVec 11) => ({ home := h.1, key := h.2, core := u.here, id := id } : Lock)) ∧
      { y with inn := x.inn, out := x.out, arrived := x.arrived, taken := x.taken } = x ∧ y.arrived = true ∧ y.taken = true ∧
      y.inn = (if x.form = .nd then x.far.map (u.dieBlock u.myMembersOn)
        else hs.map (fun h => let b := if h.1.pod = true then u.remote.block h.1.pbn else u.mainBlock h.2 h.1.pbn
          if u.isParked h.1 then b.allPoison else b)) ∧
      y.out = if x.form = .dm then x.near.map (u.dieBlock u.myMembersOn) else x.out
    let faults := fun (t : State) (i : Nat) (kind : BitVec 8) (lvl : Nat) => Abandons u t a (if kind.toNat ≤ 6 then 1 else 2)
      (BitVec.ofNat 64 ((x.far[i]?.getD 0) % 2 ^ 40 + lvl % 16 * 2 ^ 44 + kind.toNat * 2 ^ 48 + x.pkg % 256 * 2 ^ 56))
    let there := fun (t : State) => x.form = .np ∧ ∃ i kind lvl, i < x.far.length ∧ lvl < 4 ∧ faults t i kind lvl
    u.core.acc? id = some a → a.kind = .xch x →
      (x.arrived = true ∨ u.core.placeClear a = false → ev = .next s) ∧
      (firstBad x.xl = none → leavesOf x.xl = none → ev = .next s) ∧
      (x.arrived = false → u.core.placeClear a = true →
        (∀ i kind lvl, firstBad x.xl = some (i, kind, lvl) → ∃ t, ev = .next t ∧ faults t i kind lvl) ∧
        (∀ ls, firstBad x.xl = none → leavesOf x.xl = some ls →
          let hs := u.xchHomes x ls
          let cut := u.xchCut x ls
          let waits := (∃ h ∈ hs, u.locked h.1 = true ∨ h.1.pod = false ∧ (u.carries h.1.pbn = false ∨ u.hasSlot u.partNum h.1.pbn = false)) ∨
            (∃ b ∈ x.dies, ∃ d ∈ u.cores, (u.partOf d.1).map Prod.fst = some u.partNum ∧ d.2.midBeat b = true) ∨
            (∃ d, x.dieAt = some d ∧ u.fadOpen d u.myDie = false) ∨
            (a.due ≠ some 0 ∧ u.core.landingRoom (4096 * x.near.length) = false)
          let held := ∃ e ∈ u.xchLines x ls, u.lineHeld e.1 e.2 = true
          let closes := fun (t : State) => { t with entries := u.entries, free := u.free } = u ∧
            ∀ e ∈ u.xchLines x ls, ∀ y ∈ t.entries, y.main = e.1 → y.line = e.2 → y.closed = true
          (∀ src ad, cut = some (src, ad) → x.form ≠ .np → ∃ t, ev = .next t ∧ Abandons u t a 5 x.farVal ∧
            let rec_ := u.coreEvent 0x08 src (BitVec.ofNat 64 ad) 5 a.strm a.secno a.widx
            let ch := u.chanOf (ad / 4096)
            (src = 0x21 → ch < 24 → BankTook u t (ch / 6) (8 + ch % 6) rec_) ∧ (src = 0x30 → u.myDie < 4 → BankTook u t u.myDie 14 rec_)) ∧
          (cut = none → twice hs = true → ∃ t, ev = .next t ∧ (Abandons u t a 1 x.farVal ∨ there t)) ∧
          (cut = none → twice hs = false → waits → ev = .next s) ∧
          (cut = none → twice hs = false → ¬waits → (∀ h ∈ hs, u.isParked h.1 = false) ∨ a.sup = true →
            ∃ t, ev = .next t ∧ (there t ∨ held ∧ closes t ∨ ¬held ∧ takes t hs)) ∧
          (cut = none → twice hs = false → ¬waits → (∃ h ∈ hs, u.isParked h.1 = true) → a.sup = false → ¬held →
            ∃ t, ev = .next t ∧ (there t ∨ takes t hs ∨ Abandons u t a 5 x.farVal))))

/-- R126-R128, R280, R365, R369, R371: a path that fails under an exchange abandons it with cause 5, under a committed exchange parks
the copy of each home on it in the die's recovery buffer and writes the others, and poisons words of what an undelivered payload or a
load still carries. -/
def Claim.PathsFail : Prop :=
  ∀ (c id : Nat) (s : State),
    let u := s.focus c
    let ev := exec (.pathFailure c id) s
    let damaged := fun (m y : Store) (n : Nat) => y.bytes = m.bytes ∧ (∀ w ∈ m.poison, w ∈ y.poison) ∧
      (∀ w ∈ y.poison, w ∈ m.poison ∨ w < (n + 7) / 8) ∧ (n ≠ 0 → ∃ w < (n + 7) / 8, w ∈ y.poison)
    let lost := fun (p : Piece) => if p.done = true then p else { p with data := List.replicate p.len 0, done := true, poisoned := true }
    (u.core.acc? id = none → u.core.wb? id = none → ev = .next s) ∧
    (∀ a, u.core.acc? id = some a →
      (∀ x, a.kind = .xch x →
        (x.arrived = true → ∃ t, ev = .next t ∧ OutsideSame u t ∧ t.core = u.core) ∧
        (x.arrived = false → x.form = .np ∨ x.dies ≠ [] ∨ (∃ l r, leavesOf x.xl = some (l :: r)) → ∃ t, ev = .next t ∧
          Abandons u t a 5 x.farVal ∧ (x.form = .np → u.myDie < 4 → BankTook u t u.myDie 14 (u.coreEvent 0x08 0x31 0 5 a.strm a.secno a.widx)))) ∧
      (∀ p d g m n, a.kind = .send p d g m n → ∃ t y, ev = .next t ∧ AccsOnly u t ∧
        AccNow u t id (fun b => { b with kind := .send p d g y n }) ∧ damaged m y n) ∧
      (∀ p d m n, a.kind = .push p d m n → ∃ t y, ev = .next t ∧ AccsOnly u t ∧
        AccNow u t id (fun b => { b with kind := .push p d y n }) ∧ damaged m y n) ∧
      (∀ ps d, a.kind = .load ps d → ∃ t, ev = .next t ∧ AccsOnly u t ∧
        if a.due = none then AccGone u t id else AccNow u t id (fun b => { b with kind := .load (ps.map lost) d })) ∧
      (∀ ps, a.kind = .store ps → a.due = none → ∃ t, ev = .next t ∧ AccsOnly u t ∧ AccGone u t id) ∧
      (∀ x, a.kind = .atom x → x.old = none → x.joined = false → ∃ t, ev = .next t ∧ AccsOnly u t ∧ (x.dst = none → AccGone u t id) ∧
        (x.dst ≠ none → ∃ v, AccNow u t id (fun b => { b with kind := .atom { x with old := some v, poisoned := true } })))) ∧
    (∀ w, u.core.acc? id = none → u.core.wb? id = some w → u.myDie < 4 → (w.homes.map HomeWrite.home).Nodup →
      (u.die u.myDie).recovery = [] → w.homes.length ≤ 32 → u.main.wf = true → u.remote.wf = true → Sparse.canon 0 u.seals = true →
      (∀ h ∈ w.homes, (h.home.pod = false → u.keyIdent h.key ≠ none) ∧ h.block.wf = true) → ∃ t, ev = .next t ∧
        (∀ y ∈ t.core.x.wbs, y.id ≠ id) ∧ (∀ l ∈ t.locks, ¬(l.core = u.here ∧ l.id = id)) ∧ t.dieStore = u.dieStore ∧
        let cut := fun (h : HomeWrite) => h.home.pod = false ∧ u.broken h.home.pbn = true
        let parks := fun (h : HomeWrite) => t.isParked h.home = true ∧ ∃ i p, i < 192 ∧
          Sparse.find (t.die u.myDie).recovery i = some p ∧ p.home = h.home ∧ p.key = h.key ∧ p.block = h.block
        let written := fun (h : HomeWrite) =>
          (h.home.pod = true → ∀ i < 4096, t.remote.byte (4096 * h.home.pbn + i) = h.block.byte i) ∧
          (h.home.pod = false → ∀ i, u.keyIdent h.key = some i → ∀ b, 128 * h.passed ≤ b → b < 4096 →
            t.mainByte i (4096 * h.home.pbn + b) = h.block.byte b)
        (∀ h ∈ w.homes, cut h → parks h) ∧ ((∃ h ∈ w.homes, cut h) → ∀ h ∈ w.homes, ¬cut h → written h) ∧
        (∀ h ∈ w.homes, parks h ∨ written h) ∧ (w.homes ≠ [] → ∃ h ∈ w.homes, parks h))

/-- The far side of an exchange arrives, or its path fails. Rests on choices of the model: log entries 8, 39, 42, 70. -/
def Obligations.FarSides : Prop :=
  Claim.FarDataArrives ∧ Claim.PathsFail

/-- R121, R122, R124, R126, R389: at its arrival cycle an exchange whose data is present commits every pair in one event: each near
slot, die block or accumulator block holds the far block, poison with it, each far die block the outgoing copy, and no other near or
die byte changes; copies bound for main memory or another package begin their write-back. Before, nothing is written. -/
def Claim.ExchangesCommit : Prop :=
  ∀ (c id : Nat) (s : State) (a : Acc) (x : Xch),
    let u := s.focus c
    let k := u.core
    let ev := exec (.exchangeCommit c id) s
    let ms := u.myMembersOn
    let outNear := fun (b : Nat) => ∃ n ∈ x.near, 4096 * n ≤ b ∧ b < 4096 * n + 4096
    k.acc? id = some a → a.kind = .xch x →
      (a.due ≠ some 0 ∨ x.arrived = false ∨ k.clearFor a = false ∨ k.paused a = true ∨ k.seq.frz.lateOn = true → ev = .next s) ∧
      (a.due = some 0 → x.arrived = true → k.clearFor a = true → k.paused a = false → k.seq.frz.lateOn = false →
        x.inn.length = x.near.length → (∀ m ∈ x.inn ++ x.out, m.wf = true) → x.near.Nodup → x.far.Nodup →
        k.near.wf = true → u.dieStore.wf = true → Sparse.canon 0 k.mat.cells = true →
        ∃ t, ev = .next t ∧ t.core.seq = { k.seq with rpl := false } ∧ t.core.vec = k.vec ∧ t.remote = u.remote ∧
          t.main = u.main ∧ t.locks = u.locks ∧ (∀ b ∈ t.core.x.accs, b.id ≠ id) ∧
          (x.form = .nd ∨ x.form = .nm ∨ x.form = .np →
            (∀ i < x.near.length, nearIs t (x.near[i]?.getD 0) (x.inn[i]?.getD Store.empty) ∧
              ∀ w < 512, 512 * (x.near[i]?.getD 0) + w ∈ t.core.near.poison ↔ w ∈ (x.inn[i]?.getD Store.empty).poison) ∧
            (∀ b, ¬outNear b → t.core.near.byte b = k.near.byte b) ∧ t.core.mat.cells = k.mat.cells) ∧
          (x.form = .dm ∨ x.form = .am → t.core.near = k.near) ∧
          (x.form = .am → (∀ n ∈ x.near, n < 64) → ∀ i < x.near.length, ∀ j < 512,
            Sparse.get 0 t.core.mat.cells (512 * (x.near[i]?.getD 0) + j) = (x.inn[i]?.getD Store.empty).word (8 * j)) ∧
          (x.form = .dm → (∀ b ∈ x.near, dieBlockOk ms b = true) →
            (∀ i < x.near.length, dieIs t (x.near[i]?.getD 0) (x.inn[i]?.getD Store.empty)) ∧
            ∀ b < 65536, dieBlockOk ms b = true → b ∉ x.near → dieIs t b (u.dieBlock ms b)) ∧
          (x.form = .nd → x.out.length = x.far.length → (∀ b ∈ x.far, dieBlockOk ms b = true) → t.core.x.wbs = k.x.wbs ∧
            (∀ i < x.far.length, dieIs t (x.far[i]?.getD 0) (x.out[i]?.getD Store.empty)) ∧
            ∀ b < 65536, dieBlockOk ms b = true → b ∉ x.far → dieIs t b (u.dieBlock ms b)) ∧
          (x.form = .nm ∨ x.form = .np ∨ x.form = .am → t.dieStore = u.dieStore) ∧
          (x.form ≠ .nd → ∃ w, t.core.x.wbs = k.x.wbs ++ [w] ∧ w.id = id ∧ w.blocks = x.near.length ∧ w.sup = a.sup ∧
            w.homes = ((u.xchHomes x ((leavesOf x.xl).getD [])).zip x.out).map (fun e =>
              ({ home := e.1.1, key := e.1.2, block := e.2, passed := 0 } : HomeWrite))))

/-- R121, R125, R127, R132, R365, R378, R409: a write-back whose channels carry traffic and hold an entry of its partition puts every
copy into its home under the home's key, from the first beat that has not passed on, and lets its locks and its place in the exchange
buffer go; until then it holds them. Only a supervisor's ends a home's parked state. -/
def Claim.WriteBacksEnd : Prop :=
  ∀ (c id : Nat) (s : State) (w : WriteBack),
    let u := s.focus c
    let ev := exec (.writeBackDone c id) s
    let ready := fun (h : HomeWrite) => h.home.pod = true ∨ u.carries h.home.pbn = true ∧ u.hasSlot u.partNum h.home.pbn = true
    u.core.wb? id = some w →
      ((∃ h ∈ w.homes, ¬ready h) → ev = .next s) ∧
      ((∀ h ∈ w.homes, ready h) → (w.homes.map HomeWrite.home).Nodup →
        (∀ h ∈ w.homes, (h.home.pod = false → u.keyIdent h.key ≠ none) ∧ h.block.wf = true ∧ h.passed ≤ 32) →
        u.main.wf = true → u.remote.wf = true → Sparse.canon 0 u.seals = true → ∃ t, ev = .next t ∧
          t.core = { u.core with x := { u.core.x with wbs := u.core.x.wbs.filter (fun y => y.id != id) } } ∧
          t.dieStore = u.dieStore ∧ t.others = u.others ∧ t.here = u.here ∧
          (∀ l, l ∈ t.locks ↔ l ∈ u.locks ∧ ¬(l.core = u.here ∧ l.id = id)) ∧
          (∀ e, e ∈ t.parked ↔ e ∈ u.parked ∧ ¬(w.sup = true ∧ e.1.pod = false ∧ ∃ h ∈ w.homes, h.home = e.1)) ∧
          (∀ h ∈ w.homes, h.home.pod = false → ∀ i, u.keyIdent h.key = some i → ∀ b, 128 * h.passed ≤ b → b < 4096 →
            t.mainByte i (4096 * h.home.pbn + b) = h.block.byte b) ∧
          (∀ h ∈ w.homes, h.home.pod = true → ∀ i < 4096, t.remote.byte (4096 * h.home.pbn + i) = h.block.byte i) ∧
          (∀ b, (∀ h ∈ w.homes, h.home.pod = false → ¬(4096 * h.home.pbn + 128 * h.passed ≤ b ∧ b < 4096 * h.home.pbn + 4096)) →
            t.main.byte b = u.main.byte b) ∧
          ∀ b, (∀ h ∈ w.homes, h.home.pod = true → b / 4096 ≠ h.home.pbn) → t.remote.byte b = u.remote.byte b)

/-- Exchanges commit in one event and write back. Rests on choices of the model: log entries 39, 40, 58. -/
def Obligations.ExchangesEnd : Prop :=
  Claim.ExchangesCommit ∧ Claim.WriteBacksEnd

/-- R277-R280, R69, R142, R273, R320, R350, R369, R396, R404: an `xsend` or `xpush` performs at its receiver in the order of its
sender: into the landing buffer or the inflow queue while there is room, into its die's receiver hold while its launch is switched
out there or others of it wait there, discarded where its `xland` was abandoned or, with a record, where its share has ended. With
no room an `xsend` waits at its source and an `xpush` behind the others at its receiver. Over a failed link it comes poisoned. Over
the pod it leaves as a frame, or raises XDEST where the package holds no such core. -/
def Claim.PayloadsPerform : Prop :=
  ∀ (c id : Nat) (s : State) (a : Acc) (push : Bool),
    let u := s.focus c
    let ev := exec (if push then .inflowPush c id else .payloadDelivery c id) s
    let kind := fun (pkg : Option Nat) (d tag n : Nat) (m : Store) =>
      if push then tag = 0 ∧ a.kind = .push pkg d m n else a.kind = .send pkg d tag m n
    let gone := fun (t : State) => ∀ b ∈ t.core.x.accs, b.id ≠ id
    let queue := fun (k : Core) => if push then k.x.inflow else k.x.landing
    let stands := u.core.clearFor a = false ∨ u.oldest a = false ∨ push = true ∧ u.pushWaits id = true
    u.core.acc? id = some a → KeysOk u →
      ((∃ pkg d tag n m, kind pkg d tag n m) → stands → ev = .next s) ∧
      (∀ d tag n m, kind none d tag n m → ¬stands →
        let r := u.coreOf u.partNum d
        let k := u.coreAt r
        let p : Payload := { launch := u.core.share.launch, pkg := none, src := u.core.share.lcore, tag := tag, len := n, data := m, push := push }
        let void := (p.launch, p.pkg, p.src, p.tag)
        let voided := push = false ∧ void ∈ k.x.voids
        let hold := (u.die (dieOf r)).hold
        let room := if push then k.x.inflow.length < 8 else payBytes k.x.landing + (k.x.accs.map Acc.landed).sum + n ≤ 65536
        let held := payBytes (hold.map Held.pay) + n ≤ 262144
        let behind := k.accepts p.launch = false ∨ ∃ h ∈ hold, h.core = r ∧ h.pay.launch = p.launch ∧ h.pay.push = push
        let after := push = true ∧ k.x.waiting ≠ []
        let cut := u.linkFailed u.myDie (dieOf r) = true
        let way := cut ∨ u.fadOpen u.myDie (dieOf r) = true
        let sent := fun (q : Payload) => { q with data := m } = p ∧ q.data.bytes = m.bytes ∧ (¬cut → q = p) ∧
          (cut → (n ≠ 0 → ∃ w < (n + 7) / 8, w ∈ q.data.poison) ∧ ∀ w ∈ m.poison, w ∈ q.data.poison)
        let same := fun (t : State) => ∀ e, queue (t.coreAt e) = queue (u.coreAt e)
        let waits := if push then ∃ t q, ev = .next t ∧ sent q ∧ same t ∧ (t.core.acc? id).isSome = true ∧
          (t.coreAt r).x.waiting = k.x.waiting ++ [(some (u.here, id), q)] ∧ MemorySame u t ∧ t.dies = u.dies else ev = .next s
        (¬way → ev = .next s) ∧ (way → after → waits) ∧
        (way → voided → ∃ t, ev = .next t ∧ gone t ∧ same t ∧ (t.coreAt r).x.voids = k.x.voids.erase void) ∧
        (way → ¬after → ¬voided → k.holds p.launch = false → ∃ t, ev = .next t ∧ gone t ∧ same t ∧
          (r < 512 → BankTook u t (r / 128) (r % 128 / 16)
            { plainEvent 0x0C 0x05 u.partNum 0 1 with ofCore := true, core := BitVec.ofNat 9 r })) ∧
        (way → ¬after → ¬voided → k.holds p.launch = true → behind →
          (held → ∃ t q, ev = .next t ∧ sent q ∧ gone t ∧ same t ∧ (dieOf r < 4 → (t.die (dieOf r)).hold = hold ++ [{ core := r, pay := q }])) ∧
          (¬held → waits)) ∧
        (way → ¬after → ¬voided → k.holds p.launch = true → ¬behind →
          (room → ∃ t q, ev = .next t ∧ sent q ∧ gone t ∧ queue (t.coreAt r) = queue k ++ [q] ∧
            (∀ e, e ≠ r → queue (t.coreAt e) = queue (u.coreAt e)) ∧ MemorySame u t ∧ t.dies = u.dies) ∧
          (¬room → waits))) ∧
      (∀ pkg d tag n m, kind (some pkg) d tag n m → ¬stands →
        (u.podSent id = true → ev = .next s) ∧
        (u.podSent id = false → if Config.podCores u.partNum pkg ≤ d then ∃ t, ev = .next t ∧ AccGone u t id ∧
          LaterTrap u t a 0x12 0 (BitVec.ofNat 64 (2 ^ 31 + pkg * 2 ^ 21 + tag * 2 ^ 12 + d)) else ∃ t f, ev = .next t ∧ t.core = u.core ∧ MemorySame u t ∧
          f ∈ (t.peer pkg).unacked ∧ f.1.seq = (u.peer pkg).next ∧ (t.peer pkg).next = (u.peer pkg).next + 1 ∧ f.1.pkg = u.nib.pkgId ∧
          f.2.1 = u.here ∧ f.2.2.1 = id ∧ f.1.body = if push then .push u.partNum d (u.partIndex u.here) (m.read 0 n) m.poison
            else .send u.partNum d (u.partIndex u.here) tag (m.read 0 n) m.poison))

/-- R118, R273, R278-R280, R356, R404: frames of the pod transport: an acknowledgement ends the accesses all of whose frames it covers;
a frame in turn takes effect: a payload enters its receiver's landing buffer or inflow queue, or waits, a barrier arrival joins, an
exchange of another package reads its homes here and locks them until they come back; one out of turn is dropped. A frame unacknowledged
for PLAT / 2 cycles goes again; after 8 times its path has failed. -/
def Claim.PodFrames : Prop :=
  ∀ (f : PodFrame) (s : State), KeysOk s →
    let ev := exec (.podFrameReceive f) s
    let p := s.peer f.pkg
    let turn := fun (t : State) => t.peer f.pkg = { p with expect := p.expect + 1 } ∧ ∀ q, q ≠ f.pkg → t.peer q = s.peer q
    let answers := fun (t : State) (b : PodBody) => ev = .next t ∧ t.peer f.pkg =
        { p with expect := p.expect + 1, next := p.next + 1, unacked := p.unacked ++ [({ pkg := s.nib.pkgId, seq := p.next, body := b }, 512, 0, 0, 0)] } ∧
      { t with peers := s.peers, locks := s.locks, free := s.free } = s
    let free := fun (t : State) (id : Nat) => ∀ l, l ∈ t.locks ↔ l ∈ s.locks ∧ ¬(l.core = 512 + f.pkg ∧ l.id = id)
    (∀ n, f.body = .ack n → ∃ t, ev = .next t ∧ MemorySame s t ∧ t.peer f.pkg = { p with unacked := p.unacked.filter (fun u => decide (n ≤ u.1.seq)) } ∧
      (∀ u ∈ p.unacked, u.1.seq < n → u.2.1 < 512 → (∀ w ∈ p.unacked, n ≤ w.1.seq → ¬(w.2.1 = u.2.1 ∧ w.2.2.1 = u.2.2.1)) →
        ∀ a ∈ (t.coreAt u.2.1).x.accs, a.id ≠ u.2.2.1) ∧
      (∀ c, ∀ a ∈ (s.coreAt c).x.accs, (∀ u ∈ p.unacked, u.1.seq < n → ¬(u.2.1 = c ∧ u.2.2.1 = a.id)) → a ∈ (t.coreAt c).x.accs)) ∧
    ((∀ n, f.body ≠ .ack n) → f.seq ≠ p.expect → ∃ t, ev = .next t ∧ { t with free := s.free } = s) ∧
    (f.seq = p.expect →
      (∀ q i src tag data bad, (f.body = .send q i src tag data bad ∨ f.body = .push q i src data bad ∧ tag = 0) → s.podCore q i = none → ∃ t, ev = .next t ∧
        turn t ∧ ∀ c, t.coreAt c = s.coreAt c) ∧
      (∀ q i src tag data bad c push, (if push then f.body = .push q i src data bad ∧ tag = 0 else f.body = .send q i src tag data bad) → s.podCore q i = some c →
        let k := s.coreAt c
        let pay : Payload := { launch := k.share.launch, pkg := some f.pkg, src := src, tag := tag, len := data.length,
                               data := { Store.ofBytes data with poison := bad }, push := push }
        let room := if push then k.x.inflow.length < 8 else k.landingUsed + data.length ≤ 65536
        let comes := fun (x : XEng) => ∃ t, ev = .next t ∧ turn t ∧ MemorySame s t ∧ (∀ e, e ≠ c → t.coreAt e = s.coreAt e) ∧ t.coreAt c = { k with x := x }
        (push = false → (pay.launch, pay.pkg, pay.src, pay.tag) ∉ k.x.voids) → (push = true → k.x.waiting = []) → k.holds pay.launch = true →
          k.accepts pay.launch = true → s.behind c pay = false →
          (room → push = false → comes { k.x with landing := k.x.landing ++ [pay] }) ∧ (room → push = true → comes { k.x with inflow := k.x.inflow ++ [pay] }) ∧
          (¬room → push = false → ev = .next s) ∧ (¬room → push = true → comes { k.x with waiting := k.x.waiting ++ [(none, pay)] })) ∧
      (∀ q bar c fn v, f.body = .arrive q bar c fn v → ∀ o : BarObj,
        (s.barriers.find? (fun y => y.same (podBar q bar)) = some o ∨ s.barriers.find? (fun y => y.same (podBar q bar)) = none ∧ o = podBar q bar) →
        let got := o.got ++ [{ core := 512, launch := 0, sup := false, c := BitVec.ofNat 20 c, fn := fn, v := v }]
        let need := ((got.head?.map Arrival.c).getD 0).toNat
        ∃ t, ev = .next t ∧ turn t ∧ t.core = s.core ∧ (got.length < need → { o with got := got } ∈ t.barriers ∧ t.barMsgs = s.barMsgs) ∧
          (need ≤ got.length → (∀ y ∈ t.barriers, y.same (podBar q bar) = false) ∧
            t.barMsgs.length = s.barMsgs.length + (o.got.filter (fun x => decide (x.core < 512))).length)) ∧
      (∀ q bar, f.body = .barDone q bar → ∃ t, ev = .next t ∧ turn t ∧ t.core = s.core ∧
        ∀ o, s.barriers.find? (fun y => y.same (podBar q bar)) = some o → (∀ y ∈ t.barriers, y.same o = false) ∧
          t.barMsgs.length = s.barMsgs.length + (o.got.filter (fun x => decide (x.core < 512))).length) ∧
      (∀ q id vbns, f.body = .fetch q id vbns →
        (∀ i k l, s.podLeaves q vbns 0 = .error (i, k, l) → ∃ t, answers t (.fault id i k l) ∧ t.locks = s.locks) ∧
        ∀ hs, s.podLeaves q vbns 0 = .ok hs → (hs.map Prod.fst).Nodup →
          ((∀ h ∈ hs, s.podOpen q h.1 = true) → ∃ t, answers t (.data id (hs.map (fun h => ((s.readHome h).read 0 4096, (s.readHome h).poison)))) ∧
            t.locks = s.locks ++ hs.map (fun h => { home := h.1, key := h.2, core := 512 + f.pkg, id := id })) ∧
          ((∃ h ∈ hs, s.podOpen q h.1 = false) → ev = .next s)) ∧
      (∀ id, f.body = .drop id → ∃ t, ev = .next t ∧ turn t ∧ free t id ∧ MemorySame s t) ∧
      (∀ id bs bad l i, f.body = .home id [(bs, bad)] → s.podLocks f.pkg id = [l] → l.home.pod = false → s.carries l.home.pbn = true → s.homeCut
          { home := l.home, key := l.key, block := { Store.ofBytes bs with poison := bad }, passed := 0 } = false →
        s.keyIdent l.key = some i → s.main.wf = true → Sparse.canon 0 s.seals = true → ∃ t, ev = .next t ∧ turn t ∧ free t id ∧
          ∀ b < 4096, t.mainByte i (4096 * l.home.pbn + b) = bs[b]?.getD 0) ∧
      (∀ id blocks a x, f.body = .data id blocks → (s.coreAt (id % 512)).acc? (id / 512) = some a → a.kind = .xch x → x.form = .np → x.pkg = f.pkg → x.arrived = false →
        ((s.focus (id % 512)).mayArriveX a x = false → ev = .next s) ∧
        ((s.focus (id % 512)).mayArriveX a x = true → ∃ t, ev = .next t ∧ turn t ∧ t.main = s.main ∧ t.dieStore = s.dieStore ∧
          (∀ b ∈ (t.coreAt (id % 512)).x.accs, b.id = a.id → ∃ y, b.kind = .xch y ∧ y.arrived = true ∧ y.out = x.out ∧ y.inn.length = x.far.length) ∧
          t.locks.length = s.locks.length + x.far.length)) ∧
      (∀ id i k lv a x, f.body = .fault id i k lv → (s.coreAt (id % 512)).acc? (id / 512) = some a → a.kind = .xch x → x.form = .np → x.pkg = f.pkg → x.arrived = false →
        (s.focus (id % 512)).mayArriveX a x = true → ∃ t, ev = .next t ∧ turn t ∧ MemorySame s t ∧ (∀ b ∈ (t.coreAt (id % 512)).x.accs, b.id ≠ a.id) ∧
          ∀ l ∈ t.locks, ¬(l.core = id % 512 ∧ l.id = a.id))) ∧
    ∀ pkg,
      (∀ fr c id n age r, (s.peer pkg).unacked = (fr, c, id, n, age) :: r →
        let due := (if c < 512 then (s.focus c).figures.plat else s.platOf c) / 2 ≤ age
        (¬due → exec (.podRetransmit pkg) s = .next s) ∧
        (due → n < 8 → ∃ t, exec (.podRetransmit pkg) s = .next t ∧ t.peer pkg = { s.peer pkg with unacked := (fr, c, id, n + 1, 0) :: r } ∧
          { t with peers := s.peers, free := s.free } = s) ∧
        (due → 8 ≤ n → ∃ t, exec (.podRetransmit pkg) s = .next t ∧ t.peer pkg = { s.peer pkg with unacked := r } ∧
          (c < 512 → (∀ a ∈ (t.coreAt c).x.accs, a.id ≠ id) ∧ BankTook s t (dieOf c) 14 ((s.focus c).coreEvent 0x07 0x31 0 0 .x 0 0)) ∧
          (512 ≤ c → BankTook s t 0 14 (plainEvent 0x07 0x31 127 0 0) ∧ ∀ e bs, fr.body = .data e bs → ∀ l ∈ t.locks, ¬(l.core = 512 + pkg ∧ l.id = e)))) ∧
      ((s.peer pkg).unacked = [] → exec (.podRetransmit pkg) s = .next s)

/-- Payloads at their receivers, and the frames of the pod. Rests on choices of the model: log entries 8, 42, 43, 44, 46, 70. -/
def Obligations.PayloadsAndFrames : Prop :=
  Claim.PayloadsPerform ∧ Claim.PodFrames

/-- R354-R358: the walk of a virtual address, table by table: pointers down to a table of level l, then the fault or the leaf that
the table's window and its entry give; a leaf's page offset names the physical block. An entry that comes poisoned, or lies in a
parked home or on a failed channel, ends the walk with kind 0x13 (log entry 66). -/
def Claim.WalkFollowsTables : Prop :=
  ∀ (s : State) (p : Nat) (asid : BitVec 16) (va : Nat),
    (s.part? p = none → s.walk p asid va = .error (0x06, 0)) ∧
    ∀ x, s.part? p = some x →
      (x.desc.bindings.find? (fun b => b.asid == asid) = none → s.walk p asid va = .error (0x06, 0)) ∧
      ∀ b, x.desc.bindings.find? (fun b => b.asid == asid) = some b → ∀ t : Nat → Nat, t 0 = b.root →
        let size : Nat → Nat := fun l => if l = 0 then 65536 else if l = 3 then 256 else 4096
        let idx := fun (l : Nat) => if l = 0 then va / 2 ^ 39 % 8192 else if l = 1 then va / 2 ^ 30 % 512
          else if l = 2 then va / 2 ^ 21 % 512 else va / 2 ^ 16 % 32
        let page := fun (l : Nat) => if l = 1 then 2 ^ 30 else if l = 2 then 2 ^ 21 else 2 ^ 16
        let read := fun (l : Nat) => s.mainRead b.tkey (t l + 8 * idx l) 8
        let bad := fun (l : Nat) => (read l).2 = true ∨ s.isParked (Home.near ((t l + 8 * idx l) / 4096)) = true ∨
          s.broken ((t l + 8 * idx l) / 4096) = true
        let e := fun (l : Nat) => (BitVec.ofNat 64 (natOfBytes (read l).1) : Word)
        let addr := fun (l : Nat) => 256 * ((e l).extractLsb' 8 40).toNat
        let inside := fun (l : Nat) => inWindow x.desc (t l) (size l) = true
        let valid := fun (l : Nat) => inside l ∧ ¬bad l ∧ (e l).getLsbD 0 = true ∧ e l &&& 0xF0010000000000E4 = 0
        let empty := fun (l : Nat) => (e l).extractLsb' 49 11 = 0 ∧ (e l).getLsbD 3 = false ∧ (e l).getLsbD 4 = false
        let next := fun (l : Nat) => valid l ∧ (e l).getLsbD 1 = false ∧ empty l ∧ addr l % size (l + 1) = 0 ∧ t (l + 1) = addr l
        let faults := fun (k : BitVec 8) (l : Nat) => s.walk p asid va = .error (k, l)
        let owned := fun (l : Nat) => ∃ k, Sparse.find s.keys ((e l).extractLsb' 49 11).toNat = some k ∧ k.part = some p
        ∀ l ≤ 3, (∀ i < l, next i) →
          (¬inside l → faults 0x04 l) ∧ (inside l → bad l → faults 0x13 l) ∧
          (inside l → ¬bad l → (e l).getLsbD 0 = false → faults 0x01 l) ∧
          (inside l → ¬bad l → (e l).getLsbD 0 = true → e l &&& 0xF0010000000000E4 ≠ 0 → faults 0x03 l) ∧
          (valid l → (e l).getLsbD 1 = true → l = 0 → faults 0x02 l) ∧
          (valid l → (e l).getLsbD 1 = true → 0 < l → addr l % page l ≠ 0 → faults 0x05 l) ∧
          (valid l → (e l).getLsbD 1 = true → 0 < l → addr l % page l = 0 → inWindow x.desc (addr l) (page l) = false → faults 0x04 l) ∧
          (valid l → (e l).getLsbD 1 = true → 0 < l → addr l % page l = 0 → inWindow x.desc (addr l) (page l) = true →
            (¬owned l → faults 0x13 l) ∧ (owned l → s.walk p asid va = .ok (e l, l) ∧
              (leafOf (e l) l va).pbn = (addr l + va % page l) / 4096)) ∧
          (valid l → (e l).getLsbD 1 = false → l = 3 → faults 0x02 l) ∧
          (valid l → (e l).getLsbD 1 = false → l < 3 → ¬empty l → faults 0x03 l) ∧
          (valid l → (e l).getLsbD 1 = false → l < 3 → empty l → addr l % size (l + 1) ≠ 0 → faults 0x05 l)

/-- R125, R152, R357, R358, R360, R361: the walk at the head of its die's queue gives its access the leaf or the fault, fills the
TLBs of the core and its die with a leaf, and leaves the queue; a walk whose table entries lie in a locked home, or on a channel that carries no traffic, waits. No walk
changes memory. -/
def Claim.WalksFinish : Prop :=
  ∀ (c id i : Nat) (s : State),
    let d := dieOf c
    let ev := exec (.translationWalk c id i) s
    let p := ((s.partOf c).map Prod.fst).getD 127
    ((s.die d).walks.head? ≠ some (c, id, i) → ev = .next s) ∧
    ((s.die d).walks.head? = some (c, id, i) → d < 4 → KeysOk s →
      (s.walkWants (c, id, i) = none → ∃ t, ev = .next t ∧ (t.die d).walks = (s.die d).walks.drop 1 ∧
        { t with dies := s.dies, free := s.free } = s) ∧
      (∀ asid va n, s.walkWants (c, id, i) = some (asid, va, n) →
        ((∃ a ∈ s.walkReads p asid va, s.locked (Home.near (a / 4096)) = true ∨
            s.carries (a / 4096) = false ∧ s.broken (a / 4096) = false) → ev = .next s) ∧
        (s.walkBlocked p asid va = false → (∃ a ∈ s.walkReads p asid va, s.lineHeld true (a / 128) = true) → ∃ t, ev = .next t ∧
          { t with entries := s.entries, free := s.free } = s ∧
          ∀ a ∈ s.walkReads p asid va, ∀ e ∈ t.entries, e.main = true → e.line = a / 128 → e.closed = true) ∧
        (s.walkBlocked p asid va = false → (∀ a ∈ s.walkReads p asid va, s.lineHeld true (a / 128) = false) →
          (s.partOf c).isSome = true → ∃ t a b, ev = .next t ∧ (s.coreAt c).acc? id = some a ∧ (t.coreAt c).acc? id = some b ∧
            (∀ x, a.kind = .xch x → ∃ y, b.kind = .xch y ∧ y.xl[i]? = some (xlatOf (s.walk p asid va) n va) ∧ { y with xl := x.xl } = x) ∧
            (∀ x, a.kind = .atom x → b.kind = .atom { x with xl := xlatOf (s.walk p asid va) n va }) ∧ { b with kind := a.kind } = a ∧
            (c, id, i) ∉ (t.die d).walks ∧
            MemorySame s t ∧ (∀ k, (t.coreAt k).seq = (s.coreAt k).seq ∧ (t.coreAt k).vec = (s.coreAt k).vec) ∧
            (∀ f, s.walk p asid va = .error f → t.core.tlb = s.core.tlb ∧ (t.die d).tlb = (s.die d).tlb) ∧
            ∀ e l, s.walk p asid va = .ok (e, l) →
              let x : TlbEntry := { part := p, asid := asid, vpage := va / 65536, level := l, entry := e }
              (t.coreAt c).tlb = (x :: (s.coreAt c).tlb).take 1024 ∧ (t.die d).tlb = (x :: (s.die d).tlb).take 32768)))

/-- Page walks follow the tables. Rests on choices of the model: log entries 43, 54, 66. -/
def Obligations.Walks : Prop :=
  Claim.WalkFollowsTables ∧ Claim.WalksFinish

/-- R72, R396: at a TICK that is a multiple of 32 a die sends a beacon of its TICK on each link that has not failed; a beacon that
arrives gives the sender's value; a sideband silent for 512 ticks fails its link at both ends, for the next self-test to find. -/
def Claim.BeaconsTravel : Prop :=
  ∀ (d e i : Nat) (s : State),
    let reach := fun (x : Nat) => x < 4 ∧ x ≠ d ∧ (s.die d).failed.getLsbD x = false ∧ (s.die x).warm = true
    (d < 4 ∧ (s.die d).beaconed = false ∧ (s.die d).tick.toNat % 32 = 0 →
      ∃ t, exec (.beaconSend d) s = .next t ∧ { t with dies := s.dies, free := s.free } = s ∧ (t.die d).beaconed = true ∧
        ∀ x < 4, { t.die x with side := (s.die x).side, beaconed := (s.die x).beaconed } = s.die x ∧
          (reach x → (t.die x).side = (s.die x).side ++ [(.beacon d (s.die d).tick, 0)]) ∧ (¬reach x → (t.die x).side = (s.die x).side)) ∧
    (¬(d < 4 ∧ (s.die d).beaconed = false ∧ (s.die d).tick.toNat % 32 = 0) → exec (.beaconSend d) s = .next s) ∧
    (∀ src v n, d < 4 → (s.die d).side[i]? = some (.beacon src v, n) → 38 ≤ n → ∃ t, exec (.beaconReceive d i) s = .next t ∧
      { t with dies := s.dies, free := s.free } = s ∧ (∀ x < 4, x ≠ d → t.die x = s.die x) ∧ (t.die d).side = (s.die d).side.eraseIdx i ∧
      { t.die d with side := (s.die d).side, beacon := (s.die d).beacon, silent := (s.die d).silent } = s.die d ∧
      ∀ x : Fin 4, (t.die d).beacon[x] = (if x.val = src ∧ (s.die d).failed.getLsbD src = false then v else (s.die d).beacon[x]) ∧
        (t.die d).silent[x] = if x.val = src ∧ (s.die d).failed.getLsbD src = false then 0 else (s.die d).silent[x]) ∧
    (d < 4 → reach e → 512 ≤ (s.die d).silent[e]?.getD 0 → ∃ t u, exec (.beaconTimeout d e) s = .next t ∧
      { u with dies := s.dies, nib := s.nib } = s ∧ u.nib = { s.nib with lostLinks := (d, e) :: s.nib.lostLinks } ∧ (∀ x < 4, { u.die x with failed := (s.die x).failed } = s.die x ∧ ∀ y < 4,
        (u.die x).failed.getLsbD y = true ↔ (s.die x).failed.getLsbD y = true ∨ (x = d ∧ y = e) ∨ (x = e ∧ y = d)) ∧
      ReportsOnly u t ∧ BankTook u t d 14 (plainEvent 0x07 0x30 127 0 0))

/-- R74: a die with a core frozen in PALIGN(`.pkg`, g) and TICKMIN at least g that has sent none of g or more sends a release of g to its
partition's other dies and sets its exit tick; cores resume where a release sent reaches its exit tick, or one received, carries at least their
target; those of other partitions, and of the other scopes but at their own target, stay. -/
def Claim.AlignmentEnds : Prop :=
  ∀ (c d p i : Nat) (s : State), KeysOk s →
    let u := s.focus c
    let stays := fun (t : State) => t.here = s.here ∧ MemorySame s t ∧ t.parts = s.parts ∧ t.barriers = s.barriers
    (∀ g q x, u.core.inAlign = some (4, g) → u.myPart = some (q, x) →
      let rels := (u.die u.myDie).rels
      let due := g ≤ u.tick ∧ (∀ e < 4, e ≠ u.myDie → u.membersOn x e ≠ [] → g ≤ (u.die u.myDie).beacon[e]?.getD 0) ∧
        ∀ r ∈ rels, r.part = q → r.exit ≠ none → r.value < g
      (¬due → exec (.releaseSend c) s = .next s) ∧
      (due → u.myDie < 4 → ∃ t, exec (.releaseSend c) s = .next t ∧ { t with dies := u.dies, free := u.free } = u ∧
        (t.die u.myDie).rels = rels ++ [{ part := q, value := g, exit := some (u.tick + 40) }] ∧
        ∀ e < 4, { t.die e with side := (u.die e).side, rels := (u.die e).rels } = u.die e ∧ (e ≠ u.myDie → (t.die e).rels = (u.die e).rels) ∧
          (t.die e).side = if e ≠ u.myDie ∧ u.membersOn x e ≠ [] then (u.die e).side ++ [(.release u.myDie q g, 0)] else (u.die e).side)) ∧
    (∀ src q v n, (s.die d).side[i]? = some (.release src q v, n) → 38 ≤ n → d < 4 →
      let left := fun (t : State) => (t.die d).side = (s.die d).side.eraseIdx i ∧ ∀ e < 4, e ≠ d → { t.die e with rings := (s.die e).rings } = s.die e
      ((s.die d).failed.getLsbD src = true → ∃ t, exec (.releaseReceive d i) s = .next t ∧ left t ∧ (t.die d).rels = (s.die d).rels ∧
        ∀ k, t.coreAt k = s.coreAt k) ∧
      ((s.die d).failed.getLsbD src = false → ∃ t, exec (.releaseReceive d i) s = .next t ∧ left t ∧ stays t ∧
        { part := q, value := v, exit := none } ∈ (t.die d).rels ∧ (∀ r ∈ (t.die d).rels, r ∈ (s.die d).rels ∨ r.part = q ∧ r.value = v) ∧
        ∀ k, ((∃ g, AlignedAt s d q k g ∧ g ≤ v) → Resumes s t k) ∧ ((∀ g, AlignedAt s d q k g → v < g) → t.coreAt k = s.coreAt k))) ∧
    (let out := fun (k : Nat) => ∃ g, AlignedAt s d p k g ∧ ∃ r ∈ (s.die d).rels, r.part = p ∧ g ≤ r.value ∧
        ∃ e, r.exit = some e ∧ e ≤ (s.die d).tick
     ((∀ k, ¬out k) → exec (.palignExitTick d p) s = .next s) ∧
     ((∃ k, out k) → ∃ t, exec (.palignExitTick d p) s = .next t ∧ stays t ∧ ∀ k, (out k → Resumes s t k) ∧ (¬out k → t.coreAt k = s.coreAt k))) ∧
    (∀ sc g, u.core.inAlign = some (sc, g) → sc ≠ 4 →
      (u.tick < g → exec (.palignLocalResume c) s = .next s) ∧
      (g ≤ u.tick → ∃ t, exec (.palignLocalResume c) s = .next t ∧ Resumes u t c ∧ TraceOnly u t ∧ MemorySame u t)) ∧
    (u.core.inAlign = none → exec (.releaseSend c) s = .next s ∧ exec (.palignLocalResume c) s = .next s)

/-- Beacons, releases and the end of PALIGN. Rests on choices of the model: log entry 2. -/
def Obligations.BeaconsAndAlignment : Prop :=
  Claim.BeaconsTravel ∧ Claim.AlignmentEnds

/-- R197-R199, R404: an arrival that performs joins the generation its object holds; the last of the count its first carried
completes it: every arriving core gets the reduction's value, or the mark of a mixed generation. A completion is kept for its core's
wait, marks the slot that holds its arrival done, and ends a wait there: marks cleared, a `bar.red` result within 8 cycles, BARSEQ
after a mixed generation. Over `.pod` every peer is told.
Rests on choices of the model: log entry 46. -/
def Obligations.BarrierGenerations : Prop :=
  ∀ (c id b : Nat) (s : State),
    let u := s.focus c
    let ev := exec (.barrierArrival c id) s
    let done := exec (.barrierDone c b) s
    (∀ a bar sc n fn v, u.core.acc? id = some a → a.kind = .arrive bar sc n fn v →
      (u.core.clearFor a = false → ev = .next s) ∧
      (u.core.clearFor a = true → ∀ o : BarObj,
        let fresh : BarObj := { part := u.partNum, bar := bar, scope := sc, group := groupOf u.here sc, got := [] }
        let mine := fun (y : BarObj) => y.same fresh
        (u.barriers.find? mine = some o ∨ (u.barriers.find? mine = none ∧ o = fresh)) →
          let me : Arrival := { core := u.here, launch := u.core.share.launch, sup := a.sup, c := n, fn := fn, v := v }
          let got := o.got ++ [me]
          let count := ((o.got.head?.map Arrival.c).getD n).toNat
          let mixed := (∃ x ∈ got, x.c.toNat ≠ count) ∨ ∃ x ∈ got, ∃ y ∈ got, ∃ f g, x.fn = some f ∧ y.fn = some g ∧ f ≠ g
          let vals := (got.filter (fun x => x.fn.isSome)).map Arrival.v
          ∃ t, ev = .next t ∧ AccGone u t id ∧ (sc ≠ 5 → t.peers = u.peers) ∧
            { t with core := u.core, barriers := u.barriers, barMsgs := u.barMsgs, peers := u.peers, free := u.free } = u ∧
            (sc = 5 → (u.peers.map Peer.pkg).Nodup → ∀ p ∈ u.peers, ∃ q ∈ t.peers, q.pkg = p.pkg ∧ q.next = p.next + 1 ∧ ∃ f, q.unacked = p.unacked ++ [f] ∧
              f.1.body = .arrive u.partNum bar.toNat n.toNat fn v) ∧
            (got.length < count → t.barMsgs = u.barMsgs ∧ { o with got := got } ∈ t.barriers ∧
              ∀ y, mine y = false → (y ∈ t.barriers ↔ y ∈ u.barriers)) ∧
            (count ≤ got.length → (∀ y ∈ t.barriers, mine y = false) ∧ (∀ y, mine y = false → (y ∈ t.barriers ↔ y ∈ u.barriers)) ∧
              ∃ val bad, t.barMsgs = u.barMsgs ++ (got.filter (fun x => decide (x.core < 512))).map (fun x =>
                  { core := x.core, launch := x.launch, sup := x.sup, bar := bar, scope := sc, val := val, bad := bad,
                    age := (a.by_.map (fun n => u.barLimit sc - n)).getD 0 }) ∧
                (bad = true ↔ mixed) ∧ (mixed → val = none) ∧ (¬mixed → vals = [] → val = none) ∧
                (∀ x ∈ got, ∀ f, x.fn = some f → ¬mixed → val = some (barSpec f vals))))) ∧
    (let msg := u.barMsgs.find? (fun m => m.core == u.here && m.bar.toNat == b)
     let sl := u.core.seq.slot b
     let launch := u.core.share.launch
     let ready := sl.done = true ∨ ∃ m, msg = some m ∧ m.launch = launch ∧ sl.arrived = true
     let kept := u.core.seq.results ++ (msg.map (fun m =>
       ({ launch := m.launch, sup := m.sup, bar := m.bar, val := m.val, bad := m.bad } : BarResult))).toList
     let leaves := fun (w : BarWait) => u.core.seq.frz.bar = some w ∧ w.bar.toNat = b ∧ u.core.seq.frz.start = false ∧ ready
     (msg = none → (∀ w, ¬leaves w) → done = .next s) ∧
     (msg ≠ none ∨ (∃ w, leaves w) → b < 512 → Sparse.canon BSlot.zero u.core.seq.bslots = true → ∃ t, done = .next t ∧
        (∀ m, msg = some m → t.barMsgs = u.barMsgs.erase m) ∧ (msg = none → t.barMsgs = u.barMsgs) ∧
        t.barriers = u.barriers ∧ t.core.vec = u.core.vec ∧ t.core.mat = u.core.mat ∧ t.core.near = u.core.near ∧ t.core.x.accs = u.core.x.accs ∧
        let slots := fun (x : BSlot) => ∀ n, t.core.seq.slot n = if n = b then x else u.core.seq.slot n
        ((∀ w, ¬leaves w) → t.core.x = u.core.x ∧ t.core.seq.results = kept ∧
          slots { sl with done := sl.done || (msg.any (fun m => decide (m.launch = launch)) && sl.arrived) } ∧
          { t.core.seq with bslots := u.core.seq.bslots, results := u.core.seq.results } = u.core.seq) ∧
        (∀ w, leaves w → slots { sl with arrived := false, done := false } ∧ t.core.seq.frz.bar = none ∧
          let mine := fun (r : BarResult) => r.launch = launch ∧ r.sup = u.core.seq.sup ∧ r.bar = w.bar
          let r := kept.find? (fun r => decide (mine r))
          (∀ x, x ∈ t.core.seq.results ↔ x ∈ kept ∧ ¬mine x) ∧
          ((r.map BarResult.bad).getD false = false → NoLoopEnds u → WentOn u t u.core.seq.frz.gap.toNat ∧
            (∀ d, w.dst = some d → ∃ x v, t.core.x.flight = u.core.x.flight ++ [x] ∧ x.due = 8 ∧ x.land = .sreg u.core.seq.sup d v ∧
              ∀ y, r.bind BarResult.val = some y → v = y) ∧
            (w.dst = none → t.core.x.flight = u.core.x.flight)) ∧
          ((r.map BarResult.bad).getD false = true → w.dst = none → NoTraps u → u.core.quiet = true → ¬DebugStops u →
            u.core.seq.sup = false → u.core.seq.sen = true →
            t.core.seq.sup = true ∧ t.core.seq.pc = u.core.seq.sbase ∧ t.core.seq.tpc = u.core.seq.pc ∧
              t.core.seq.taddr = BitVec.ofNat 64 b ∧ TinfoIs t.core.seq.tinfo 0x0E 0 0 false u.core.seq.req 0 u.core.seq.pc))))

/-- R58, R78, R304, R307, R310, R311, R313: a recorded trap due at a boundary makes the core drain, a frozen barrier word keeping
its wait half; drained, and any debug stop for the entry made, the core takes POISON or PIPE first, then the sequencer's trap, M's,
V's and X's: it enters the supervisor, or ends its share with FAULT in supervisor state or without one. -/
def Claim.TrapsEnter : Prop :=
  ∀ (c : Nat) (s : State),
    let u := s.focus c
    let q := u.core.seq
    let ev := exec (.trapEntry c) s
    let taken := fun (x : TrapRec) => q.sup = false ∨ x.sup = true
    let due := (∃ x ∈ q.traps, taken x) ∧ ¬(u.core.share.stop = true ∧ u.core.share.fault = true) ∧
      if q.draining then u.core.quiet = true ∧ q.replays = false ∧ u.core.frozen = false ∧ (DebugStops u → u.core.obs.entryStop = true)
      else u.core.atBoundary = true
    (¬due → ev = .next s) ∧
    (due → q.draining = false → ∃ t, ev = .next t ∧ Notes u t (fun k => { k with seq := u.core.seq }) ∧
      Thaws t { q with draining := true, pre := none }) ∧
    ∀ r pre post, due → q.draining = true → TakenNext q.traps taken r pre post →
      let cured := r.cause = 0x19 ∨ r.cause = 0x1A
      let event := fun (kind src : BitVec 8) (detail w6 : Word) => { u.coreEvent kind src 0 detail r.eng r.secno r.widx with word6 := w6 }
      let src : BitVec 8 := if r.cause = 0x1A then 0x07 else 0x08
      (q.sup = false → q.sen = true → ∃ t, ev = .next t ∧ EntersCore u t (r.resume.getD q.pc) r.addr ∧ t.core.near = u.core.near ∧
        TinfoIs t.core.seq.tinfo r.cause r.sub (streamCode r.eng) false (pre ++ post != [] || (q.req && r.cause != 0x1B)) r.secno r.widx ∧
        t.core.seq.traps = pre ++ post ∧ t.core.seq.rw = (q.rw || q.half || q.frz.bar.isSome) ∧
        t.core.seq.tpcEnd = (q.ended && r.resume.isNone) ∧ (¬cured → TraceOnly u t ∧ MemorySame u t) ∧
        (cured → u.here < 512 → BankTook u t u.myDie (u.here % 128 / 16) (event 0x04 src 0 0))) ∧
      (q.sup = false → q.sen = false → q.late = none → ∃ t, ev = .next t ∧ EndsFault u t) ∧
      (q.sup = true → q.late = none → ∃ t, ev = .next t ∧ EndsFault u t ∧
        (u.here < 512 → BankTook u t u.myDie (u.here % 128 / 16) (event 0x0E 0x08 (r.cause.setWidth 64) q.tinfo)))

/-- R314, R316, R317: a POISON or PIPE in a window that may be replayed restores the checkpoint, clears what the window
wrote, discards the queues, counts the replay, and records a corrected event; the DISP issues again in the cycle it had. -/
def Claim.WindowsReplay : Prop :=
  ∀ (c : Nat) (s : State) (p : Ckpt) (r : TrapRec) (pre post : List TrapRec),
    let u := s.focus c
    let q := u.core.seq
    let due := q.draining = true ∧ ¬(u.core.share.stop = true ∧ u.core.share.fault = true) ∧ q.rpl = true ∧ q.count.toNat < 3 ∧ q.sup = false ∧
      u.core.quiet = true ∧ u.core.frozen = false
    let wrote := fun (n : Nat) => q.win.wrote[n]?.getD false = true
    let loaded := fun (n : Nat) => q.win.loaded[n]?.getD false = true
    q.ckpt = some p → TakenNext q.traps (fun x => x.cause = 0x19 ∨ x.cause = 0x1A) r pre post →
      (¬due → exec (.replay c) s = .next s) ∧
      (due → ∃ t, exec (.replay c) s = .next t ∧ t.core.seq.thr = p.thr ∧ t.core.seq.pc = p.word ∧ t.core.seq.scyc = p.scyc ∧
        t.core.seq.wait = 0 ∧ t.core.seq.count = q.count + 1 ∧ t.core.seq.total = q.total + 1 ∧ NoTraps t ∧ t.core.seq.draining = false ∧
        t.core.seq.svr = q.svr ∧ t.core.seq.sup = false ∧ t.core.vec = { u.core.vec with rb := p.rb, flg := p.vflg } ∧ t.core.mat.flg = p.tflg ∧
        (Sparse.canon 0 u.core.mat.cells = true → ∀ b m n, m < 128 → n < 128 →
          (wrote b.toNat → cellAt t.core b m n = 0) ∧ (¬wrote b.toNat → cellAt t.core b m n = cellAt u.core b m n)) ∧
        (∀ i : Fin 2, (loaded i.val → t.core.mat.wl[i] = Latch.empty) ∧ (¬loaded i.val → t.core.mat.wl[i] = u.core.mat.wl[i])) ∧
        MarksLeft u t (fun b => b.1 = 5 ∨ b.1 = 4 ∧ loaded b.2.1) ∧
        (∀ e ∈ engines, (t.core.eng e).queue = [] ∧ (t.core.eng e).disp = (t.core.eng e).retired ∧ (t.core.eng e).retired = (u.core.eng e).retired) ∧
        t.core.x = u.core.x ∧ t.core.near = u.core.near ∧ t.core.share = { u.core.share with phase := .running, tile := p.tile } ∧
        (u.here < 512 → BankTook u t u.myDie (u.here % 128 / 16)
          (u.coreEvent 0x03 (if r.cause = 0x1A then 0x07 else 0x08) 0 0 r.eng r.secno r.widx)))

/-- Taking a trap, and the replay of a window. Rests on choices of the model: log entries 19, 52. -/
def Obligations.TrapsEnter : Prop :=
  Claim.TrapsEnter ∧ Claim.WindowsReplay

/-- R77, R254, R310, R318: with REQ set a user core meeting a boundary with no trap recorded stops its control stream, where every
section queued or running carries `drain`, FORCE is set, or PRELIM has run out, and lets held sections run; when they have run out it
enters the supervisor with PREEMPT, whose FORCED bit says that the boundary was no drain point, REQ cleared and both latches empty. -/
def Claim.Preempts : Prop :=
  ∀ (c : Nat) (s : State),
    let u := s.focus c
    let k := u.core
    let q := k.seq
    let ev := exec (.preemptEntry c) s
    let asked := q.req = true ∧ q.sup = false ∧ q.traps = [] ∧ q.draining = false ∧ q.pre = none ∧ k.share.stop = false ∧
      (k.share.phase = .aligning ∨ k.share.phase = .entry ∨ k.share.phase = .running ∨ k.share.phase = .ending ∨
        k.share.phase = .done ∧ q.sen = true) ∧ k.atBoundary = true
    let begins := fun (t : State) => Notes u t (fun j => { j with seq := k.seq, em := k.em, ev := k.ev, ex := k.ex }) ∧
      Thaws t { q with pre := some (!k.drainPoint, q.scyc) } ∧
      ∀ e ∈ engines, t.core.eng e = { k.eng e with queue := (k.eng e).queue.map (fun x => { x with held := false, failed := false }) }
    let drained := q.traps = [] ∧ k.share.stop = false ∧ k.enginesIdle = true ∧ k.quiet = true ∧ k.frozen = false ∧
      (DebugStops u → k.obs.entryStop = true)
    (asked → (q.force = true ∨ k.drainPoint = true) → ∃ t, ev = .next t ∧ begins t) ∧
    (asked → q.force = false → k.drainPoint = false → ev = .next s) ∧
    (¬asked → q.sup = false → q.pre = none → ev = .next s) ∧
    (∀ f, q.pre = some f → q.sup = false → ¬drained → ev = .next s) ∧
    (∀ f, q.pre = some f → drained → q.sup = false →
      (q.sen = true → ∃ t, ev = .next t ∧ TraceOnly u t ∧ MemorySame u t ∧ t.core.seq.tpc = q.pc ∧ t.core.seq.taddr = 0 ∧
        t.core.seq.ps = false ∧ t.core.seq.sup = true ∧ t.core.seq.pc = q.sbase ∧ t.core.seq.scyc = f.2 ∧ t.core.seq.thr = q.thr ∧ t.core.seq.svr = q.svr ∧
        TinfoIs t.core.seq.tinfo 0x1B 0 0 f.1 false 0 q.pc ∧ t.core.seq.req = false ∧ t.core.seq.force = q.force ∧ t.core.seq.rpl = false ∧
        t.core.vec = k.vec ∧ t.core.mat = { k.mat with wl := Vector.replicate 2 Latch.empty } ∧ t.core.x = k.x ∧ t.core.share = k.share) ∧
      (q.sen = false → q.late = none → ∃ t, ev = .next t ∧ t.core.seq.ended = true ∧ t.core.seq.sup = false ∧ t.core.seq.req = false ∧
        t.core.share = { k.share with phase := .ending, fault := true, stop := false })) ∧
    (asked ∧ q.prelim.toNat ≤ q.reqTicks → ∃ t, exec (.prelimExpiry c) s = .next t ∧ begins t) ∧
    (q.sup = false → ¬(asked ∧ q.prelim.toNat ≤ q.reqTicks) → exec (.prelimExpiry c) s = .next s)

/-- R70, R146, R305, R307, R312: a run of counted freeze ticks that reaches FRZLIM raises LATE; once the results in flight have landed
and the accesses that can have performed, the core enters the supervisor with its late requests outstanding and TLATE naming their
kinds; with none, or at a stop, they take their fates and the core drains. -/
def Claim.FreezesExpire : Prop :=
  ∀ (c : Nat) (s : State),
    let u := s.focus c
    let k := u.core
    let q := k.seq
    let reached := q.sup = false ∧ k.obs.stopped = false ∧ q.lateDue = false ∧ k.frozen = true ∧ 0 < q.frz.run ∧ q.frzlim.toNat ≤ q.frz.run
    let ready := q.lateDue = true ∧ k.obs.stopped = false ∧ k.x.flight = [] ∧ k.mat.loads = [] ∧ k.mat.feeds = [] ∧
      (∀ a ∈ k.x.accs, u.performsFirst a = false) ∧ (DebugStops u → k.obs.entryStop = true)
    let lates := k.x.accs.filter Acc.late
    let more := q.traps != [] || q.req
    let isX := fun (a : Acc) => ∃ x, a.kind = .xch x
    let isLand := fun (a : Acc) => ∃ p f g d n, a.kind = .land p f g d n
    let isLoad := fun (a : Acc) => ∃ p d, a.kind = .load p d
    (reached → ∃ t, exec (.frzlimExpiry c) s = .next t ∧ OutsideSame u t ∧ t.core = { k with seq := { q with lateDue := true } }) ∧
    (¬reached → exec (.frzlimExpiry c) s = .next s) ∧ (¬ready → exec (.lateEntry c) s = .next s) ∧
    (ready → q.sup = false → q.sen = true → ¬(k.share.stop = true ∧ k.share.fault = true) → ∃ t addr, exec (.lateEntry c) s = .next t ∧ Enters u t q.pc addr ∧
      (∃ f, t.core.seq.late = some f ∧ f.pc = q.pc ∧ f.wait = q.wait ∧ f.ended = q.ended ∧ f.freeze = { q.frz with ticks := 0 } ∧ f.nid = k.x.nid) ∧
      (∀ a r, lates = a :: r → TinfoIs t.core.seq.tinfo 0x16 0 (streamCode a.strm) false more a.secno a.widx ∧ (∀ x, a.kind = .xch x → addr = x.farVal)) ∧
      (lates = [] → TinfoIs t.core.seq.tinfo 0x16 0 0 false more 0 q.pc ∧ (∀ w, q.frz.bar = some w → addr = w.bar.setWidth 64) ∧
        (∀ g, q.frz.bar = none → q.frz.align = some g → addr = g.2)) ∧
      (let w := t.core.seq.tlate
       (w.getLsbD 0 = true ↔ ∃ a ∈ lates, isX a) ∧ (w.getLsbD 1 = true ↔ ∃ a ∈ lates, isLand a) ∧ (w.getLsbD 2 = true ↔ ∃ a ∈ lates, isLoad a) ∧
       (w.getLsbD 3 = true ↔ ∃ a ∈ lates, ¬isX a ∧ ¬isLand a ∧ ¬isLoad a) ∧ w.getLsbD 4 = q.frz.bar.isSome ∧ w.getLsbD 5 = q.frz.align.isSome)) ∧
    (ready → (q.sen = false ∨ k.share.stop = true ∧ k.share.fault = true) → ∃ t, exec (.lateEntry c) s = .next t ∧
      (NoTraps u → ∃ r, t.core.seq.traps = [r] ∧ r.cause = 0x16) ∧
      t.core.seq.draining = true ∧ t.core.seq.lateDue = false ∧ t.core.seq.frz.align = none ∧ t.core.seq.frz.bar = none ∧
      t.core.seq.sup = q.sup ∧ t.core.vec = k.vec ∧ t.core.mat = k.mat ∧ t.core.near = k.near ∧
      (∀ a ∈ lates, ∀ b ∈ t.core.x.accs, b.id = a.id → ∃ x, b.kind = .atom x ∧ x.dst = none) ∧
      ∀ a ∈ lates, (∀ x, a.kind ≠ .atom x) → ∀ l ∈ t.locks, ¬(l.core = u.here ∧ l.id = a.id))

/-- PREEMPT and LATE. Rests on choices of the model: log entries 17, 18, 65. -/
def Obligations.PreemptionAndLate : Prop :=
  Claim.Preempts ∧ Claim.FreezesExpire

/-- R52-R56, R304, R346, R348, R386: a core whose share has run out flips to the plane staged for an accepted launch and takes its
initial state; its start token gives it its share of the launch; its parameter block swaps in; and each tile entry presets the
scalars and starts the control stream. A core without a tile has nothing to run. -/
def Claim.SharesBegin : Prop :=
  ∀ (c : Nat) (s : State),
    let u := s.focus c
    let k := u.core
    let ph := k.share.phase
    let same := fun (t : State) => OutsideSame u t ∧ t.core.seq.svr = k.seq.svr ∧ t.core.vec = k.vec ∧ t.core.mat = k.mat
    let free := (ph = .done ∨ ph = .idle) ∧ k.seq.sup = false ∧ (k.seq.req = false ∨ k.seq.sen = false) ∧ k.obs.stopped = false ∧ k.seq.pre = none ∧ RunOut k
    (¬free → exec (.hardwareFlip c) s = .next s) ∧
    (∀ p x l, free → u.myPart = some (p, x) →
      x.current = none → x.table.find? (fun l => l.accepting && l.staged && l.status.isNone && !l.resident) = some l →
      (k.shd.launch = some l.num → k.shd.init = true → ∃ t, exec (.hardwareFlip c) s = .next t ∧ OutsideSame u t ∧
        t.core.cur = { k.shd with init := false } ∧ t.core.shd = k.cur ∧ t.core.near = nearOfImages k.shd.slots ∧ t.core.seq.thr = Bank.zero ∧
        t.core.seq.svr = Bank.zero ∧ t.core.vec = { Vec.reset with sh := shapesOf k.shd.shapes } ∧ t.core.mat = Mat.reset ∧ t.core.seq.bslots = [] ∧ t.core.badReg = [] ∧
        t.core.seq.scyc = 0 ∧ t.core.seq.sup = false ∧ t.core.seq.sen = (x.desc.sen && k.shd.sen) ∧ t.core.seq.sbase = k.shd.sbase ∧
        t.core.seq.req = false ∧ t.core.seq.ended = true ∧ NoTraps t ∧ (∀ e ∈ engines, t.core.eng e = Engine.reset) ∧
        t.core.share = { Share.idle with phase := .flipped, launch := l.num, part := p } ∧ (ph = .done → k.share ∈ t.core.saved)) ∧
      (k.shd.launch ≠ some l.num ∨ k.shd.init = false → exec (.hardwareFlip c) s = .next s)) ∧
    (∀ p x, u.myPart = some (p, x) → x.current ≠ none → exec (.hardwareFlip c) s = .next s) ∧
    (u.tokenFor = none → exec (.startToken c) s = .next s) ∧
    (∀ p x l, u.tokenFor = some (p, x, l) → k.seq.draining = false → k.seq.pre = none → k.seq.frz.align = none →
      let lc := (u.members x).findIdx (· == u.here)
      let idle := l.ncore ≤ lc ∨ l.tiles ≤ lc
      ∃ t, exec (.startToken c) s = .next t ∧ { t with core := u.core, parts := u.parts, free := u.free } = u ∧
        t.part? p = some (x.modLaunch l.num (fun y => { y with tokens := y.tokens.erase u.here })) ∧
        t.core.share.lcore = lc ∧ t.core.share.tile = lc ∧ t.core.share.n = l.ncore ∧ t.core.share.tiles = l.tiles ∧ t.core.share.launch = l.num ∧
        t.core.share.lbt = l.lbt ∧ t.core.share.token = l.token ∧ t.core.share.serp = l.serp ∧ t.core.share.dims = (List.range l.ndim).map l.ext ∧
        t.core.share.order = (List.range l.ndim).map l.order ∧ t.core.x.credits = 16 ∧ t.core.seq.thr = k.seq.thr ∧ t.core.near = k.near ∧
        (idle → t.core.share.phase = .done ∧ t.core.share.parvbn = 0) ∧
        (¬idle → t.core.share.parvbn = l.parvbn ∧ (l.parvbn ≠ 0 → t.core.share.phase = .swapIn) ∧
          (l.parvbn = 0 → k.seq.sup = false → if u.alignMet 4 l.lbt then t.core.share.phase = .entry
            else t.core.share.phase = .aligning ∧ t.core.seq.frz.align = some (4, l.lbt)))) ∧
    (let swaps := ph = .swapIn ∧ k.obs.stopped = false ∧ k.share.stop = false ∧ u.blockWaits u.partNum (k.share.parvbn + k.share.lcore) = false
     (¬swaps → exec (.parameterSwapIn c) s = .next s) ∧
     (∀ l, swaps → u.translateP u.partNum .write (4096 * (k.share.parvbn + k.share.lcore)) = .ok l → u.lostBlock l.pbn = false →
       ∃ t, exec (.parameterSwapIn c) s = .next t ∧ ParamSwapped u t l ∧ (t.core.share.phase = .aligning ∨ t.core.share.phase = .entry) ∧
         { t.core.share with phase := .swapIn } = k.share) ∧
     (swaps → u.paramHome = none → ∃ t, exec (.parameterSwapIn c) s = .next t ∧ OutsideSame u t ∧
       t.core = { k with share := { k.share with phase := .done, fault := true, parvbn := 0 } })) ∧
    (let due := ph = .entry ∧ k.seq.wait = 0 ∧ k.seq.sup = false ∧ k.share.stop = false ∧ k.seq.draining = false ∧ k.frozen = false
     let h := k.share
     (¬due → exec (.tileEntry c) s = .next s) ∧
     (due → ∃ t, exec (.tileEntry c) s = .next t ∧ same t ∧ t.core.x = k.x ∧ t.core.near = k.near ∧ t.core.share = { h with phase := .running } ∧
       t.core.seq.pc = 0 ∧ t.core.seq.wait = 0 ∧ t.core.seq.ended = false ∧ { t.core.seq.thr with s := k.seq.thr.s } = k.seq.thr ∧
       (∀ i : BitVec 5, i.toNat < 21 → t.core.seq.thr.get i = k.seq.thr.get i) ∧ t.core.seq.thr.get 21 = BitVec.ofNat 64 h.lcore ∧
       t.core.seq.thr.get 22 = BitVec.ofNat 64 h.tile ∧ t.core.seq.thr.get 23 = BitVec.ofNat 64 h.n ∧
       (∀ j d, h.order.Nodup → h.order[j]? = some d → d < 8 →
         t.core.seq.thr.get (BitVec.ofNat 5 (24 + d)) = BitVec.ofNat 64 (walkIndex h.dims h.order h.serp h.tiles h.tile j)) ∧
       (∀ d < 8, d ∉ h.order → t.core.seq.thr.get (BitVec.ofNat 5 (24 + d)) = 0) ∧
       t.core.obs.frz = if h.tile = h.lcore then Vector.replicate 4 0 else k.obs.frz))

/-- R50, R53, R58, R280, R340: a share whose sections, exchanges and results have run out ends: unclaimed payloads of its launch are
discarded and counted, and its parameter block goes home. A fault of one core stops the launch's others, which drain and end
with FAULT. When every share has ended the launch completes: SEQ, its completion word, its token byte, its place in the table. -/
def Claim.SharesEnd : Prop :=
  ∀ (c : Nat) (s : State),
    let u := s.focus c
    let k := u.core
    let h := k.share
    (let due := h.phase = .ending ∧ k.seq.sup = false ∧ NoTraps u ∧ k.seq.draining = false ∧ k.seq.pre = none ∧ h.stop = false ∧ k.obs.stopped = false ∧ RunOut k
     let mine := fun (p : Payload) => p.launch = h.launch
     let count := (k.x.landing.filter (fun p => p.launch == h.launch)).length + (k.x.inflow.filter (fun p => p.launch == h.launch)).length +
       (k.x.waiting.filter (fun w => w.2.launch == h.launch)).length + ((u.die u.myDie).hold.filter (fun e => e.core == u.here && e.pay.launch == h.launch)).length
     (¬due → exec (.shareEnd c) s = .next s) ∧
     (due → u.myDie < 4 → ∃ t, exec (.shareEnd c) s = .next t ∧ t.core.share = { h with phase := if h.parvbn = 0 then .done else .swapOut } ∧
       (∀ p, p ∈ t.core.x.landing ↔ p ∈ k.x.landing ∧ ¬mine p) ∧ (∀ p, p ∈ t.core.x.inflow ↔ p ∈ k.x.inflow ∧ ¬mine p) ∧
       (∀ w, w ∈ t.core.x.waiting ↔ w ∈ k.x.waiting ∧ ¬mine w.2) ∧        (∀ e, e ∈ (t.die u.myDie).hold ↔ e ∈ (u.die u.myDie).hold ∧ ¬(e.core = u.here ∧ mine e.pay)) ∧
       { t.core.seq with results := k.seq.results } = k.seq ∧ t.core.vec = k.vec ∧ t.core.mat = k.mat ∧ t.core.near = k.near ∧ t.dieStore = u.dieStore ∧
       t.main = u.main ∧ t.remote = u.remote ∧ (count = 0 → (t.die u.myDie).banks = (u.die u.myDie).banks) ∧
       (0 < count → BankTook u t u.myDie (u.here % 128 / 16) (u.coreEvent 0x0C 0x05 0 (BitVec.ofNat 64 count) .seq 0 0)))) ∧
    (let live := h.phase ≠ .idle ∧ h.phase ≠ .flipped ∧ h.phase ≠ .swapOut ∧ h.phase ≠ .done
     let drained := h.stop = true ∧ h.fault = true ∧ k.seq.sup = false ∧ k.quiet = true ∧ k.frozen = false
     let takes := h.stop = true ∧ h.fault = false ∧ k.seq.sup = false ∧ k.obs.stopped = false ∧ live ∧
       (k.atBoundary = true ∨ k.frozen = true ∨ h.phase = .entry ∧ k.seq.wait = 0)
     let falls := live ∧ h.fault = false ∧ h.stop = false ∧ ∃ e ∈ u.others, e.2.share.launch = h.launch ∧ e.2.share.fault = true ∧
       (u.partOf e.1).map Prod.fst = some u.partNum
     (¬drained → ¬takes → ¬falls → exec (.launchStop c) s = .next s) ∧
     (drained → k.seq.late = none → h.phase ≠ .swapIn → ∃ t, exec (.launchStop c) s = .next t ∧ EndsFault u t ∧ OutsideSame u t) ∧
     (drained → k.seq.late = none → h.phase = .swapIn → ∃ t, exec (.launchStop c) s = .next t ∧ OutsideSame u t ∧
       t.core.share = { h with phase := .ending, fault := true, stop := false, parvbn := 0 }) ∧
     (takes → ∃ t, exec (.launchStop c) s = .next t ∧ t.core.share = { h with fault := true } ∧ t.core.seq.draining = true ∧
       t.core.seq.frz.align = none ∧ t.core.seq.frz.bar = none ∧ t.core.seq.thr = k.seq.thr ∧ t.core.vec = k.vec ∧ t.core.mat = k.mat ∧
       t.core.near = k.near ∧ t.dieStore = u.dieStore ∧
       ∀ a ∈ k.x.accs, a.late = true → (∀ x, a.kind ≠ .atom x) → ∀ b ∈ t.core.x.accs, b.id = a.id → ∃ x, b.kind = .atom x ∧ x.dst = none) ∧
     (falls → ∃ t, exec (.launchStop c) s = .next t ∧ OutsideSame u t ∧ t.core = { k with share := { h with stop := true } })) ∧
    (let swaps := h.phase = .swapOut ∧ k.obs.stopped = false ∧ h.stop = false ∧ u.blockWaits u.partNum (h.parvbn + h.lcore) = false
     (¬swaps → exec (.parameterSwapOut c) s = .next s) ∧
     (∀ l, swaps → u.translateP u.partNum .write (4096 * (h.parvbn + h.lcore)) = .ok l → u.lostBlock l.pbn = false →
       ∃ t, exec (.parameterSwapOut c) s = .next t ∧ ParamSwapped u t l ∧ t.core.share = { h with phase := .done, parvbn := 0 }) ∧
     (swaps → u.paramHome = none → ∃ t, exec (.parameterSwapOut c) s = .next t ∧ OutsideSame u t ∧
       t.core = { k with share := { h with phase := .done, fault := true, parvbn := 0 } })) ∧
    ∀ p, (s.completing p = none → exec (.launchCompletion p) s = .next s) ∧
      ∀ x l st, s.completing p = some (x, l, st) → s.part? p = some x →
        let ended := ∀ m ∈ s.members x, ∃ y, (s.coreAt m).shareIn l.num = some y ∧ y.phase = .done
        let failed := ∃ m ∈ s.members x, ∃ y, (s.coreAt m).shareIn l.num = some y ∧ y.fault = true
        l ∈ x.table ∧ (l.status = none → l.tokens = [] ∧ ended ∧ (failed → st = 3) ∧ (¬failed → st = 0)) ∧
        (∀ v, l.status = some v → st = v ∧ (l.running = true → ended)) ∧
        ∃ t y, exec (.launchCompletion p) s = .next t ∧ t.part? p = some y ∧
          y = { x with seq := x.seq + 1, table := x.table.filter (fun m => m.num != l.num), valid := if l.running then false else x.valid } ∧
          (KeysOk s → ∀ m, (t.coreAt m).share = (s.coreAt m).share ∧ (t.coreAt m).near = (s.coreAt m).near ∧ (t.coreAt m).seq = (s.coreAt m).seq) ∧
          (∀ f g i j, s.translateP p .write l.doneva = .ok f → s.translateP p .write (x.tokenVa l.token) = .ok g → s.lostBlock f.pbn = false →
            s.lostBlock g.pbn = false → s.keyIdent f.key = some i → s.keyIdent g.key = some j → s.main.wf = true → Sparse.canon 0 s.seals = true →
            l.doneva % 8 = 0 → f.pbn ≠ g.pbn →
            (∀ a ∈ s.walkReads p x.desc.asid (x.tokenVa l.token), a / 128 ≠ (4096 * f.pbn + l.doneva % 4096) / 128) →
            let word := st.toNat * 2 ^ 56 + (x.seq + 1).toNat
            (∀ b < 8, t.mainByte i (4096 * f.pbn + l.doneva % 4096 + b) = BitVec.ofNat 8 (word / 256 ^ b)) ∧
            t.mainByte j (4096 * g.pbn + x.tokenVa l.token % 4096) = st ∧
            (∀ b, b / 128 ≠ (4096 * f.pbn + l.doneva % 4096) / 128 → b / 128 ≠ (4096 * g.pbn + x.tokenVa l.token % 4096) / 128 → t.main.byte b = s.main.byte b))

/-- R70, R320: a supervisor's write of CTX to another value names the shares that ran under the old one, clears the vector, mask,
shape and quill registers and both latches, and exchanges the payloads of the two contexts with the receiver hold; a write
of FRZLIM is clamped to 256 to 2^24. -/
def Claim.ContextWrites : Prop :=
  ∀ (c : Nat) (s : State),
    let u := s.focus c
    let k := u.core
    let may := k.seq.sup = true ∧ k.frozen = false
    (∀ v, ¬may → exec (.ctxWrite c v) s = .next s) ∧ (∀ v, ¬may → exec (.frzlimWrite c v) s = .next s) ∧
    (∀ v : Word, may → ∃ t, exec (.frzlimWrite c v) s = .next t ∧ OutsideSame u t ∧ { t.core with seq := { t.core.seq with frzlim := k.seq.frzlim } } = k ∧
      t.core.seq.frzlim.toNat = if v.toNat < 256 then 256 else if 2 ^ 24 < v.toNat then 2 ^ 24 else v.toNat) ∧
    ∀ v, may →
      (v = k.seq.ctx → ∃ t, exec (.ctxWrite c v) s = .next t ∧ OutsideSame u t ∧ t.core = k) ∧
      (v ≠ k.seq.ctx → u.myDie < 4 → ∃ t, exec (.ctxWrite c v) s = .next t ∧ MemorySame u t ∧ { t with core := u.core, dies := u.dies, free := u.free } = u ∧
        { t.core with seq := k.seq, x := k.x, vec := k.vec, mat := k.mat, share := k.share, saved := k.saved, badReg := k.badReg } = k ∧ t.core.seq = { k.seq with ctx := v } ∧
        t.core.vec = { Vec.reset with rb := k.vec.rb, flg := k.vec.flg } ∧ t.core.mat = { k.mat with wl := Vector.replicate 2 Latch.empty } ∧
        MarksLeft u t (fun b => b.1 < 5) ∧ { t.core.x with landing := k.x.landing, inflow := k.x.inflow } = k.x ∧
        let name := fun (y : Share) => if y.ctx = none then { y with ctx := some k.seq.ctx } else y
        t.core.share = name k.share ∧ t.core.saved = k.saved.map name ∧
        let mine := fun (p : Payload) => t.core.ctxOf p.launch == some v
        let hold := (u.die u.myDie).hold
        let back := (hold.filter (fun e => e.core == u.here && mine e.pay)).map Held.pay
        (∀ p, p ∈ t.core.x.landing → mine p = true ∧ (p ∈ k.x.landing ∨ p ∈ back)) ∧
        (∀ p, p ∈ t.core.x.inflow → mine p = true ∧ (p ∈ k.x.inflow ∨ p ∈ back)) ∧
        (k.landingUsed + payBytes (back.filter (fun p => !p.push)) ≤ 65536 → k.x.inflow.length + (back.filter (fun p => p.push)).length ≤ 8 →
          t.core.x.landing = k.x.landing.filter mine ++ back.filter (fun p => !p.push) ∧
          t.core.x.inflow = k.x.inflow.filter mine ++ back.filter (fun p => p.push) ∧
          (t.die u.myDie).hold = hold.filter (fun e => !(e.core == u.here && mine e.pay)) ++
            ((k.x.landing ++ k.x.inflow).filter (fun p => !mine p)).map (fun p => ({ core := u.here, pay := p } : Held))))

/-- Shares begin, end and switch context. Rests on choices of the model: log entries 20, 23, 26. -/
def Obligations.Shares : Prop :=
  Claim.SharesBegin ∧ Claim.SharesEnd ∧ Claim.ContextWrites

/-- R336: writes of the launch window: RTAIL takes 12 bits; RBASE and SZ change only while every ring is empty, and SZ only to 4 to
12; a write refused sets RERR, and RERRJ where RERR was 0; 1 written to RERR clears it and every stopped ring resumes. -/
def Claim.LaunchWindow : Prop :=
  ∀ (p j : Nat) (v : Word) (s : State),
    (s.part? p = none → exec (.rtailWrite p j v) s = .next s ∧ exec (.rbaseWrite p j v) s = .next s ∧ exec (.szWrite p v) s = .next s ∧
      exec (.rerrClear p) s = .next s) ∧
    ∀ x, s.part? p = some x →
      let empty := ∀ i : Fin 4, x.rtail[i] = x.rhead[i]
      let err := fun (k : Nat) => { x with rerr := true, rerrj := if x.rerr then x.rerrj else BitVec.ofNat 2 k }
      let base : BitVec 52 := v.extractLsb' 12 40 ++ 0#12
      let sz : BitVec 4 := v.extractLsb' 0 4
      (∃ t y, exec (.rtailWrite p j v) s = .next t ∧ PartNow s t p y ∧ { y with rtail := x.rtail } = x ∧
        ∀ i : Fin 4, y.rtail[i] = if i.val = j then v.extractLsb' 0 12 else x.rtail[i]) ∧
      (∃ t y, exec (.rbaseWrite p j v) s = .next t ∧ PartNow s t p y ∧
        (j < 4 → base = x.rbase[j]?.getD 0 → y = x) ∧ (j < 4 → base ≠ x.rbase[j]?.getD 0 → ¬empty → y = err j) ∧
        (empty → { y with rbase := x.rbase } = x ∧ ∀ i : Fin 4, y.rbase[i] = if i.val = j then base else x.rbase[i])) ∧
      (∃ t y, exec (.szWrite p v) s = .next t ∧ PartNow s t p y ∧
        y = if sz.toNat < 4 ∨ 12 < sz.toNat ∨ (sz ≠ x.sz ∧ ¬empty) then err 0 else { x with sz := sz }) ∧
      ∃ t, exec (.rerrClear p) s = .next t ∧ PartNow s t p { x with rerr := false, stopped := 0 }

/-- R337-R340: a ring with an entry, no higher ring having one, submits it: a reserved bit, a count past the ring's size, or a fault on
the entry, the record or the token byte stops the ring; 64 launches held or a token still pending wait; else the token byte
becomes 0xFF and the record enters the table with its ring's starting priority and the seed of now. -/
def Claim.LaunchesSubmit : Prop :=
  ∀ (p j : Nat) (s : State) (x : Part),
    let ev := exec (.submit p j) s
    let load := fun (i : Nat) => ((x.rtail[i]?.getD 0) - (x.rhead[i]?.getD 0)).toNat
    let active := fun (i : Nat) => i < 4 ∧ x.en = true ∧ x.stopped.getLsbD i = false ∧ load i ≠ 0
    let va := (x.rbase[j]?.getD 0).toNat + 8 * ((x.rhead[j]?.getD 0).toNat % 2 ^ x.sz.toNat)
    let stops := ∃ t, ev = .next t ∧ PartNow s t p
      { x with rerr := true, rerrj := if x.rerr then x.rerrj else BitVec.ofNat 2 j, stopped := x.stopped ||| (1#4 <<< j) }
    s.part? p = some x →
      (¬active j → ev = .next s) ∧
      (active j → (∀ i < 4, j < i → ¬active i) →
        (s.schedWaits p va = true → ev = .next s) ∧
        (s.schedWaits p va = false →
          (2 ^ x.sz.toNat < load j ∨ s.schedRead p va 8 = none → stops) ∧
          (∀ e8, load j ≤ 2 ^ x.sz.toNat → s.schedRead p va 8 = some e8 → (natOfBytes e8 % 128 ≠ 0 ∨ 2 ^ 52 ≤ natOfBytes e8) → stops) ∧
          (∀ e8, load j ≤ 2 ^ x.sz.toNat → s.schedRead p va 8 = some e8 → natOfBytes e8 % 128 = 0 → natOfBytes e8 < 2 ^ 52 →
            let e := natOfBytes e8
            (64 ≤ x.table.length ∨ s.schedWaits p e = true → ev = .next s) ∧
            (x.table.length < 64 → s.schedWaits p e = false →
              (s.schedRead p e 128 = none → stops) ∧
              ∀ bs, s.schedRead p e 128 = some bs →
                let word := fun (i : Nat) => (BitVec.ofNat 64 (natOfBytes ((bs.drop (8 * i)).take 8)) : Word)
                let tv := x.desc.tokbase + ((word 7).extractLsb' 0 20).toNat
                (s.schedWaits p tv = true → ev = .next s) ∧
                (s.schedWaits p tv = false → s.schedRead p tv 1 = none → stops) ∧
                (s.schedWaits p tv = false → s.schedRead p tv 1 = some [0xFF] → ev = .next s) ∧
                (∀ b, s.schedWaits p tv = false → s.schedRead p tv 1 = some [b] → b ≠ 0xFF → s.schedWrite p tv [0xFF] = none → stops) ∧
                (∀ b f, s.schedWaits p tv = false → s.schedRead p tv 1 = some [b] → b ≠ 0xFF → s.translateP p .write tv = .ok f → s.lostBlock f.pbn = false →
                  ∃ t y l, ev = .next t ∧ PartIs s t p y ∧ y = { x with table := x.table ++ [l], nextNum := x.nextNum + 1, rhead := y.rhead } ∧
                    (∀ i : Fin 4, y.rhead[i] = if i.val = j then x.rhead[i] + 1 else x.rhead[i]) ∧
                    l.num = x.nextNum ∧ l.ring = j ∧ l.lnrVa = e ∧ l.raw = bs ∧ l.seed = x.seed ∧ l.age = 0 ∧ l.prio = max j ((word 0).extractLsb' 58 2).toNat ∧
                    l.ready = false ∧ l.running = false ∧ l.resident = false ∧ l.accepting = false ∧ l.outrank = false ∧ l.staged = false ∧ l.status = none ∧
                    t.core = s.core ∧ t.others = s.others ∧
                    (∀ i, s.keyIdent f.key = some i → s.main.wf = true → Sparse.canon 0 s.seals = true → 
                      t.mainByte i (4096 * f.pbn + tv % 4096) = 0xFF))))))

/-- The launch window and submission. Rests on choices of the model: log entries 21, 31. -/
def Obligations.LaunchWindows : Prop :=
  Claim.LaunchWindow ∧ Claim.LaunchesSubmit

/-- R341, R342: a launch none of whose prerequisite bytes is 0xFF becomes ready, at once where one faults; with one that is not OK it is
to complete with DEPFAIL. A launch ready and not running gains one of priority for every AGE ticks, to at most 3. -/
def Claim.LaunchesReady : Prop :=
  ∀ (p i : Nat) (s : State),
    (s.launchAt p i = none → exec (.launchReady p i) s = .next s ∧ exec (.agingStep p i) s = .next s ∧ exec (.staging p i) s = .next s ∧
      exec (.outrankPreempt p i) s = .next s) ∧
    ∀ x l, s.part? p = some x → x.table[i]? = some l →
      let byte := fun (j : Nat) => (s.schedRead p (x.desc.tokbase + ((l.w 6).extractLsb' (20 * j) 20).toNat) 1).map (fun b => b.headD 0)
      let pre := fun (j : Nat) => j < 3 ∧ (l.w 6).getLsbD (60 + j) = true
      let wait := ∃ j, pre j ∧ s.schedWaits p (x.desc.tokbase + ((l.w 6).extractLsb' (20 * j) 20).toNat) = true
      let judged := l.ready = false ∧ l.status = none ∧ ¬wait ∧ ((∃ j, pre j ∧ byte j = none) ∨ ∀ j, pre j → byte j ≠ some 0xFF)
      let fails := ∃ j, pre j ∧ byte j ≠ some 0
      let ages := x.age ≠ 0 ∧ l.ready = true ∧ l.running = false ∧ l.prio < 3 ∧ x.age.toNat ≤ l.age
      (¬judged → exec (.launchReady p i) s = .next s) ∧
      (∀ st, judged → (fails → st = some 1) → (¬fails → st = none) →
        let y := x.withLaunch l.num (fun m => { m with ready := true, status := st })
        ((∀ j, pre j → byte j ≠ none) → ∃ t, exec (.launchReady p i) s = .next t ∧ PartNow s t p y) ∧
        ((∃ j, pre j ∧ byte j = none) → ∃ t u, exec (.launchReady p i) s = .next t ∧ PartNow s u p y ∧ ReportsOnly u t ∧
          BankTook u t 0 15 (plainEvent 0x10 0x41 p 0 0))) ∧
      (ages → ∃ t, exec (.agingStep p i) s = .next t ∧
        PartNow s t p (x.withLaunch l.num (fun m => { m with prio := m.prio + 1, age := m.age - x.age.toNat }))) ∧
      (¬ages → exec (.agingStep p i) s = .next s)

/-- R342-R344, R347: with PEN set a launch that never ran and whose starting priority exceeds the running one's is checked and
staged; then the switch record is written, REQ is set on every member core, and the launch that ran becomes resident, its image
to lie in the sets the record names. A resident launch chosen to resume asks the cores to switch back to the context and the sets it
left, and keeps its LBT. -/
def Claim.LaunchesSwitch : Prop :=
  ∀ (p i : Nat) (s : State) (x : Part) (l : Launch), s.part? p = some x → x.table[i]? = some l → KeysOk s →
    let ev := exec (.outrankPreempt p i) s
    let busy := ∃ m ∈ x.table, (m.accepting = true ∨ m.outrank = true) ∧ m.status = none
    let runs := fun (r : Launch) => x.table.find? (fun m => m.running) = some r
    let outranks := x.pen = true ∧ l.ready = true ∧ l.status = none ∧ l.resident = false ∧ l.running = false ∧
      (x.table.filter (fun m => m.resident)).length < 4 ∧ ∃ r, runs r ∧ r.status = none ∧ r.prio < l.startPrio
    let staged := l.outrank = true ∧ l.staged = true ∧ outranks
    let under := x.table.find? (fun m => m.accepting && m.status.isNone) = some l ∧ l.staged = true ∧ (∀ m ∈ x.table, m.running = false) ∧ l.resident = true
    let asked := fun (t : State) => ∀ c, (t.coreAt c).near = (s.coreAt c).near ∧ (t.coreAt c).vec = (s.coreAt c).vec ∧ (t.coreAt c).seq.thr = (s.coreAt c).seq.thr ∧
      (t.coreAt c).seq.req = if c ∈ s.members x then true else (s.coreAt c).seq.req
    let record := fun (t : State) (kind ni ai gi sp : Nat) => ∀ f k, s.translateP p .write (4096 * x.desc.swblk) = .ok f → s.lostBlock f.pbn = false →
      s.keyIdent f.key = some k → s.main.wf = true → Sparse.canon 0 s.seals = true →
        let at_ := fun (o n v : Nat) => ∀ b < n, t.mainByte k (4096 * f.pbn + o + b) = BitVec.ofNat 8 (v / 256 ^ b)
        at_ 0 4 kind ∧ at_ 8 8 ni ∧ at_ 16 8 ai ∧ at_ 24 8 gi ∧ at_ 32 8 sp ∧ at_ 40 24 0 ∧ (kind = 2 → at_ 4 4 (s.oldCtx x l.num))
    (¬staged → ¬(outranks ∧ ¬busy) → ev = .next s) ∧
    (¬staged → outranks → ¬busy → ∃ t, ev = .next t ∧ PartNow s t p (x.withLaunch l.num (fun m =>
      if m.bad (s.members x).length then { m with status := some 2 } else { m with outrank := true }))) ∧
    (staged → s.schedWaits p (4096 * x.desc.swblk) = true → ev = .next s) ∧
    (staged → s.schedWaits p (4096 * x.desc.swblk) = false → ∃ t y ni ai sp, ev = .next t ∧ PartIs s t p y ∧ asked t ∧ record t 1 ni ai 0 sp ∧
      y.valid = false ∧ y.swkind = 1 ∧ y.profile = (if l.shareNo < x.desc.profiles.length then l.shareNo else 0) ∧
      y.table = x.table.map (fun m => if m.running then { m with running := false, resident := true, sets := (ni, ai, sp) }
        else if m.num = l.num then { m with accepting := !x.halt, outrank := false } else m) ∧
      { y with valid := x.valid, swkind := x.swkind, profile := x.profile, table := x.table } = x) ∧
    (under → (∃ c ∈ s.members x, (s.coreAt c).seq.req = false ∧ (s.coreAt c).seq.sup = false ∧ (s.coreAt c).share.launch ≠ l.num) →
      (s.schedWaits p (4096 * x.desc.swblk) = true → exec (.acceptance p) s = .next s) ∧
      (s.schedWaits p (4096 * x.desc.swblk) = false → ∃ t sp, exec (.acceptance p) s = .next t ∧ PartIs s t p { x with swkind := 2 } ∧ asked t ∧
        record t 2 l.sets.1 l.sets.2.1 l.sets.2.2 sp)) ∧
    (under → (∀ c ∈ s.members x, (s.coreAt c).share.launch = l.num ∧ (s.coreAt c).seq.sup = false ∧ (s.coreAt c).seq.req = false) →
      s.schedWaits p (l.lnrVa + 40) = false → ∃ t, exec (.acceptance p) s = .next t ∧
        PartNow s t p { (x.withLaunch l.num (startedAs l (s.baseTick x) (s.members x))) with valid := true, rtoken := l.token })

/-- Readiness, ageing and pre-emption of launches. Rests on choices of the model: log entries 21, 25. -/
def Obligations.LaunchChoice : Prop :=
  Claim.LaunchesReady ∧ Claim.LaunchesSwitch

/-- R342, R345, R347-R351: with no launch running, HALT clear and no channel holding it back, the scheduler takes the ready launch of
highest priority, a resident one first, then the oldest: one that fails R49 completes with BADLNR, else its slot profile is
installed and it is staged into every member core's shadow plane, a bad image completing with BADLNR and a fault with FAULT. When
every member core has flipped it starts: LBT, SEED, VALID, RTOKEN and the tokens.
Rests on choices of the model: log entries 21, 22, 23, 24. -/
def Obligations.LaunchesStart : Prop :=
  ∀ (p i : Nat) (s : State) (x : Part), s.part? p = some x →
    let ev := exec (.acceptance p) s
    let under := fun (l : Launch) => x.table.find? (fun m => m.accepting && m.status.isNone) = some l
    let held := x.halt = true ∨ (∃ e ∈ x.desc.chanEntries, (s.chans[e / 512]?.getD Channel.off).expired = true) ∨ (∃ m ∈ x.table, m.running = true)
    ((∀ m ∈ x.table, m.accepting = false ∨ m.status ≠ none) → (held ∨ ∀ m ∈ x.table, ¬m.eligible) → ev = .next s) ∧
    ((∀ m ∈ x.table, m.accepting = false ∨ m.status ≠ none) → ¬held → ∀ l ∈ x.table, l.eligible →
      (∀ m ∈ x.table, m.eligible → m = l ∨ m.prio < l.prio ∨ (m.prio = l.prio ∧ ((l.resident = true ∧ m.resident = false) ∨
        (l.resident = m.resident ∧ l.num < m.num)))) →
      (l.bad (s.members x).length = true → ∃ t, ev = .next t ∧ PartNow s t p (x.withLaunch l.num (fun m => { m with status := some 2 }))) ∧
      (l.bad (s.members x).length = false → ∃ t n, ev = .next t ∧ n = (if l.shareNo < x.desc.profiles.length then l.shareNo else 0) ∧
        { t with parts := s.parts, chanTab := s.chanTab, fadTab := s.fadTab, free := s.free } = s ∧
        t.part? p = some { x with profile := n, table := x.table.map (fun m => { m with accepting := m.accepting || decide (m.num = l.num), outrank := false }) } ∧
        ∀ f, x.desc.profiles[n]? = some f → Sparse.canon freeEntry s.chanTab = true → Sparse.canon freeEntry s.fadTab = true →
          (∀ e ∈ x.desc.chanEntries, Sparse.get freeEntry t.chanTab e = slotEntry p f.hostChan e) ∧
          (∀ e, e ∉ x.desc.chanEntries → Sparse.get freeEntry t.chanTab e = Sparse.get freeEntry s.chanTab e) ∧
          (∀ e ∈ x.desc.fadEntries, Sparse.get freeEntry t.fadTab e = slotEntry p f.hostFad e) ∧
          ∀ e, e ∉ x.desc.fadEntries → Sparse.get freeEntry t.fadTab e = Sparse.get freeEntry s.fadTab e)) ∧
    (∀ l, under l →
      (l.staged = false ∨ (∃ m ∈ x.table, m.running = true) → ev = .next s) ∧
      (l.staged = true → (∀ m ∈ x.table, m.running = false) → l.resident = false →
        let flipped := ∀ c ∈ s.members x, (s.coreAt c).share.launch = l.num ∧ (s.coreAt c).share.phase = .flipped
        (¬flipped → ev = .next s) ∧
        (flipped → s.schedWaits p (l.lnrVa + 40) = false → ∃ t, ev = .next t ∧
          PartIs s t p { (x.withLaunch l.num (startedAs l (s.baseTick x) (s.members x))) with valid := true, rtoken := l.token } ∧
          ∀ f k, s.translateP p .write (l.lnrVa + 40) = .ok f → s.lostBlock f.pbn = false → s.keyIdent f.key = some k → l.lnrVa % 128 = 0 → s.main.wf = true → Sparse.canon 0 s.seals = true → 
            t.core = s.core ∧ t.others = s.others ∧
            ∀ b < 8, t.mainByte k (4096 * f.pbn + (l.lnrVa + 40) % 4096 + b) = BitVec.ofNat 8 (l.seed.toNat / 256 ^ b)))) ∧
    (∀ l, x.table[i]? = some l →
      let may := (l.accepting = true ∨ l.outrank = true) ∧ l.staged = false ∧ l.status = none ∧ (s.hasPlane x l = true ∨ s.imageWaits p l.img = false)
      let st := exec (.staging p i) s
      (¬may → st = .next s) ∧
      (may → s.hasPlane x l = true → ∃ t, st = .next t ∧ PartNow s t p (x.withLaunch l.num (fun m => { m with staged := true }))) ∧
      (may → s.hasPlane x l = false → s.image p l.img = .bad → ∃ t, st = .next t ∧ PartNow s t p (x.withLaunch l.num (fun m => { m with status := some 2 }))) ∧
      (may → s.hasPlane x l = false → s.image p l.img = .fault → ∃ t, st = .next t ∧ PartNow s t p (x.withLaunch l.num (fun m => { m with status := some 3 }))) ∧
      (∀ pl, may → s.hasPlane x l = false → s.image p l.img = .ok pl → KeysOk s → ∃ t, st = .next t ∧
        PartIs s t p { x with table := x.table.map (fun m => { m with staged := decide (m.num = l.num) }) } ∧ t.main = s.main ∧
        ∀ c, { t.coreAt c with shd := (s.coreAt c).shd } = s.coreAt c ∧
          (c ∈ s.members x → (t.coreAt c).shd = { pl with launch := some l.num, init := !l.resident }) ∧
          (c ∉ s.members x → (t.coreAt c).shd = (s.coreAt c).shd)))

/-- R2, R366-R376: an event of a unit that is there goes to the one bank its source names, by R374, and is reported to the host; an
uncorrectable word is marked poisoned where it lies, a TLB entry that fails is dropped, a check that fails raises PIPE with the next
word of its stream, and an exchange abandoned for one ends with XABND. The host reads and clears banks. A frame sent again is recorded,
one that failed eight times takes what it carried with it, and more than 16 of a direction within 1,024 ticks are a storm.
Rests on choices of the model: log entries 16, 29, 45, 67, 72. -/
def Obligations.ErrorsRecorded : Prop :=
  ∀ (d b : Nat) (ev : ErrEv) (s : State),
    let bad := exec (.errorEvent d ev) s
    let c := ev.core.toNat
    let there := d < 4 ∧ (ev.ofCore = true → s.usable c = true)
    let quad := fun (n : Nat) => (n / 128, n % 128 / 16)
    let own := if ev.ofCore then quad c else (d, 15)
    let place : Nat × Nat := if ev.src = 0x20 ∨ ev.src = 0x21 then (s.chanOf (ev.addr.toNat / 4096) / 6, 8 + s.chanOf (ev.addr.toNat / 4096) % 6)
      else if ev.src = 0x10 then ((s.part? ev.part.toNat).map (fun x => quad (diePlace (s.membersOn x) ev.addr.toNat).1)).getD own
      else if ev.src = 0x30 ∨ ev.src = 0x31 ∨ ev.src = 0x42 then (d, 14) else if ev.src = 0x50 then (0, 15)
      else if 0x38 ≤ ev.src.toNat then (d, 15) else own
    let cls := if ev.kind ∈ ([0x01, 0x03, 0x06, 0x12, 0x14, 0x15] : List (BitVec 8)) then 0
      else if ev.kind ∈ ([0x0D, 0x0E, 0x13] : List (BitVec 8)) then 2 else 1
    let a := ev.addr.toNat
    let nearMark := fun (t : State) => ∀ n, (t.coreAt n).near.bytes = (s.coreAt n).near.bytes ∧
      ∀ w, w ∈ (t.coreAt n).near.poison ↔ w ∈ (s.coreAt n).near.poison ∨ (n = c ∧ w = a % 1048576 / 8)
    let mainMark := fun (t : State) => t.main.bytes = s.main.bytes ∧ ∀ w, w ∈ t.main.poison ↔ w ∈ s.main.poison ∨ w = a / 8
    let dieMark := fun (t : State) => ∀ x, s.part? ev.part.toNat = some x → t.dieStore.bytes = s.dieStore.bytes ∧
      ∀ w, w ∈ t.dieStore.poison ↔ w ∈ s.dieStore.poison ∨ w = (diePlace (s.membersOn x) a).2 / 8
    (¬there → bad = .next s) ∧
    (there → ev.src ≠ 0x07 → ev.kind ≠ 0x08 → ev.kind ≠ 0x0A → place.1 < 4 → ∃ t, bad = .next t ∧ BankTook s t place.1 place.2 ev ∧
      ((∀ e ∈ (s.die place.1).today, e.1 ≠ place.2) → ∀ old new, (s.die place.1).banks[place.2]? = some old → (t.die place.1).banks[place.2]? = some new →
        BankRules old new ev (s.die place.1).tick) ∧ OnlyBank s t place.1 place.2 ∧ HostTold s t cls ∧
      (ev.kind ∉ ([0x02, 0x09, 0x12] : List (BitVec 8)) → ReportsOnly s t) ∧
      (ev.kind = 0x02 → KeysOk s →
        (ev.src = 0x01 → nearMark t) ∧ (ev.src = 0x20 → mainMark t) ∧ (ev.src = 0x10 → dieMark t) ∧
        (ev.src = 0x02 ∨ ev.src = 0x03 → a < 65536 → (t.coreAt c).badReg = (a / 4096, a / 64 % 64, a % 64) :: (s.coreAt c).badReg) ∧
        (ev.src = 0x04 → a < 131072 → (t.coreAt c).cur.code = (s.coreAt c).cur.code ∧
          ∀ w, w ∈ (t.coreAt c).cur.bad ↔ w ∈ (s.coreAt c).cur.bad ∨ w = a / 8)) ∧
      (ev.kind = 0x12 → ∀ e ∈ (t.die d).tlb, e.vpage ≠ a / 65536)) ∧
    (there → ev.src ≠ 0x07 → ev.kind = 0x0A → ∃ t, bad = .next t ∧ (∀ e : Fin 4, t.dies[e] = s.dies[e]) ∧ (ev.src ≠ 0x10 → mainMark t ∧ t.dieStore = s.dieStore) ∧
      (ev.src = 0x10 → dieMark t ∧ t.main = s.main)) ∧
    (there → ev.src = 0x07 → KeysOk s → ∃ t, bad = .next t ∧ { t with core := s.core, others := s.others, free := s.free } = s ∧
      (∀ n, n ≠ c → t.coreAt n = s.coreAt n) ∧
      (ev.eng = 0 → t.coreAt c = { s.coreAt c with seq := { (s.coreAt c).seq with pipe := true } }) ∧
      ∀ e ∈ engines, streamCode e = ev.eng.toNat → t.coreAt c = (s.coreAt c).setEng e { (s.coreAt c).eng e with pipe := true }) ∧
    (there → ev.kind = 0x08 → ev.src ≠ 0x07 → KeysOk s → ∀ y x, (s.coreAt c).exchangeOf ev = some y → y.kind = .xch x →
      ∃ t, bad = .next t ∧ (t.coreAt c).x.accs = (s.coreAt c).x.accs.filter (fun z => z.id != y.id) ∧
        (∀ l, l ∈ t.locks ↔ l ∈ s.locks ∧ ¬(l.core = c ∧ l.id = y.id)) ∧ t.dieStore.bytes = s.dieStore.bytes ∧ t.main.bytes = s.main.bytes ∧
        (∀ n, (t.coreAt n).near.bytes = (s.coreAt n).near.bytes) ∧
        (ev.src = 0x01 → ev.detail.toNat % 256 = 3 → nearMark t) ∧
        ((∀ z ∈ (s.coreAt c).seq.traps, ¬(z.eng = y.strm ∧ z.secno = y.secno ∧ z.sup = y.sup)) → ∃ z, (t.coreAt c).seq.traps = (s.coreAt c).seq.traps ++ [z] ∧
          z.cause = 0x14 ∧ z.sub.toNat = ev.detail.toNat % 256 ∧ z.addr = x.farVal ∧ z.eng = y.strm ∧ z.secno = y.secno ∧ z.widx = y.widx)) ∧
    (d < 4 → b < 16 → s.hostUp = true →
      (∃ t, exec (.errorBankRead d b) s = .next t ∧ t.hostLog = s.hostLog ++ [.data (bytesOfNat 8 (s.bank d b)[0].toNat) false] ∧ OnlyBank s t d b ∧
        ((∀ e ∈ (s.die d).today, e.1 ≠ b) → ∀ w, (s.die d).banks[b]? = some w →
          (t.die d).banks[b]? = some (if w[0].getLsbD 63 then w.set 0 (w[0] ||| (1#64 <<< 62)) else w)) ∧
        { t with dies := s.dies, hostLog := s.hostLog, free := s.free } = s) ∧
      ∃ t, exec (.errorRecordClear d b) s = .next t ∧ BankCleared s t d b ∧ OnlyBank s t d b ∧ { t with dies := s.dies, free := s.free } = s) ∧
    (s.hostUp = false → exec (.errorBankRead d b) s = .next s ∧ exec (.errorRecordClear d b) s = .next s) ∧
    ∀ (l : LinkRef) (ok : Bool),
      let k : BitVec 8 := if ok then 0x06 else 0x07
      let lost := fun (u : State) => (ok = true ∨ s.onLink l = [] → u = s) ∧ (ok = false → s.onLink l ≠ [] → ∃ x ∈ s.onLink l, (s.focus x.1).core.acc? x.2 ≠ none →
        ∃ w : State, exec (.pathFailure x.1 x.2) s = .next w.bump ∧ u = w.focus s.here)
      (∀ e, l = .network e → e < 4 → ∃ u t, exec (.frameRetry l ok) s = .next t ∧ lost u ∧ ReportsOnly u t ∧ BankTook u t e 14 (plainEvent k 0x31 127 0 0)) ∧
      (∀ ch, l = .oml ch → ch < 24 → ∃ u t, exec (.frameRetry l ok) s = .next t ∧ lost u ∧ ReportsOnly u t ∧
        BankTook u t (ch / 6) (8 + ch % 6) (plainEvent k 0x21 127 0 0)) ∧
      ∀ x y, l = .fadric x y → x < 4 → y < 4 → ∃ u t n, exec (.frameRetry l ok) s = .next t ∧ lost u ∧ 1 ≤ n ∧ n ≤ 8 ∧ (ok = false → n = 8) ∧
        let old := (u.die x).retries[y]?.getD []
        let storm := old.length ≤ 16 ∧ 16 < old.length + n
        (t.die x).retries[y]? = some (old ++ List.replicate n (u.die x).tick) ∧ (¬storm → BankTook u t x 14 (plainEvent k 0x30 127 0 0)) ∧
        (storm → ∃ v, BankTook u v x 14 (plainEvent k 0x30 127 0 0) ∧ BankTook v t x 14 (plainEvent 0x14 0x30 127 0 0))

/-- R401-R403: the host reaches main memory through its partition's slice, an untranslatable or dead home answering with an
Unsupported Request; data it marks lands poisoned, and poisoned words return so. Through BAR0 it reads and writes the mailbox
and the registers, whole doublewords at a time. -/
def Claim.HostAccesses : Prop :=
  ∀ (o n : Nat) (data : List Byte) (ep : Bool) (s : State),
    let low := o < 2 ^ 40
    let pn := o / 2 ^ 33
    (s.hostUp = false → exec (.hostWrite o data ep) s = .next s ∧ exec (.hostRead o n) s = .next s) ∧
    (s.hostUp = true → low → s.part? pn = none → ∃ t, exec (.hostWrite o data ep) s = .next t ∧ HostGets s t .unsupported ∧
      ∃ u, exec (.hostRead o n) s = .next u ∧ HostGets s u .unsupported) ∧
    (∀ x, s.hostUp = true → low → s.part? pn = some x →
      let va := x.apbase.toNat * 2 ^ 33 + o % 2 ^ 33
      let off := va % 4096
      (s.schedWaits pn va = true → exec (.hostWrite o data ep) s = .next s ∧ exec (.hostRead o n) s = .next s) ∧
      (s.schedWaits pn va = false →
        (∀ f, s.translateP pn .write va = .error f → ∃ t, exec (.hostWrite o data ep) s = .next t ∧ HostGets s t .unsupported) ∧
        (∀ f, s.translateP pn .read va = .error f → ∃ t, exec (.hostRead o n) s = .next t ∧ HostGets s t .unsupported) ∧
        (∀ l, s.translateP pn .write va = .ok l → s.lostBlock l.pbn = true → ∃ t, exec (.hostWrite o data ep) s = .next t ∧ HostGets s t .unsupported) ∧
        (∀ l i, s.translateP pn .write va = .ok l → s.lostBlock l.pbn = false → s.keyIdent l.key = some i → s.main.wf = true → Sparse.canon 0 s.seals = true →
          data ≠ [] → off + data.length ≤ 4096 →
          let a := 4096 * l.pbn + off
          ∃ t, exec (.hostWrite o data ep) s = .next t ∧ { t with main := s.main, seals := s.seals, free := s.free } = s ∧
            (∀ j < data.length, t.mainByte i (a + j) = data[j]?.getD 0) ∧ (∀ c, ¬(a ≤ c ∧ c < a + data.length) → t.mainByte i c = s.mainByte i c) ∧
            (ep = true → ∀ j < data.length, (a + j) / 8 ∈ t.main.poison)) ∧
        (∀ l i, s.translateP pn .read va = .ok l → s.keyIdent l.key = some i →
          let a := 4096 * l.pbn + off
          ∃ t, exec (.hostRead o n) s = .next t ∧ HostGets s t (.data ((List.range n).map (fun j => s.mainByte i (a + j))) (s.main.poisoned a n || s.lostBlock l.pbn))))) ∧
    (∀ r, s.hostUp = true → o = 2 ^ 40 + r → r % 8 = 0 → data.length = 8 →
      let v : Word := BitVec.ofNat 64 (natOfBytes data)
      let reads := fun (w : Word) => ∃ t, exec (.hostRead o 8) s = .next t ∧ t.hostLog = s.hostLog ++ [.data (bytesOfNat 8 w.toNat) false]
      let writes := fun (i : Instr) => ∃ t u, exec (.hostWrite o data ep) s = .next t ∧ exec i s = .next u ∧ t = u
      (r = 0 → reads (BitVec.ofNat 64 (s.nib.mode.toNat + 256 * s.nib.reason.toNat + 65536 * s.nib.failcnt.toNat))) ∧
      (r = 8 → reads (BitVec.ofNat 64 (s.nib.nom.toNat + 2 ^ 16 * (s.hottest % 256).toNat))) ∧
      (r = 0x10 → reads (if s.host.retrain then 1 else 0) ∧ writes (.registerWrite .retrain v)) ∧
      (∀ ch < 24, r = 0x40 + 8 * ch → reads (BitVec.ofNat 64 ((s.chan ch).state.toNat + 256 * (s.chan ch).temp.toNat + 2 ^ 32 * (s.chan ch).rcnt.toNat))) ∧
      (0x1000 ≤ r → r < 0x2000 → reads (BitVec.ofNat 64 (natOfBytes ((List.range 8).map (fun j => Sparse.get 0 s.nib.mail (r - 0x1000 + j))))) ∧
        (Sparse.canon 0 s.nib.mail = true → ∃ t, exec (.hostWrite o data ep) s = .next t ∧ { t with nib := { t.nib with mail := s.nib.mail, asked := s.nib.asked }, free := s.free } = s ∧
          (∀ j < 8, Sparse.get 0 t.nib.mail (r - 0x1000 + j) = data[j]?.getD 0) ∧ (∀ j, (j < r - 0x1000 ∨ r - 0x1000 + 8 ≤ j) → Sparse.get 0 t.nib.mail j = Sparse.get 0 s.nib.mail j) ∧
          (r = 0x1000 → data[2]? = some 0 → .host ∈ t.nib.asked) ∧ (r ≠ 0x1000 ∨ data[2]? ≠ some 0 → t.nib.asked = s.nib.asked))) ∧
      (∀ d < 4, ∀ b < 16, r = 0x2000 + 1024 * d + 64 * b → reads (s.bank d b)[0] ∧ (v.getLsbD 63 = true → writes (.errorRecordClear d b))) ∧
      (∀ p x, s.nib.mode ≠ 2 → p < 127 → s.part? p = some x → (∀ j < 4,
          (r = 0x10000 + 4096 * p + 8 * j → reads ((x.rbase[j]?.getD 0).setWidth 64) ∧ writes (.rbaseWrite p j v)) ∧
          (r = 0x10020 + 4096 * p + 8 * j → reads ((x.rtail[j]?.getD 0).setWidth 64) ∧ writes (.rtailWrite p j v)) ∧
          (r = 0x10040 + 4096 * p + 8 * j → reads ((x.rhead[j]?.getD 0).setWidth 64))) ∧
        (r = 0x10060 + 4096 * p → reads (BitVec.ofNat 64 (256 * x.en.toNat + x.sz.toNat))) ∧
        (r = 0x10068 + 4096 * p → reads x.seed ∧ writes (.registerWrite (.seed p) v)) ∧
        (r = 0x10070 + 4096 * p → reads (x.age.setWidth 64) ∧ writes (.registerWrite (.age p) v)) ∧
        (r = 0x10078 + 4096 * p → reads (x.seq.setWidth 64)) ∧
        (r = 0x10080 + 4096 * p → reads (BitVec.ofNat 64 (x.rtoken.toNat + 2 ^ 32 * (x.residents % 256) + 2 ^ 48 * x.valid.toNat + 2 ^ 49 * x.rerr.toNat + 2 ^ 50 * x.rerrj.toNat)) ∧
          (v.getLsbD 49 = true → writes (.rerrClear p))) ∧
        (r = 0x10088 + 4096 * p → reads (BitVec.ofNat 64 (2 * x.halt.toNat + x.pen.toNat)) ∧ writes (.registerWrite (.ctl p) v)) ∧
        (r = 0x100000 + 8192 * p → reads (x.osel.setWidth 64) ∧ writes (.registerWrite (.osel p) v)) ∧
        (r = 0x200000 + 8 * p → reads ((x.apbase ++ 0#33 : BitVec 52).setWidth 64) ∧ writes (.registerWrite (.apbase p) v))))

/-- R8, R336, R380, R392, R400, R403: what a write leaves in each register without other behaviour; reserved bits are dropped, TRBASE
and TRSIZE keep their values while tracing is on, and the debugger's registers exist while the port is open for stops. -/
def Claim.HostRegisters : Prop :=
  ∀ (r : HostReg) (v : Word) (s : State),
    (s.hostUp = false → exec (.registerWrite r v) s = .next s) ∧
    (s.hostUp = true → KeysOk s → ∃ t, exec (.registerWrite r v) s = .next t ∧
      (r = .retrain → { t with host := s.host, free := s.free } = s ∧ t.host = { s.host with retrain := v.getLsbD 0 }) ∧
      (r = .aerStatus → { t with host := s.host, free := s.free } = s ∧
        t.host = { s.host with cor := s.host.cor && !v.getLsbD 0, unc := s.host.unc && !v.getLsbD 1 }) ∧
      (r = .aerSeverity → { t with host := s.host, free := s.free } = s ∧ t.host = { s.host with sevFatal := v.getLsbD 0 }) ∧
      (r = .aerMask → { t with host := s.host, free := s.free } = s ∧ t.host = { s.host with maskCor := v.getLsbD 0 }) ∧
      (∀ p x, s.part? p = some x →
        (r = .seed p → PartNow s t p { x with seed := v }) ∧ (r = .age p → PartNow s t p { x with age := v.extractLsb' 0 32 }) ∧
        (r = .en p → PartNow s t p { x with en := v.getLsbD 8 }) ∧ (r = .ctl p → PartNow s t p { x with pen := v.getLsbD 0, halt := v.getLsbD 1 }) ∧
        (r = .osel p → PartNow s t p { x with osel := v.extractLsb' 0 9 }) ∧ (r = .apbase p → PartNow s t p { x with apbase := v.extractLsb' 33 19 }) ∧
        (r = .trbase p → PartNow s t p (if x.tren then x else { x with trbase := v.extractLsb' 0 40 })) ∧
        (r = .trctl p → t.part? p = some { x with tren := v.getLsbD 0, trmask := v.extractLsb' 1 13, trsize := if x.tren then x.trsize else v.extractLsb' 16 16 } ∧
          ∀ d ∈ s.diesOf x, v.getLsbD 0 = true → x.tren = false → ((t.die d).ring p).mark = true) ∧
        (∀ c, (s.members x)[x.osel.toNat]? = some c →
          (r = .blctl p → ∀ k, t.coreAt k = if k = c then { s.coreAt c with obs := { (s.coreAt c).obs with ben := v.getLsbD 0, btrig := v.extractLsb' 2 6 } } else s.coreAt k) ∧
          (r = .wdog p → ∀ k, t.coreAt k = if k = c then { s.coreAt c with obs := { (s.coreAt c).obs with wdog := v.extractLsb' 0 32 } } else s.coreAt k))) ∧
      (∀ p, ∀ d < 4, r = .trtail p d → (t.die d).ring p = { (s.die d).ring p with tail := v.extractLsb' 0 32 } ∧ { t with dies := s.dies, free := s.free } = s) ∧
      (let put := fun (c : Nat) (f : Obs → Obs) => ∀ k, t.coreAt k = if k = c ∧ s.stopsOpen = true then { s.coreAt c with obs := f (s.coreAt c).obs } else s.coreAt k
       (∀ c, r = .bpc c → put c (fun o => { o with bpc := if v.getLsbD 14 then some (v.extractLsb' 0 14) else none })) ∧
       (∀ c e, r = .bpn c e → put c (fun o => { o with bpn := o.bpn.setIfInBounds (engIdx e) (if v = 0 then none else some v.toNat) })) ∧
       (∀ c, r = .dtick c → put c (fun o => { o with dtick := if v = 0 then none else some v }))))

/-- Host accesses and registers. Rests on choices of the model: log entry 31. -/
def Obligations.HostPort : Prop :=
  Claim.HostAccesses ∧ Claim.HostRegisters

/-- R383-R385, R389-R391: a watchdog that reaches WDOG raises KIND 0x0F and starts again, freezing the blotter where its trigger is
enabled; 1 written to FROZEN resumes a blotter; a ring whose last mark is 2^20 ticks old takes a clock mark of TICK, nominal
frequency and reference count, or, where it takes no record, counts it as lost. -/
def Claim.Observes : Prop :=
  ∀ (c p d : Nat) (s : State),
    let u := s.focus c
    let o := u.core.obs
    let due := o.wdog ≠ 0 ∧ o.wdog.toNat ≤ o.wdogCnt
    (¬due → exec (.watchdogExpiry c) s = .next s) ∧
    (due → u.myDie < 4 → ∃ t, exec (.watchdogExpiry c) s = .next t ∧ { t.core with obs := o } = u.core ∧ t.core.obs.wdogCnt = 0 ∧
      (o.btrig.getLsbD 2 = true → t.core.obs.bfrozen = true) ∧ MemorySame u t ∧
      BankTook u t u.myDie (u.here % 128 / 16) (u.coreEvent 0x0F 0x08 0 0 .seq 0 0)) ∧
    (¬(u.hostUp = true ∧ o.bfrozen = true) → exec (.blotterUnfreeze c) s = .next s) ∧
    (u.hostUp = true → o.bfrozen = true → ∃ t, exec (.blotterUnfreeze c) s = .next t ∧ OutsideSame u t ∧
      t.core = { u.core with obs := { o with bfrozen := false } }) ∧
    (let r := (s.die d).ring p
     let need := fun (x : Part) => x.tren = true ∧ d < 4 ∧ s.membersOn x d ≠ [] ∧ 2 ^ 20 ≤ r.sinceMark
     (s.part? p = none → exec (.clockMark p d) s = .next s) ∧
     ∀ x, s.part? p = some x → (¬need x → exec (.clockMark p d) s = .next s) ∧
       (need x → ∃ t q, exec (.clockMark p d) s = .next t ∧ q = (t.die d).ring p ∧ q.sinceMark = 0 ∧ q.tail = r.tail ∧ q.pend = r.pend ∧
         { t with dies := s.dies, main := s.main, seals := s.seals, free := s.free } = s ∧
         (∀ e : Fin 4, { t.dies[e] with rings := s.dies[e].rings } = s.dies[e]) ∧
         (q.head = r.head → t.main = s.main ∧ q.mark = true ∧ q.lost = r.lost + 1) ∧
         (q.head ≠ r.head → q.head = r.head + 1 ∧ q.mark = false ∧ q.last = (s.die d).tick ∧ q.lost = r.lost ∧ ∃ l i, s.keyIdent l.key = some i ∧
           let cap := (x.trsize.toNat + 1) * 256
           let va := 4096 * (x.trbase.toNat + d * (x.trsize.toNat + 1)) + 16 * (r.head.toNat % cap)
           s.translateP p .write va = .ok l ∧ (r.head - r.tail).toNat < cap ∧
           let w := 0xF * 2 ^ 124 + (s.die d).tick.toNat % 2 ^ 60 * 2 ^ 64 + s.nib.nom.toNat * 2 ^ 48 + s.refCount.toNat
           (s.main.wf = true → Sparse.canon 0 s.seals = true → ∀ j < 16, t.mainByte i (4096 * l.pbn + va % 4096 + j) = BitVec.ofNat 8 (w / 256 ^ j)))))

/-- R379-R382, R384: a debug stop whose trigger holds stops the core with the lowest code among those that hold and a cut of where every
stream stands; RUN lets it go on, STEP for n cycles, after which it stops with code 0; a debugger's write to a stopped and settled core
takes effect at once. All of it only while the port is open for it. -/
def Claim.DebugStops : Prop :=
  ∀ (c code n : Nat) (s : State),
    let u := s.focus c
    let k := u.core
    let o := k.obs
    let hit := fun (code : Nat) => if code = 0 then True
      else if code = 1 then o.bpc = some k.seq.pc ∧ k.aboutToIssue = true
      else if code = 2 then ∃ e ∈ engines, k.countHit e = true
      else if code = 3 then ∃ x, o.dtick = some x ∧ x ≤ u.tick
      else if code = 4 then o.entryStop = false ∧ (k.trapReady = true ∧ k.seq.draining = true ∨ k.preemptDrained = true ∨ u.lateReady = true)
      else code = 5 ∧ o.hit = true
    let stops := fun (t : State) (n : Nat) => TraceOnly u t ∧ MemorySame u t ∧ { t.core with obs := o } = k ∧ t.core.obs.stopped = true ∧ t.core.obs.code = BitVec.ofNat 3 n ∧
      t.core.obs.steps = none ∧ (o.btrig.getLsbD 5 = true → t.core.obs.bfrozen = true) ∧
      (let w := t.core.obs.cut
       w[0].toNat = k.seq.pc.toNat + 2 ^ 14 * k.seq.sup.toNat + 2 ^ 15 * k.settled.toNat + 2 ^ 16 * (n % 8) + 2 ^ 19 * k.seq.bank.depth.toNat ∧
       w[1] = k.seq.scyc ∧ w[2] = u.tick ∧ ∀ e ∈ engines, w[3 + engIdx e]?.map BitVec.toNat =
         some ((k.eng e).ret % 2 ^ 32 * 2 ^ 32 + (match (k.eng e).run with
           | some r => r.entry.secno.toNat * 2 ^ 20 + r.next % 2 ^ 12 * 2 ^ 8
           | none => 0xFFF * 2 ^ 20) + (k.eng e).queue.length % 32 * 8))
    (¬(Sys2Proof.Machine.DebugStops u ∧ o.stopped = false ∧ hit code) → exec (.debugStop c code) s = .next s) ∧
    (Sys2Proof.Machine.DebugStops u → o.stopped = false → hit code → ∃ t m, exec (.debugStop c code) s = .next t ∧ stops t m ∧ m ≤ code ∧ hit m ∧ ∀ j, 1 ≤ j → j < m → ¬hit j) ∧
    (¬(Sys2Proof.Machine.DebugStops u ∧ o.stopped = true) → exec (.debugRun c) s = .next s ∧ exec (.debugStep c n) s = .next s) ∧
    (Sys2Proof.Machine.DebugStops u → o.stopped = true →
      (∃ t, exec (.debugRun c) s = .next t ∧ OutsideSame u t ∧ t.core = { k with obs := { o with stopped := false, steps := none } }) ∧
      (1 ≤ n → n ≤ 65535 → ∃ t, exec (.debugStep c n) s = .next t ∧ OutsideSame u t ∧ t.core = { k with obs := { o with stopped := false, steps := some n } }) ∧
      (n = 0 ∨ 65535 < n → exec (.debugStep c n) s = .next s)) ∧
    (¬(o.steps = some 0 ∧ o.stopped = false) → exec (.stepEnd c) s = .next s) ∧
    (o.steps = some 0 → o.stopped = false → ∃ t, exec (.stepEnd c) s = .next t ∧ stops t 0) ∧
    (let may := u.nib.debugOpen = true ∧ u.nib.scope.getLsbD 2 = true ∧ o.stopped = true ∧ k.x.flight = [] ∧ k.mat.loads = [] ∧ k.mat.feeds = []
     ∀ (w : DbgTarget) (v : BitVec 4096), (¬may → exec (.debugWrite c w v) s = .next s) ∧
       (may → ∃ t, exec (.debugWrite c w v) s = .next t ∧ OutsideSame u t ∧
         let j := t.core
         let same := fun (f : Core → Core) => { f j with badReg := k.badReg } = k
         let bank := k.seq.bank
         (∀ i, w = .sreg i → same (fun j => { j with seq := k.seq }) ∧ ∀ r, j.seq.bank.get r = if r = i ∧ r ≠ 0 then v.setWidth 64 else bank.get r) ∧
         (∀ i, w = .pred i → same (fun j => { j with seq := k.seq }) ∧ ∀ r, j.seq.bank.pred r = if r = i then v.getLsbD 0 else bank.pred r) ∧
         (∀ i, w = .loop i → same (fun j => { j with seq := k.seq }) ∧ ∀ r : Fin 4, j.seq.bank.lc[r] = (if r.val = i.toNat then v.extractLsb' 0 32 else bank.lc[r]) ∧
           j.seq.bank.lstart[r] = (if r.val = i.toNat then v.extractLsb' 32 14 else bank.lstart[r]) ∧
           j.seq.bank.lend[r] = if r.val = i.toNat then v.extractLsb' 48 14 else bank.lend[r]) ∧
         (∀ i, w = .vreg i → same (fun j => { j with vec := { j.vec with v := k.vec.v } }) ∧ ∀ r : Fin 64, j.vec.v[r] = if r.val = i.toNat then v else k.vec.v[r]) ∧
         (∀ i, w = .mask i → same (fun j => { j with vec := { j.vec with m := k.vec.m } }) ∧ ∀ r : Fin 8, j.vec.m[r] = if r.val = i.toNat then v.setWidth 256 else k.vec.m[r]) ∧
         (∀ i, w = .shape i → same (fun j => { j with vec := { j.vec with sh := k.vec.sh } }) ∧ ∀ r : Fin 16, (r.val ≠ i.toNat → j.vec.sh[r] = k.vec.sh[r]) ∧
           (r.val = i.toNat → ∀ b < 512, (shapeHole b → j.vec.sh[r].getLsbD b = false) ∧ (¬shapeHole b → j.vec.sh[r].getLsbD b = v.getLsbD b))) ∧
         (∀ i, w = .quill i → same (fun j => { j with vec := { j.vec with q := k.vec.q } }) ∧
           ∀ r : Fin 16, j.vec.q[r] = if r.val = i.toNat then { dir := v.setWidth 2048, norm := v.extractLsb' 2048 24 } else k.vec.q[r]) ∧
         (∀ b m x, w = .cell b m x → Sparse.canon 0 k.mat.cells = true → same (fun j => { j with mat := { j.mat with cells := k.mat.cells, bad := k.mat.bad } }) ∧
           ∀ d y z, y < 128 → z < 128 → cellAt j d y z = if d = b ∧ y = m.toNat ∧ z = x.toNat then v.setWidth 64 else cellAt k d y z) ∧
         (w = .vflg → same (fun j => { j with vec := { j.vec with flg := k.vec.flg } }) ∧ j.vec.flg = v.setWidth 32) ∧
         (∀ b, w = .tflg b → same (fun j => { j with mat := { j.mat with flg := k.mat.flg } }) ∧ ∀ r : Fin 2, j.mat.flg[r] = if r.val = b.toNat then v.setWidth 64 else k.mat.flg[r]) ∧
         (∀ a, w = .nearByte a → k.near.wf = true → same (fun j => { j with near := k.near }) ∧ ∀ b, j.near.byte b = if b = a.toNat then v.setWidth 8 else k.near.byte b)))

/-- Watchdog, blotter, clock marks and debug stops. Rests on choices of the model: log entries 28, 35, 53. -/
def Obligations.ObservationAndDebug : Prop :=
  Claim.Observes ∧ Claim.DebugStops

/-- R390, R393-R395: a change of the nominal frequency, to one of its values, is planned for one reference count, and takes effect on every
die at once; a stretched cycle changes nothing but a clock; steering lowers the nominal by 25 MHz at 100 °C or more, at most once in
100 ms, raises it after a second below 92 °C, and at 115 °C stops every clock. -/
def Claim.ClocksSteer : Prop :=
  ∀ (mhz d : Nat) (s : State),
    let up := s.nib.power = true ∧ s.nib.off = false
    let nominal := mhz = 500 ∨ (1000 ≤ mhz ∧ mhz ≤ 1500 ∧ mhz % 25 = 0)
    let nom := s.nib.nom.toNat
    let steady := s.nib.newNom = none
    let lower := up ∧ s.nib.mode = 1 ∧ 1000 < nom ∧ steady ∧ ∀ x, s.nib.lowAt = some x → 10 ^ 7 ≤ (s.refCount - x).toNat
    let higher := up ∧ s.nib.mode = 1 ∧ nom < 1500 ∧ steady ∧ ∃ x, s.nib.coolAt = some x ∧ 10 ^ 8 ≤ (s.refCount - x).toNat
    (¬(nominal ∧ up ∧ steady) → exec (.frequencyChange mhz) s = .next s) ∧
    (nominal → up → steady → ∃ t, exec (.frequencyChange mhz) s = .next t ∧ NominalPlanned s t mhz ∧ t.dies = s.dies ∧ t.nib.lowAt = s.nib.lowAt ∧
      t.nib.coolAt = s.nib.coolAt) ∧
    (∀ x m, up → s.script = [] → s.nib.newNom = some (x, m) → (s.refCount - x).toNat < 2 ^ 47 → (∀ e ∈ s.cores, (s.focus e.1).coreDue = none) →
      ∃ t, step s = .next t ∧ NominalNow s t m.toNat) ∧
    (4 ≤ d → exec (.clockStretch d) s = .next s) ∧
    (d < 4 → ∃ t, exec (.clockStretch d) s = .next t ∧ { t with dies := s.dies, free := s.free } = s ∧ 0 < (t.die d).stretch ∧
      (∀ e < 4, { t.die e with stretch := (s.die e).stretch } = s.die e) ∧ ∀ e < 4, e ≠ d → t.die e = s.die e) ∧
    (¬lower → exec .thermalLower s = .next s) ∧
    (lower → ∃ t, exec .thermalLower s = .next t ∧ NominalPlanned s t (nom - 25) ∧ t.nib.lowAt = some s.refCount ∧ ∃ e : Fin 4, 100 ≤ t.dies[e].hot ∧ t.dies[e].hot < 115) ∧
    (¬higher → exec .thermalRaise s = .next s) ∧
    (higher → ∃ t, exec .thermalRaise s = .next t ∧ NominalPlanned s t (nom + 25) ∧ t.nib.lowAt = s.nib.lowAt ∧ t.nib.coolAt = some s.refCount ∧
      ∀ e : Fin 4, t.dies[e].hot < 92) ∧
    (¬up → exec .thermalStop s = .next s) ∧
    (up → ∃ t, exec .thermalStop s = .next t ∧ t.nib.off = true ∧ t.host = { s.host with link := false } ∧ t.hostLog = s.hostLog ++ [.linkDown] ∧
      t.core = s.core ∧ t.others = s.others ∧ t.main = s.main ∧ (∃ e : Fin 4, 115 ≤ t.dies[e].hot) ∧ t.nib.reason = 0x0A)

/-- R352, R398-R400: a lane group that triggers in-band is retrained while the other carries the traffic, with a record at entry and at
exit, a second group after it; drain-only, the channel waits until no launch uses it, ten seconds at most before new ones are
held. A retraining that fails leaves the channel on its good group until the next boot, or, where it has none, fails the channel; so
does a failure with none under way. -/
def Claim.ChannelsRetrain : Prop :=
  ∀ (ch grp : Nat) (s : State),
    let c := s.chan ch
    let inBand := s.host.retrainBoot = false ∧ (c.state = 4 ∨ c.group ≠ none)
    let used := ∃ e ∈ s.parts, e.2.valid = true ∧ ∃ i ∈ e.2.desc.chanEntries, i / 512 = ch
    let carries := s.chanActive ch = true ∧ 4 ≤ c.state.toNat ∧ c.state.toNat ≤ 6
    let works := ch < 24 ∧ grp < 2 ∧ carries
    let other : Nat → BitVec 3 := fun g => if g = 0 then 6 else 5
    let took := fun (u t : State) (k : BitVec 8) => ReportsOnly u t ∧ BankTook u t (ch / 6) (8 + ch % 6) (plainEvent k 0x21 127 0 0)
    let good := fun (g : Nat) => ∃ t, exec (.retrainExit ch false) s = .next t ∧
      ChannelNow s t ch { c with state := other g, group := none, next := none, expired := false, half := true }
    let failed := ∃ t u, exec (.retrainExit ch false) s = .next t ∧
      ChannelNow s u ch { c with state := 7, group := none, next := none, waiting := false, expired := false } ∧
      took { u with nib := { u.nib with lostChans := ch :: u.nib.lostChans } } t 0x07
    (¬works → exec (.retrainEntry ch grp) s = .next s) ∧
    (works → inBand → c.group = none → ∃ t u, exec (.retrainEntry ch grp) s = .next t ∧
      ChannelNow s u ch { c with state := other grp, group := some grp, next := none, rcnt := c.rcnt + 1 } ∧ took u t 0x15) ∧
    (∀ g, works → inBand → c.group = some g → g ≠ grp → c.next ≠ some grp → ∃ t, exec (.retrainEntry ch grp) s = .next t ∧
      ChannelNow s t ch { c with next := some grp }) ∧
    (∀ g, works → inBand → c.group = some g → (g = grp ∨ c.next = some grp) → exec (.retrainEntry ch grp) s = .next s) ∧
    (works → ¬inBand → c.waiting = true → ¬used → ∃ t, exec (.retrainEntry ch grp) s = .next t ∧
      ChannelNow s t ch { c with state := 3, group := if c.half then some (if c.state = 5 then 1 else 0) else c.next, next := none, waiting := false }) ∧
    (works → ¬inBand → c.waiting = true → used → exec (.retrainEntry ch grp) s = .next s) ∧
    (works → ¬inBand → c.waiting = false → ∃ t, exec (.retrainEntry ch grp) s = .next t ∧
      ChannelNow s t ch { c with waiting := true, since := s.refCount, next := some grp }) ∧
    (c.group = none → exec (.retrainExit ch true) s = .next s) ∧ (c.group = none → ¬carries → exec (.retrainExit ch false) s = .next s) ∧
    (ch < 24 → c.group = none → carries → failed) ∧
    (∀ g, ch < 24 → c.group = some g →
      (∃ t u, exec (.retrainExit ch true) s = .next t ∧ ChannelNow s u ch { c with state := if c.half then other g else 4, group := none, expired := false } ∧
        (c.state ≠ 3 → took u t 0x15) ∧ (c.state = 3 → { t with free := u.free } = u)) ∧
      (c.state ≠ 3 → good g) ∧ (c.state = 3 → good g ∨ failed)) ∧
    (let late := c.waiting = true ∧ c.expired = false ∧ 10 ^ 9 ≤ (s.refCount - c.since).toNat
     (¬late → exec (.retrainWaitExpiry ch) s = .next s) ∧
     (late → ch < 24 → ∃ t, exec (.retrainWaitExpiry ch) s = .next t ∧ ChannelNow s t ch { c with expired := true }))

/-- Clocks, temperature and channel retraining. Rests on choices of the model: log entries 30, 60, 71. -/
def Obligations.ClocksAndChannels : Prop :=
  Claim.ClocksSteer ∧ Claim.ChannelsRetrain

/-- R405, R407, R408, R411: with the supply good a part starts: what is volatile is lost and the measurements are zero. A part whose
failed-start count stood at 3 enters chrysalis mode; else the count rises, mh0 measures the ROM, and the images are checked in
order: a bad one fails the start with its reason, good ones are measured into mh1 and mh2 and warming begins. -/
def Claim.PartStarts : Prop :=
  ∀ (im : BootImages) (s : State),
    let n := s.nib
    let ev := exec (.powerOn im) s
    let ext := fun (m : BitVec 256) (d : BitVec 256) => Config.sha256 (bytesOfNat 32 m.toNat ++ bytesOfNat 32 d.toNat)
    let rom := ext 0 (Config.sha256 (n.romVersion ++ bytesOfNat 4 s.fuses.lifecycle.toNat))
    let word := fun (l : List Byte) (i : Nat) => natOfBytes ((l.drop i).take 4)
    let signed := fun (typ : Nat) (l : List Byte) => 64 + word l 8 + 3284 ≤ l.length ∧ word l 0 = typ ∧ (∀ b ∈ (l.drop 12).take 52, b = 0) ∧
      Config.hssVerify s.fuses.imageKey (l.take (64 + word l 8)) ((l.drop (64 + word l 8)).take 3284) = true
    let fault : BitVec 8 → Prop := fun w =>
      (¬signed 1 im.nibPatch ∧ w = 1) ∨ (signed 1 im.nibPatch ∧ word im.nibPatch 4 < s.fuses.minVersion.toNat ∧ w = 3) ∨
      (signed 1 im.nibPatch ∧ s.fuses.minVersion.toNat ≤ word im.nibPatch 4 ∧ ¬signed 2 im.folio ∧ w = 2) ∨
      (signed 1 im.nibPatch ∧ s.fuses.minVersion.toNat ≤ word im.nibPatch 4 ∧ signed 2 im.folio ∧ word im.folio 4 < s.fuses.minVersion.toNat ∧ w = 3)
    let kept := fun (t : State) => Volatile s t ∧ t.main = Store.empty ∧ t.nib.debugOpen = false ∧ t.nib.scope = 0 ∧ t.nib.counter = n.counter ∧
      t.nib.pkgId = n.pkgId ∧ t.nib.images = im ∧ t.hostLog = s.hostLog ++ [.linkUp] ∧ ∀ i : Fin 8, 3 ≤ i.val → t.nib.mh[i] = 0
    let counted := fun (t : State) => t.nib.failcnt = n.failcnt + 1 ∧ t.nib.boots = n.boots + 1 ∧ t.nib.mh[0] = rom ∧ t.nib.mode = 0
    (n.power = true → n.stage ≠ 1 → ev = .next s) ∧
    (n.power = false ∨ n.stage = 1 →
      (n.failcnt = 3 → ∃ t, ev = .next t ∧ kept t ∧ t.nib.mode = 2 ∧ t.nib.stage = 0 ∧ t.nib.failcnt = 3 ∧ t.nib.mh[0] = 0) ∧
      (n.failcnt ≠ 3 → ∃ t, ev = .next t ∧ kept t ∧ counted t ∧ (∀ w, fault w → t.nib.stage = 0 ∧ t.nib.reason = w ∧ t.nib.mh[1] = 0) ∧
       ((∀ w, ¬fault w) → t.nib.stage = 3 ∧ t.nib.nom = 500 ∧ t.nib.reason = n.reason ∧
        t.nib.mh[1] = ext 0 (Config.sha256 im.nibPatch) ∧ t.nib.mh[2] = ext 0 (Config.sha256 im.folio) ∧
        t.nib.version[0].toNat = word im.nibPatch 4 ∧ t.nib.version[1].toNat = word im.folio 4 ∧
        (∀ d : Fin 4, t.dies[d].warm = decide (-10 ≤ t.dies[d].hot)) ∧
        ∀ ch : Fin 24, t.chans[ch].state = if s.fuses.chanOff ch.val = true then 0 else 1)))

/-- R352, R394, R396, R398, R405, R408, R411: dies heat to -10 °C, modules pass POWER and WARM to 0 °C; self-test then fixes what is
excluded for the boot, with what failed in service; without die 0 or any channel the start fails, else 1,000 MHz is planned; at 0 °C on
every die 1,500 MHz and the measurement of mh3; when Folio is ready the part is in MODE 1 with its failed-start count cleared. A start
that fails keeps why. -/
def Claim.StartStages : Prop :=
  ∀ (d ch : Nat) (f : Findings) (why : BitVec 8) (s : State),
    let n := s.nib
    let warms := n.stage = 3 ∧ d < 4 ∧ (s.die d).warm = false
    let m := s.chan ch
    let heats := n.stage = 3 ∧ ch < 24 ∧ (m.state = 1 ∨ m.state = 2)
    let ready := n.stage = 3 ∧ (∀ e : Fin 4, s.dies[e].warm = true) ∧ ∀ c : Fin 24, s.chans[c].state ≠ 1 ∧ s.chans[c].state ≠ 2
    let dead := fun (e : Nat) => ∃ l ∈ f.badSidebands ++ n.lostLinks, max l.1 l.2 = e
    let okCore := fun (c : Nat) => c < 512 ∧ s.fuses.quadOff (c / 4) = false ∧ c ∉ f.cores ∧ ¬dead (c / 128)
    let okChan := fun (c : Nat) => c < 24 ∧ s.fuses.chanOff c = false ∧ c ∉ f.badChans ++ n.lostChans ∧ ¬dead (c / 6)
    let plans := fun (t : State) (mhz : Nat) => ∃ n, 10000 ≤ n ∧ n < 2 ^ 16 ∧ t.nib.newNom = some (s.refCount + BitVec.ofNat 48 n, BitVec.ofNat 16 mhz)
    let starting := n.power = true ∧ n.off = false ∧ n.mode = 0 ∧ n.stage ≠ 0
    (¬warms → exec (.dieWarm d) s = .next s) ∧
    (warms → ∃ t, exec (.dieWarm d) s = .next t ∧ { t with dies := s.dies, free := s.free } = s ∧ (t.die d).warm = true ∧ (t.die d).hot = -10 ∧
      ∀ e < 4, { t.die e with warm := (s.die e).warm, hot := (s.die e).hot } = s.die e ∧ (e ≠ d → t.die e = s.die e)) ∧
    (¬heats → exec (.moduleWarm ch) s = .next s) ∧
    (heats → ∃ t, exec (.moduleWarm ch) s = .next t ∧ ChannelNow s t ch
      (if m.state = 1 ∧ m.temp.toInt < 0 then { m with state := 2 } else { m with temp := BitVec.ofInt 8 (max 0 m.temp.toInt), state := 3 })) ∧
    (¬ready → exec (.selfTest f) s = .next s) ∧
    (ready → ∃ t, exec (.selfTest f) s = .next t ∧ (∀ c, t.usable c = true ↔ okCore c) ∧ (∀ c, t.chanActive c = true ↔ okChan c) ∧
      t.halfLinks = f.halfLinks ∧ t.parts = s.parts ∧ ((∀ c, okChan c ↔ s.chanActive c = true) → t.main = s.main ∧ t.seals = s.seals) ∧
      (∀ c : Fin 24, (s.fuses.chanOff c.val = true → t.chans[c].state = 0) ∧
        (s.fuses.chanOff c.val = false → (c.val ∈ f.badChans ++ n.lostChans ∨ dead (c.val / 6)) → t.chans[c].state = 7) ∧
        (okChan c.val → c.val ∈ f.halfChans → t.chans[c].state = 5 ∨ t.chans[c].state = 6) ∧ (okChan c.val → c.val ∉ f.halfChans → t.chans[c].state = 4)) ∧
      ((∀ c < 128, ¬okCore c) ∨ (∀ c, ¬okChan c) → t.nib = { n with reason := 0x06, stage := 0, lostLinks := [], lostChans := [] }) ∧
      ((∃ c < 128, okCore c) → (∃ c, okChan c) → plans t 1000 ∧ t.nib = { n with newNom := t.nib.newNom, stage := 6, lostLinks := [], lostChans := [] })) ∧
    (¬(n.stage = 6 ∧ n.nom = 1000 ∧ n.newNom = none) → exec .dieReadsZeroCelsius s = .next s) ∧
    (n.stage = 6 → n.nom = 1000 → n.newNom = none → ∃ t, exec .dieReadsZeroCelsius s = .next t ∧ plans t 1500 ∧
      t.nib = { n with newNom := t.nib.newNom, mh := t.nib.mh } ∧
      (∀ e : Fin 4, t.dies[e].hot = max 0 s.dies[e].hot) ∧ (∀ i : Fin 8, i.val ≠ 3 → t.nib.mh[i] = n.mh[i]) ∧
      t.nib.mh[3] = Config.sha256 (bytesOfNat 32 n.mh[3].toNat ++ bytesOfNat 32
        (Config.sha256 (Config.resourceMap (s.fuses.cores ++ s.exclCores) (s.fuses.chans ++ s.exclChans) s.fuses.grade)).toNat)) ∧
    (¬(n.stage = 7 ∧ n.mode = 0) → exec .startReady s = .next s) ∧
    (n.stage = 7 → n.mode = 0 → ∃ t, exec .startReady s = .next t ∧ { t with nib := n, free := s.free } = s ∧ t.nib = { n with mode := 1, failcnt := 0, coolAt := some s.refCount }) ∧
    (¬starting → exec (.startFail why) s = .next s) ∧
    (starting → ∃ t, exec (.startFail why) s = .next t ∧ { t with nib := n, free := s.free } = s ∧ t.nib = { n with reason := why, stage := 0 })

/-- R377, R395, R408: losing the supply cuts a start off and takes the link; a reset of the part loses what is volatile but TICK, the
reference count and the modules' contents, and starts again from the flash; a function-level reset and a link recovery change
nothing inside the package. -/
def Claim.PartResets : Prop :=
  ∀ s : State,
    let n := s.nib
    let up := n.power = true ∧ n.off = false
    let starting := up ∧ n.mode = 0 ∧ n.stage ≠ 0
    (n.power = false → exec .powerLoss s = .next s) ∧
    (n.power = true → ∃ t, exec .powerLoss s = .next t ∧ { t with nib := n, host := s.host, hostLog := s.hostLog, free := s.free } = s ∧
      t.host = { s.host with link := false } ∧ t.hostLog = s.hostLog ++ [.linkDown] ∧
      (starting → t.nib = { n with power := false, reason := 0x09, stage := 0 }) ∧ (¬starting → t.nib = { n with power := false })) ∧
    (¬up → exec .partReset s = .next s ∧ exec .hostLinkRecovery s = .next s) ∧
    (up → ∃ t, exec .partReset s = .next t ∧ Volatile s t ∧ t.main = s.main ∧ t.seals = s.seals ∧ t.refCount = s.refCount ∧ t.hostLog = s.hostLog ∧
      (∀ d : Fin 4, t.dies[d].tick = s.dies[d].tick ∧ t.dies[d].rels = [] ∧ t.dies[d].recovery = []) ∧ t.nib.images = n.images ∧ t.nib.debugOpen = n.debugOpen ∧ t.nib.scope = n.scope ∧
      (n.failcnt = 3 → t.nib.mode = 2 ∧ t.nib.failcnt = 3) ∧ (n.failcnt ≠ 3 → t.nib.mode = 0 ∧ t.nib.failcnt = n.failcnt + 1)) ∧
    (up → ∃ t, exec .hostLinkRecovery s = .next t ∧ { t with host := s.host, hostLog := s.hostLog, free := s.free } = s ∧
      t.host = { s.host with link := true } ∧ t.hostLog = s.hostLog ++ [.linkDown, .linkUp]) ∧
    (s.hostUp = false → exec .functionLevelReset s = .next s) ∧
    (s.hostUp = true → ∃ t, exec .functionLevelReset s = .next t ∧ { t with host := s.host, free := s.free } = s ∧
      t.host = { s.host with cor := false, unc := false, sevFatal := false, maskCor := false, sent := Vector.replicate 3 none })

/-- Power-on, the stages of a start, and resets. Rests on choices of the model: log entries 6, 10, 32, 61. -/
def Obligations.PartStarts : Prop :=
  Claim.PartStarts ∧ Claim.StartStages ∧ Claim.PartResets

/-- R409-R412, R416, R417: Nib takes the oldest block asked for whose STATUS is 0x00, and answers each command over its route: its
CMD and tag, STATUS 0x02 with the reply or 0x03 with a reason; a command not for its route or mode, or unknown, is refused. -/
def Claim.NibAnswers : Prop :=
  ∀ (r : Route) (s : State),
    let n := s.nib
    let up := n.power = true ∧ n.off = false ∧ n.stage ≠ 1
    let known : List Nat := [1, 2, 3, 4, 5, 0x10, 0x11, 0x12, 0x20, 0x21]
    (n.cmd = none → n.asked.head? ≠ some r → exec (.mailboxTake r) s = .next s) ∧ (¬up → exec (.mailboxTake r) s = .next s) ∧
    (∀ b, up → s.routeWaits r = false → n.cmd = none → n.asked.head? = some r → s.routeBlock r = some b →
      (b[2]? ≠ some 0 → ∃ t, exec (.mailboxTake r) s = .next t ∧ { t with nib := n, free := s.free } = s ∧ t.nib = { n with asked := n.asked.drop 1 }) ∧
      (b[2]? = some 0 → ∃ t, exec (.mailboxTake r) s = .next t ∧ t.nib.cmd = some { route := r, block := b } ∧ t.nib.asked = n.asked.drop 1 ∧ t.core = s.core ∧
        (r = .host → ∀ i < 4096, Sparse.get 0 t.nib.mail i = if i = 2 then 1 else Sparse.get 0 n.mail i))) ∧
    ∀ c, n.cmd = some c → c.route = r → s.routeWaits r = false → up →
      let k := natOfBytes (c.block.take 2)
      let at_ := fun (i l : Nat) => (c.block.drop i).take l
      let num := fun (i l : Nat) => natOfBytes (at_ i l)
      let answers := fun (t : State) (st : Byte) (reply : List Byte) => t.nib.cmd = none ∧
        (r = .host → c.block.length = 4096 → reply.length ≤ 4088 → (∀ i < 4096, Sparse.get 0 t.nib.mail i =
          if i < 2 ∨ (4 ≤ i ∧ i < 8) then c.block[i]?.getD 0 else if i = 2 then st else if i = 3 then 0 else reply[i - 8]?.getD 0))
      let tells := fun (i : Instr) (st : Byte) (reply : List Byte) => ∃ t, exec i s = .next t ∧ answers t st reply ∧
        (r = .host → { t with nib := n, free := s.free } = s ∧ { t.nib with mail := n.mail, cmd := n.cmd } = n)
      let refuses := fun (i : Instr) (w : Nat) => tells i 0x03 (bytesOfNat 4 w)
      let barred : Option Nat := if r ≠ .host ∧ 5 ≤ k then some 2 else if n.mode = 2 ∧ k ∉ [1, 2, 0x20, 0x21] then some 7 else if n.mode ≠ 2 ∧ k = 0x20 then some 7 else none
      let ofCode := fun (k : Nat) => if k = 1 then some Instr.nibInfo else if k = 2 then some .nibNonce else if k = 3 then some .nibQuote else if k = 5 then some .nibExtend
        else if k = 0x10 then some .nibPartset else if k = 0x11 then some .nibKeygen else if k = 0x12 then some .nibKeyclr else if k = 0x20 then some .nibRecover
        else if k = 0x21 then some .nibClrfail else none
      let changes := fun (i : Instr) (reply : List Byte) (same : State → Prop) => ∃ t, exec i s = .next t ∧ answers t 0x02 reply ∧ (r = .host → same t)
      (k ∉ known → refuses (.mailboxTake r) 1) ∧
      (∀ i w, ofCode k = some i → barred = some w → refuses i w) ∧
      (∀ i j, ofCode k = some i → ofCode j ≠ none → j ≠ k → ∀ e, ofCode j = some e → exec e s = .next s) ∧
      (k = 1 → barred = none → tells .nibInfo 0x02 (bytesOfNat 16 s.fuses.device.toNat ++ bytesOfNat 4 s.fuses.lifecycle.toNat ++ bytesOfNat 4 s.fuses.grade ++
        bytesOfNat 4 n.version[0].toNat ++ bytesOfNat 4 n.version[1].toNat ++ bytesOfNat 8 n.boots.toNat ++
        bytesOfNat 8 (n.mode.toNat + 256 * n.reason.toNat + 65536 * n.failcnt.toNat))) ∧
      (k = 2 → barred = none → ∃ (v : BitVec 256) (t : State), exec .nibNonce s = .next t ∧ answers t 0x02 (bytesOfNat 32 v.toNat) ∧
        (r = .host → t.nib.hostNonce = some v) ∧ ∀ p, r = .part p → Sparse.find t.nib.partNonce p = some v) ∧
      (k = 3 → barred = none →
        let p := num 40 1
        let no : Option Nat := if p ≠ 0x7F ∧ (126 < p ∨ s.part? p = none) then some 3 else if r ≠ .host ∧ p ≠ 0x7F ∧ r ≠ .part p then some 2
          else if 2 ^ 30 ≤ n.counter.toNat then some 6 else none
        (∀ w, no = some w → refuses .nibQuote w) ∧
        (no = none →
          let body := bytesOfNat 4 1 ++ bytesOfNat 16 s.fuses.device.toNat ++ bytesOfNat 4 s.fuses.lifecycle.toNat ++ bytesOfNat 8 (n.counter.toNat + 1) ++ at_ 8 32 ++
            n.mh.toList.flatMap (fun m => bytesOfNat 32 m.toNat) ++ bytesOfNat 32 (match if p = 0x7F then none else s.part? p with
              | some x => x.digest.toNat
              | none => 0)
          let sig := (Config.hssSign body (n.counter.toNat + 1) ++ List.replicate 3284 0).take 3284
          changes .nibQuote (body ++ sig) (fun t => { t.nib with mail := n.mail, cmd := n.cmd } = { n with counter := n.counter + 1 }))) ∧
      (k = 5 → barred = none → let i := num 8 1
        (i ≠ 5 → i ≠ 6 → refuses .nibExtend 3) ∧
        (i = 5 ∨ i = 6 → changes .nibExtend [] (fun t => (∀ j : Fin 8, t.nib.mh[j] = if j.val = i then
          Config.sha256 (bytesOfNat 32 n.mh[j].toNat ++ bytesOfNat 32 (num 9 32 % 2 ^ 256)) else n.mh[j]) ∧ { t.nib with mail := n.mail, cmd := n.cmd, mh := n.mh } = n))) ∧
      (k = 0x21 → barred = none → changes .nibClrfail [] (fun t => { t.nib with mail := n.mail, cmd := n.cmd } = { n with failcnt := 0 }))

/-- R333-R335, R363, R407, R408, R410, R413, R414: KEYGEN puts a new key in an empty slot for a partition and KEYCLR empties one; PARTSET
redraws an empty partition or a new one: members cleared, old keys and table entries gone, the TLBs of its dies empty, the request measured; RECOVER takes a
signed image into the flash; UNLOCK spends its nonce, and a token in order opens the port once every core has drained and its
state and the keys are gone. -/
def Claim.NibPerforms : Prop :=
  ∀ (s : State) (c : Command), s.nib.cmd = some c → c.route = .host → s.nib.power = true → s.nib.off = false → s.nib.stage ≠ 1 → KeysOk s → c.block.length = 4096 →
    let n := s.nib
    let k := natOfBytes (c.block.take 2)
    let num := fun (i l : Nat) => natOfBytes ((c.block.drop i).take l)
    let run := fun (i : Instr) (st : Byte) (same : State → Prop) => ∃ t, exec i s = .next t ∧ t.nib.cmd = none ∧ Sparse.get 0 t.nib.mail 2 = st ∧ same t
    let refuses := fun (i : Instr) (w : Nat) => run i 0x03 (fun t => { t with nib := n, free := s.free } = s ∧ { t.nib with mail := n.mail, cmd := n.cmd } = n ∧
      natOfBytes ((List.range 4).map (fun j => Sparse.get 0 t.nib.mail (8 + j))) = w)
    let slot := num 8 2
    let calm := Sparse.canon Core.reset s.others = true ∧ ∀ e ∈ s.cores, e.2.x.wbs = [] ∧ ∀ a ∈ e.2.x.accs, ∀ y, a.kind ≠ .xch y
    (k = 0x11 → n.mode ≠ 2 → let p := num 10 1
      (slot = 0 ∨ 2047 < slot ∨ Sparse.find s.keys slot ≠ none ∨ s.part? p = none → refuses .nibKeygen 3) ∧
      (slot ≠ 0 → slot ≤ 2047 → Sparse.find s.keys slot = none → s.part? p ≠ none → run .nibKeygen 0x02 (fun t =>
        Sparse.find t.keys slot = some { ident := s.keyGen, part := some p } ∧ t.keyGen = s.keyGen + 1 ∧ (∀ i, i ≠ slot → Sparse.find t.keys i = Sparse.find s.keys i) ∧
        (calm → { t with keys := s.keys, keyGen := s.keyGen, nib := n, free := s.free } = s)))) ∧
    (k = 0x12 → n.mode ≠ 2 →
      (slot = 0 ∨ 2047 < slot → refuses .nibKeyclr 3) ∧
      (slot ≠ 0 → slot ≤ 2047 → run .nibKeyclr 0x02 (fun t => Sparse.find t.keys slot = none ∧ ((s.keys.map Prod.fst).Pairwise (· < ·) → ∀ i, i ≠ slot → Sparse.find t.keys i = Sparse.find s.keys i) ∧
        (calm → { t with keys := s.keys, nib := n, free := s.free } = s)))) ∧
    (k = 0x10 → n.mode ≠ 2 → match Config.descriptorOf (c.block.drop 8) with
      | none => refuses .nibPartset 3
      | some (p, d) => if s.mayRedraw p d = false then refuses .nibPartset 3 else run .nibPartset 0x02 (fun t =>
        let dg := Config.sha256 (c.block.drop 8)
        (∃ x, t.part? p = some x ∧ x.desc = d ∧ x.digest = dg ∧ (∀ m ∈ t.members x, (t.coreAt m).seq.thr = Bank.zero ∧ (t.coreAt m).seq.asid = d.asid ∧ (t.coreAt m).vec = Vec.reset ∧
          (t.coreAt m).mat = Mat.reset ∧ (t.coreAt m).near = Store.empty ∧ (t.coreAt m).share = Share.idle ∧ (t.coreAt m).tlb = [] ∧ (t.die (dieOf m)).tlb = []) ∧
          (∀ y, s.part? p = some y → { x with desc := y.desc, digest := y.digest } = y)) ∧
        (∀ q, q ≠ p → t.part? q = s.part? q) ∧ (∀ e ∈ t.keys, e ∈ s.keys ∧ e.2.part ≠ some p) ∧ (∀ e ∈ s.keys, e.2.part ≠ some p → e ∈ t.keys) ∧ t.main = s.main ∧
        ∀ j : Fin 8, t.nib.mh[j] = if j.val = 4 then Config.sha256 (bytesOfNat 32 n.mh[4].toNat ++ bytesOfNat 32 dg.toNat) else n.mh[j])) ∧
    (k = 0x20 → n.mode = 2 → let im := c.block.drop 8
      (imageType im ≠ 1 → imageType im ≠ 2 → refuses .nibRecover 3) ∧
      (imageType im = 1 ∨ imageType im = 2 → if imageSigned s.fuses.imageKey (imageType im) im = false then refuses .nibRecover 4
        else if imageVersion im < s.fuses.minVersion.toNat then refuses .nibRecover 3
        else let whole := im.take (64 + imageLen im + 3284)
          run .nibRecover 0x02 (fun t => t.nib.mh = n.mh ∧
            t.nib.images = if imageType im = 1 then { n.images with nibPatch := whole } else { n.images with folio := whole }))) ∧
    (k = 4 →
      let scope := num 60 8
      let signed := Config.hssVerify s.fuses.debugKey ((c.block.drop 8).take 60) ((c.block.drop 68).take 3284) = true
      let nonce := n.hostNonce = some (BitVec.ofNat 256 (num 28 32))
      let mine := num 8 16 = s.fuses.device.toNat ∧ num 24 4 = s.fuses.lifecycle.toNat ∧ 0 < scope ∧ scope < 8
      let no := fun (w : Nat) => run .nibUnlock 0x03 (fun t => t.nib.hostNonce = none ∧ t.nib.debugOpen = n.debugOpen ∧ t.core = s.core ∧ t.parts = s.parts ∧
        natOfBytes ((List.range 4).map (fun j => Sparse.get 0 t.nib.mail (8 + j))) = w)
      (n.mode = 2 → n.moult = false → refuses .nibUnlock 7) ∧
      (n.mode ≠ 2 → n.moult = false → if ¬signed then no 4 else if ¬nonce then no 5 else if ¬mine then no 3 else
        ∃ t, exec .nibUnlock s = .next t ∧ t.nib = { n with hostNonce := none, moult := true } ∧
          (∀ e ∈ t.parts, e.2.halt = true ∧ ∀ l ∈ e.2.table, l.status = some 4) ∧ t.dieStore = s.dieStore ∧ t.keys = s.keys ∧
          ∀ e ∈ s.cores, e.2.share.live = true → (t.coreAt e.1).share = { e.2.share with stop := true, fault := true } ∧ (t.coreAt e.1).seq.draining = true ∧
            (t.coreAt e.1).seq.sup = false) ∧
      (n.mode ≠ 2 → n.moult = true →
        let drained := (∀ e ∈ s.parts, e.2.table = []) ∧ ∀ e ∈ s.cores, RunOut e.2 ∧ e.2.share.live = false ∧ e.2.share.phase ≠ .swapOut
        (¬drained → exec .nibUnlock s = .next s) ∧
        (drained → run .nibUnlock 0x02 (fun t => t.nib.debugOpen = true ∧ t.nib.scope.toNat = scope % 8 ∧ t.nib.moult = false ∧ t.dieStore = Store.empty ∧
          t.keys = [(0, { ident := s.keyGen, part := none })] ∧ t.main = s.main ∧ t.parked = s.parked ∧
          (∀ e ∈ s.cores, (t.coreAt e.1).seq.thr = Bank.zero ∧ (t.coreAt e.1).seq.svr = Bank.zero ∧ (t.coreAt e.1).vec = Vec.reset ∧ (t.coreAt e.1).mat = Mat.reset ∧
            (t.coreAt e.1).near = Store.empty ∧ (t.coreAt e.1).x.landing = [] ∧ (t.coreAt e.1).x.inflow = []) ∧
          (∀ d : Fin 4, t.dies[d].recovery = [] ∧ t.dies[d].hold = []) ∧
          ∀ j : Fin 8, t.nib.mh[j] = if j.val = 7 then Config.sha256 (bytesOfNat 32 n.mh[7].toNat ++ bytesOfNat 32 (Config.sha256 ((c.block.drop 8).take 3344)).toNat) else n.mh[j]))))

/-- Nib's commands. Rests on choices of the model: log entries 6, 7, 9, 33, 34. -/
def Obligations.NibCommands : Prop :=
  Claim.NibAnswers ∧ Claim.NibPerforms
end

