-- ==== Sys2Proof/Laws/Encoding.lean ====
section
/-! SUPPORT. The fields of a word read back: what `place` puts at a bit is found there and nowhere else, and each format's
fields, OP, GAP and guard are read from the word they were written into. -/

namespace Sys2Proof

/-! ### One field -/

theorem getLsbD_place {n : Nat} (lo : Nat) (x : BitVec n) (i : Nat) :
    (place lo x).getLsbD i = (decide (i < 96) && decide (lo ≤ i) && x.getLsbD (i - lo)) := by
  simp only [place, BitVec.getLsbD_shiftLeft, BitVec.getLsbD_setWidth]
  rcases Nat.lt_or_ge i 96 with h1 | h1
  · rcases Nat.lt_or_ge i lo with h2 | h2
    · simp [h2, Nat.not_le.2 h2]
    · simp [h1, h2, Nat.not_lt.2 h2]; omega
  · simp [Nat.not_lt.2 h1]

theorem bit_or (x y : InstrWord) (i : Nat) : (x ||| y).getLsbD i = (x.getLsbD i || y.getLsbD i) := BitVec.getLsbD_or

theorem fieldAt_or (x y : InstrWord) (lo n : Nat) : fieldAt (x ||| y) lo n = fieldAt x lo n ||| fieldAt y lo n := by
  ext i hi; simp [fieldAt]

theorem fieldAt_on {n : Nat} (lo : Nat) (x : BitVec n) (h : lo + n ≤ 96) : fieldAt (place lo x) lo n = x := by
  ext i hi
  simp only [fieldAt, BitVec.getElem_extractLsb', getLsbD_place]
  simp [show lo + i < 96 by omega, BitVec.getLsbD_eq_getElem hi]

theorem fieldAt_off {n : Nat} (a : Nat) (x : BitVec n) (lo m : Nat) (h : a + n ≤ lo ∨ lo + m ≤ a) :
    fieldAt (place a x) lo m = 0#m := by
  ext i hi
  simp only [fieldAt, BitVec.getElem_extractLsb', getLsbD_place]
  rcases h with h | h
  · rw [BitVec.getLsbD_of_ge x _ (by omega)]; simp
  · simp; omega

theorem bit_on (a : Nat) (b : Bool) (h : a < 96) : (place a (BitVec.ofBool b)).getLsbD a = b := by
  rw [getLsbD_place]; simp [h]

theorem bit_off {n : Nat} (a : Nat) (x : BitVec n) (i : Nat) (h : a + n ≤ i ∨ i < a) : (place a x).getLsbD i = false := by
  rw [getLsbD_place]
  rcases h with h | h
  · rw [BitVec.getLsbD_of_ge x _ (by omega)]; simp
  · simp; omega

/-! ### Words below a bit -/

/-- A word has no bit set from `n` up. -/
structure Low (w : InstrWord) (n : Nat) : Prop where
  zero : ∀ i, n ≤ i → w.getLsbD i = false

theorem Low.field {w : InstrWord} {n lo m : Nat} (h : Low w n) (hl : n ≤ lo) : fieldAt w lo m = 0#m := by
  ext i hi; simp [fieldAt]; rw [h.zero _ (by omega)]

theorem Low.mono {w : InstrWord} {n m : Nat} (h : Low w n) (hl : n ≤ m) : Low w m := ⟨fun i hi => h.zero i (by omega)⟩

theorem low_zero (n : Nat) : Low 0#96 n := ⟨fun i _ => by simp⟩

theorem low_or {x y : InstrWord} {n : Nat} (h : Low x n) (g : Low y n) : Low (x ||| y) n :=
  ⟨fun i hi => by rw [bit_or, h.zero i hi, g.zero i hi]; rfl⟩

theorem low_place {k : Nat} (lo n : Nat) (x : BitVec k) (h : lo + k ≤ n) : Low (place lo x) n :=
  ⟨fun i _ => bit_off lo x i (Or.inl (by omega))⟩

/-! ### OP, GAP and guard -/

theorem guard_parts : ∀ (a : Bool) (p : BitVec 3), (guardBits (some ⟨a, p⟩)).getLsbD 4 = true ∧
    (guardBits (some ⟨a, p⟩)).getLsbD 3 = a ∧ (guardBits (some ⟨a, p⟩)).setWidth 3 = p := by decide

theorem guard_at (x : BitVec 5) : (place 78 x).getLsbD 82 = x.getLsbD 4 ∧ (place 78 x).getLsbD 81 = x.getLsbD 3 ∧
    fieldAt (place 78 x) 78 3 = x.setWidth 3 := by
  refine ⟨by rw [getLsbD_place]; rfl, by rw [getLsbD_place]; rfl, ?_⟩
  ext i hi
  simp only [fieldAt, BitVec.getElem_extractLsb', getLsbD_place, BitVec.getElem_setWidth]
  simp [show 78 + i < 96 by omega]

theorem Head.parse_word (op : BitVec 8) (h : Head) (w : InstrWord) (hw : Low w 78) : Head.parse (opWord op h ||| w) = h := by
  obtain ⟨g, gd⟩ := h
  have e1 : ∀ lo m, 78 ≤ lo → fieldAt w lo m = 0#m := fun lo m => hw.field
  have e2 : ∀ i, 78 ≤ i → w.getLsbD i = false := hw.zero
  simp (disch := omega) only [Head.parse, opWord, fieldAt_or, bit_or, fieldAt_on, fieldAt_off, bit_off, e1, e2, guard_at,
    Bool.false_or, Bool.or_false, BitVec.zero_or, BitVec.or_zero]
  cases gd with
  | none => rfl
  | some x => obtain ⟨a, p⟩ := x; rw [if_pos (guard_parts a p).1, (guard_parts a p).2.1, (guard_parts a p).2.2]

theorem op_word (op : BitVec 8) (h : Head) (w : InstrWord) (hw : Low w 88) : fieldAt (opWord op h ||| w) 88 8 = op := by
  simp (disch := omega) only [opWord, fieldAt_or, fieldAt_on, fieldAt_off, hw.field, BitVec.or_zero]

theorem op_eng (op : BitVec 8) (g : BitVec 5) (w : InstrWord) (hw : Low w 88) : fieldAt (engWord op g ||| w) 88 8 = op := by
  simp (disch := omega) only [engWord, fieldAt_or, fieldAt_on, fieldAt_off, hw.field, BitVec.or_zero]

theorem gap_eng (op : BitVec 8) (g : BitVec 5) (w : InstrWord) (hw : Low w 83) : fieldAt (engWord op g ||| w) 83 5 = g := by
  simp (disch := omega) only [engWord, fieldAt_or, fieldAt_on, fieldAt_off, hw.field, BitVec.zero_or, BitVec.or_zero]

/-! ### The fields of each format -/

theorem SR.low (f : SR) : Low f.enc 78 := by
  unfold SR.enc
  with_reducible (repeat first | apply low_or | exact low_place _ _ _ (by omega))

theorem SR.parse_enc (op : BitVec 8) (h : Head) (f : SR) : SR.parse (opWord op h ||| f.enc) = f := by
  simp (disch := omega) only [SR.parse, SR.enc, opWord, fieldAt_or, fieldAt_on, fieldAt_off, BitVec.zero_or, BitVec.or_zero]

theorem SI.low (f : SI) : Low f.enc 78 := by
  unfold SI.enc
  with_reducible (repeat first | apply low_or | exact low_place _ _ _ (by omega))

theorem SI.parse_enc (op : BitVec 8) (h : Head) (f : SI) : SI.parse (opWord op h ||| f.enc) = f := by
  simp (disch := omega) only [SI.parse, SI.enc, opWord, fieldAt_or, fieldAt_on, fieldAt_off, BitVec.zero_or, BitVec.or_zero]

theorem SPr.low (f : SPr) : Low f.enc 78 := by
  unfold SPr.enc
  with_reducible (repeat first | apply low_or | exact low_place _ _ _ (by omega))

theorem SPr.parse_enc (op : BitVec 8) (h : Head) (f : SPr) : SPr.parse (opWord op h ||| f.enc) = f := by
  simp (disch := omega) only [SPr.parse, SPr.enc, opWord, fieldAt_or, fieldAt_on, fieldAt_off, BitVec.zero_or, BitVec.or_zero]

theorem SPi.low (f : SPi) : Low f.enc 78 := by
  unfold SPi.enc
  with_reducible (repeat first | apply low_or | exact low_place _ _ _ (by omega))

theorem SPi.parse_enc (op : BitVec 8) (h : Head) (f : SPi) : SPi.parse (opWord op h ||| f.enc) = f := by
  simp (disch := omega) only [SPi.parse, SPi.enc, opWord, fieldAt_or, fieldAt_on, fieldAt_off, BitVec.zero_or, BitVec.or_zero]

theorem PL.low (f : PL) : Low f.enc 78 := by
  unfold PL.enc
  with_reducible (repeat first | apply low_or | exact low_place _ _ _ (by omega))

theorem PL.parse_enc (op : BitVec 8) (h : Head) (f : PL) : PL.parse (opWord op h ||| f.enc) = f := by
  simp (disch := omega) only [PL.parse, PL.enc, opWord, fieldAt_or, fieldAt_on, fieldAt_off, BitVec.zero_or, BitVec.or_zero]

theorem SB.low (f : SB) : Low f.enc 78 := by
  unfold SB.enc
  with_reducible (repeat first | apply low_or | exact low_place _ _ _ (by omega))

theorem SB.parse_enc (op : BitVec 8) (h : Head) (f : SB) : SB.parse (opWord op h ||| f.enc) = f := by
  simp (disch := omega) only [SB.parse, SB.enc, opWord, fieldAt_or, fieldAt_on, fieldAt_off, BitVec.zero_or, BitVec.or_zero]

theorem SLr.low (f : SLr) : Low f.enc 78 := by
  unfold SLr.enc
  with_reducible (repeat first | apply low_or | exact low_place _ _ _ (by omega))

theorem SLr.parse_enc (op : BitVec 8) (h : Head) (f : SLr) : SLr.parse (opWord op h ||| f.enc) = f := by
  simp (disch := omega) only [SLr.parse, SLr.enc, opWord, fieldAt_or, fieldAt_on, fieldAt_off, BitVec.zero_or, BitVec.or_zero]

theorem SLi.low (f : SLi) : Low f.enc 78 := by
  unfold SLi.enc
  with_reducible (repeat first | apply low_or | exact low_place _ _ _ (by omega))

theorem SLi.parse_enc (op : BitVec 8) (h : Head) (f : SLi) : SLi.parse (opWord op h ||| f.enc) = f := by
  simp (disch := omega) only [SLi.parse, SLi.enc, opWord, fieldAt_or, fieldAt_on, fieldAt_off, BitVec.zero_or, BitVec.or_zero]

theorem SD.low (f : SD) : Low f.enc 78 := by
  unfold SD.enc
  with_reducible (repeat first | apply low_or | exact low_place _ _ _ (by omega))

theorem SD.parse_enc (op : BitVec 8) (h : Head) (f : SD) : SD.parse (opWord op h ||| f.enc) = f := by
  simp (disch := omega) only [SD.parse, SD.enc, opWord, fieldAt_or, fieldAt_on, fieldAt_off, BitVec.zero_or, BitVec.or_zero]

theorem SW.low (f : SW) : Low f.enc 78 := by
  unfold SW.enc
  with_reducible (repeat first | apply low_or | exact low_place _ _ _ (by omega))

theorem SW.parse_enc (op : BitVec 8) (h : Head) (f : SW) : SW.parse (opWord op h ||| f.enc) = f := by
  simp (disch := omega) only [SW.parse, SW.enc, opWord, fieldAt_or, fieldAt_on, fieldAt_off, BitVec.zero_or, BitVec.or_zero]

theorem SQ.low (f : SQ) : Low f.enc 78 := by
  unfold SQ.enc
  with_reducible (repeat first | apply low_or | exact low_place _ _ _ (by omega))

theorem SQ.parse_enc (op : BitVec 8) (h : Head) (f : SQ) : SQ.parse (opWord op h ||| f.enc) = f := by
  simp (disch := omega) only [SQ.parse, SQ.enc, opWord, fieldAt_or, fieldAt_on, fieldAt_off, BitVec.zero_or, BitVec.or_zero]

theorem SM.low (f : SM) : Low f.enc 78 := by
  unfold SM.enc
  with_reducible (repeat first | apply low_or | exact low_place _ _ _ (by omega))

theorem SM.parse_enc (op : BitVec 8) (h : Head) (f : SM) : SM.parse (opWord op h ||| f.enc) = f := by
  simp (disch := omega) only [SM.parse, SM.enc, opWord, fieldAt_or, fieldAt_on, bit_or, bit_on, bit_off, Bool.false_or, Bool.or_false, fieldAt_off, BitVec.zero_or, BitVec.or_zero]

theorem SS.low (f : SS) : Low f.enc 78 := by
  unfold SS.enc
  with_reducible (repeat first | apply low_or | exact low_place _ _ _ (by omega))

theorem SS.parse_enc (op : BitVec 8) (h : Head) (f : SS) : SS.parse (opWord op h ||| f.enc) = f := by
  simp (disch := omega) only [SS.parse, SS.enc, opWord, fieldAt_or, fieldAt_on, fieldAt_off, BitVec.zero_or, BitVec.or_zero]

theorem SN.low (f : SN) : Low f.enc 78 := by
  unfold SN.enc
  with_reducible (repeat first | apply low_or | exact low_place _ _ _ (by omega))

theorem SN.parse_enc (op : BitVec 8) (h : Head) (f : SN) : SN.parse (opWord op h ||| f.enc) = f := by
  simp (disch := omega) only [SN.parse, SN.enc, opWord, fieldAt_or, fieldAt_on, fieldAt_off, BitVec.zero_or, BitVec.or_zero]

theorem SX.low (f : SX) : Low f.enc 78 := by
  unfold SX.enc
  with_reducible (repeat first | apply low_or | exact low_place _ _ _ (by omega))

theorem SX.parse_enc (op : BitVec 8) (h : Head) (f : SX) : SX.parse (opWord op h ||| f.enc) = f := by
  simp (disch := omega) only [SX.parse, SX.enc, opWord, fieldAt_or, fieldAt_on, fieldAt_off, BitVec.zero_or, BitVec.or_zero]

theorem FF.low (f : FF) : Low f.enc 78 := by
  unfold FF.enc
  with_reducible (repeat first | apply low_or | exact low_place _ _ _ (by omega))

theorem FF.parse_enc (op : BitVec 8) (h : Head) (f : FF) : FF.parse (opWord op h ||| f.enc) = f := by
  simp (disch := omega) only [FF.parse, FF.enc, opWord, fieldAt_or, fieldAt_on, fieldAt_off, BitVec.zero_or, BitVec.or_zero]

theorem VA.low (f : VA) : Low f.enc 83 := by
  unfold VA.enc
  with_reducible (repeat first | apply low_or | exact low_place _ _ _ (by omega))

theorem VA.parse_enc (op : BitVec 8) (g : BitVec 5) (f : VA) : VA.parse (engWord op g ||| f.enc) = f := by
  simp (disch := omega) only [VA.parse, VA.enc, engWord, fieldAt_or, fieldAt_on, bit_or, bit_on, bit_off, Bool.false_or, Bool.or_false, fieldAt_off, BitVec.zero_or, BitVec.or_zero]

theorem VM.low (f : VM) : Low f.enc 83 := by
  unfold VM.enc
  with_reducible (repeat first | apply low_or | exact low_place _ _ _ (by omega))

theorem VM.parse_enc (op : BitVec 8) (g : BitVec 5) (f : VM) : VM.parse (engWord op g ||| f.enc) = f := by
  simp (disch := omega) only [VM.parse, VM.enc, engWord, fieldAt_or, fieldAt_on, bit_or, bit_on, bit_off, Bool.false_or, Bool.or_false, fieldAt_off, BitVec.zero_or, BitVec.or_zero]

theorem MC.low (f : MC) : Low f.enc 83 := by
  unfold MC.enc
  with_reducible (repeat first | apply low_or | exact low_place _ _ _ (by omega))

theorem MC.parse_enc (op : BitVec 8) (g : BitVec 5) (f : MC) : MC.parse (engWord op g ||| f.enc) = f := by
  simp (disch := omega) only [MC.parse, MC.enc, engWord, fieldAt_or, fieldAt_on, bit_or, bit_on, bit_off, Bool.false_or, Bool.or_false, fieldAt_off, BitVec.zero_or, BitVec.or_zero]

theorem XE.low (f : XE) : Low f.enc 83 := by
  unfold XE.enc
  with_reducible (repeat first | apply low_or | exact low_place _ _ _ (by omega))

theorem XE.parse_enc (op : BitVec 8) (g : BitVec 5) (f : XE) : XE.parse (engWord op g ||| f.enc) = f := by
  simp (disch := omega) only [XE.parse, XE.enc, engWord, fieldAt_or, fieldAt_on, bit_or, bit_on, bit_off, Bool.false_or, Bool.or_false, fieldAt_off, BitVec.zero_or, BitVec.or_zero]

theorem XT.low (f : XT) : Low f.enc 83 := by
  unfold XT.enc
  with_reducible (repeat first | apply low_or | exact low_place _ _ _ (by omega))

theorem XT.parse_enc (op : BitVec 8) (g : BitVec 5) (f : XT) : XT.parse (engWord op g ||| f.enc) = f := by
  simp (disch := omega) only [XT.parse, XT.enc, engWord, fieldAt_or, fieldAt_on, bit_or, bit_on, bit_off, Bool.false_or, Bool.or_false, fieldAt_off, BitVec.zero_or, BitVec.or_zero]

theorem XA.low (f : XA) : Low f.enc 83 := by
  unfold XA.enc
  with_reducible (repeat first | apply low_or | exact low_place _ _ _ (by omega))

theorem XA.parse_enc (op : BitVec 8) (g : BitVec 5) (f : XA) : XA.parse (engWord op g ||| f.enc) = f := by
  simp (disch := omega) only [XA.parse, XA.enc, engWord, fieldAt_or, fieldAt_on, bit_or, bit_on, bit_off, Bool.false_or, Bool.or_false, fieldAt_off, BitVec.zero_or, BitVec.or_zero]

end Sys2Proof
end

