-- ==== Sys2Proof/Laws/Memory.lean ====
section
/-! SUPPORT. The canonical form of the stores: what it says, that every memory operation keeps it, that reset has it, and
reads after writes. -/

namespace Sys2Proof.Machine

/-! ### Sparse stores -/

/-- Canonical form: keys strictly rising, no entry equal to the default. -/
theorem Sparse.canon_iff {α : Type} [DecidableEq α] (d : α) (m : Sparse α) :
    Sparse.canon d m = true ↔ m.Pairwise (fun x y => x.1 < y.1) ∧ ∀ e ∈ m, e.2 ≠ d := by
  induction m with
  | nil => simp [Sparse.canon]
  | cons e r ih =>
    obtain ⟨k, v⟩ := e
    simp only [Sparse.canon, Bool.and_eq_true, decide_eq_true_eq, List.all_eq_true, ih, List.pairwise_cons, List.forall_mem_cons]
    tauto

theorem Sparse.mem_set {α : Type} [DecidableEq α] {d : α} {m : Sparse α} {n : Nat} {x : α} {e : Nat × α}
    (h : e ∈ Sparse.set d m n x) : e ∈ m ∨ e = (n, x) := by
  induction m with
  | nil =>
    simp only [Sparse.set] at h
    split at h <;> simp_all
  | cons c r ih =>
    obtain ⟨k, v⟩ := c
    simp only [Sparse.set] at h
    split at h
    · split at h
      · exact Or.inl h
      · rcases List.mem_cons.1 h with h | h
        · exact Or.inr h
        · exact Or.inl h
    · split at h
      · next hk =>
        split at h
        · exact Or.inl (List.mem_cons_of_mem _ h)
        · rcases List.mem_cons.1 h with h | h
          · exact Or.inr (by rw [h, hk])
          · exact Or.inl (List.mem_cons_of_mem _ h)
      · rcases List.mem_cons.1 h with h | h
        · exact Or.inl (h ▸ List.mem_cons_self ..)
        · rcases ih h with h | h
          · exact Or.inl (List.mem_cons_of_mem _ h)
          · exact Or.inr h

/-- A write keeps the canonical form. -/
theorem Sparse.canon_set {α : Type} [DecidableEq α] {d : α} {m : Sparse α} (n : Nat) (x : α) (h : Sparse.canon d m = true) :
    Sparse.canon d (Sparse.set d m n x) = true := by
  induction m with
  | nil => simp only [Sparse.set]; split <;> simp_all [Sparse.canon]
  | cons c r ih =>
    obtain ⟨k, v⟩ := c
    simp only [Sparse.canon, Bool.and_eq_true, decide_eq_true_eq, List.all_eq_true] at h
    obtain ⟨⟨hv, hk⟩, hr⟩ := h
    simp only [Sparse.set]
    split
    · next hn =>
      split
      · simp only [Sparse.canon, Bool.and_eq_true, decide_eq_true_eq, List.all_eq_true]; exact ⟨⟨hv, hk⟩, hr⟩
      · simp only [Sparse.canon, Bool.and_eq_true, decide_eq_true_eq, List.all_eq_true, List.forall_mem_cons]
        exact ⟨⟨by assumption, hn, fun e he => Nat.lt_trans hn (hk e he)⟩, ⟨hv, hk⟩, hr⟩
    · split
      · split
        · exact hr
        · simp only [Sparse.canon, Bool.and_eq_true, decide_eq_true_eq, List.all_eq_true]; exact ⟨⟨by assumption, hk⟩, hr⟩
      · simp only [Sparse.canon, Bool.and_eq_true, decide_eq_true_eq, List.all_eq_true]
        refine ⟨⟨hv, fun e he => ?_⟩, ih hr⟩
        rcases Sparse.mem_set he with h | h
        · exact hk e h
        · rw [h]; show k < n; omega

/-- A key below every entry reads the default. -/
theorem Sparse.get_below {α : Type} {d : α} {m : Sparse α} {n : Nat} (h : ∀ e ∈ m, n < e.1) : Sparse.get d m n = d := by
  cases m with
  | nil => rfl
  | cons c r =>
    have := h c (List.mem_cons_self ..)
    simp only [Sparse.get]
    rw [if_neg (by omega), if_pos this]

/-- What is written is read. -/
theorem Sparse.get_set {α : Type} [DecidableEq α] {d : α} {m : Sparse α} (n : Nat) (x : α) (h : Sparse.canon d m = true) :
    Sparse.get d (Sparse.set d m n x) n = x := by
  induction m with
  | nil => simp only [Sparse.set]; split <;> simp_all [Sparse.get]
  | cons c r ih =>
    obtain ⟨k, v⟩ := c
    simp only [Sparse.canon, Bool.and_eq_true, decide_eq_true_eq, List.all_eq_true] at h
    obtain ⟨⟨hv, hk⟩, hr⟩ := h
    simp only [Sparse.set]
    split
    · next hn =>
      split
      · next hx =>
        rw [hx]
        exact Sparse.get_below (fun e he => by
          rcases List.mem_cons.1 he with he | he
          · rw [he]; exact hn
          · exact Nat.lt_trans hn (hk e he))
      · simp [Sparse.get]
    · split
      · next hn =>
        split
        · next hx => rw [hx]; exact Sparse.get_below (fun e he => hn ▸ hk e he)
        · simp [Sparse.get, hn]
      · simp only [Sparse.get]
        rw [if_neg (by omega), if_neg (by omega)]
        exact ih hr

/-- A write leaves every other key alone. -/
theorem Sparse.get_set_ne {α : Type} [DecidableEq α] {d : α} {m : Sparse α} (n : Nat) (x : α) {j : Nat} (hj : j ≠ n)
    (h : Sparse.canon d m = true) : Sparse.get d (Sparse.set d m n x) j = Sparse.get d m j := by
  induction m with
  | nil => simp only [Sparse.set]; split <;> simp [Sparse.get, Ne.symm hj]
  | cons c r ih =>
    obtain ⟨k, v⟩ := c
    simp only [Sparse.canon, Bool.and_eq_true, decide_eq_true_eq, List.all_eq_true] at h
    obtain ⟨⟨hv, hk⟩, hr⟩ := h
    simp only [Sparse.set]
    split
    · next hn =>
      split
      · rfl
      · simp only [Sparse.get]
        by_cases hjn : j < n
        · rw [if_neg (Ne.symm hj), if_pos hjn, if_neg (by omega), if_pos (by omega)]
        · rw [if_neg (Ne.symm hj), if_neg hjn]
    · split
      · next hn =>
        split
        · simp only [Sparse.get]
          rw [if_neg (by omega)]
          by_cases hjk : j < k
          · rw [if_pos hjk]; exact Sparse.get_below (fun e he => Nat.lt_trans hjk (hk e he))
          · rw [if_neg hjk]
        · have hkj : ¬k = j := fun e => hj (e ▸ hn.symm)
          simp only [Sparse.get, if_neg hkj]
      · simp only [Sparse.get]
        rw [ih hr]

theorem Sparse.canon_norm {α : Type} [DecidableEq α] (d : α) (l : Sparse α) : Sparse.canon d (Sparse.norm d l) = true := by
  induction l with
  | nil => rfl
  | cons e r ih => exact Sparse.canon_set _ _ ih

theorem Sparse.canon_filter {α : Type} [DecidableEq α] {d : α} {m : Sparse α} (p : Nat × α → Bool)
    (h : Sparse.canon d m = true) : Sparse.canon d (m.filter p) = true := by
  rw [Sparse.canon_iff] at h ⊢
  exact ⟨h.1.filter p, fun e he => h.2 e (List.mem_of_mem_filter he)⟩

theorem Sparse.canon_window {α : Type} [DecidableEq α] {d : α} {m : Sparse α} (a n : Nat) (h : Sparse.canon d m = true) :
    Sparse.canon d (Sparse.window m a n) = true := by
  rw [Sparse.canon_iff] at h ⊢
  refine ⟨?_, ?_⟩
  · unfold Sparse.window
    rw [List.pairwise_map]
    refine List.Pairwise.imp_of_mem ?_ (h.1.filter _)
    intro x y hx _ hxy
    have := (List.mem_filter.1 hx).2
    simp only [Bool.and_eq_true, decide_eq_true_eq] at this
    show x.1 - a < y.1 - a
    omega
  · intro e he
    simp only [Sparse.window, List.mem_map, List.mem_filter] at he
    obtain ⟨x, hx, rfl⟩ := he
    exact h.2 x hx.1

theorem Sparse.canon_splice {α : Type} [DecidableEq α] {d : α} {m b : Sparse α} (a n : Nat) (h : Sparse.canon d m = true)
    (hb : Sparse.canon d b = true) : Sparse.canon d (Sparse.splice m a n b) = true := by
  rw [Sparse.canon_iff] at h hb ⊢
  unfold Sparse.splice
  refine ⟨?_, ?_⟩
  · rw [List.pairwise_append, List.pairwise_append]
    refine ⟨h.1.filter _, ⟨?_, h.1.filter _, ?_⟩, ?_⟩
    · rw [List.pairwise_map]
      exact (hb.1.filter _).imp (fun {x y} hxy => by show x.1 + a < y.1 + a; omega)
    · intro x hx y hy
      simp only [List.mem_map, List.mem_filter, decide_eq_true_eq] at hx hy
      obtain ⟨u, hu, rfl⟩ := hx
      show u.1 + a < y.1
      omega
    · intro x hx y hy
      simp only [List.mem_append, List.mem_map, List.mem_filter, decide_eq_true_eq] at hx hy
      rcases hy with ⟨u, _, rfl⟩ | hy
      · show x.1 < u.1 + a
        omega
      · omega
  · intro e he
    simp only [List.mem_append, List.mem_map, List.mem_filter] at he
    rcases he with he | ⟨u, hu, rfl⟩ | he
    · exact h.2 e he.1
    · exact hb.2 u hu.1
    · exact h.2 e he.1

/-! ### Rising lists -/

theorem risingNat_iff (l : List Nat) : risingNat l = true ↔ l.Pairwise (· < ·) := by
  induction l with
  | nil => simp [risingNat]
  | cons k r ih => simp only [risingNat, Bool.and_eq_true, List.all_eq_true, decide_eq_true_eq, ih, List.pairwise_cons]

theorem mem_insertNat {n k : Nat} {l : List Nat} (h : k ∈ insertNat n l) : k = n ∨ k ∈ l := by
  induction l with
  | nil => simpa [insertNat] using h
  | cons j r ih =>
    simp only [insertNat] at h
    split at h
    · simpa using h
    · split at h
      · exact Or.inr h
      · rcases List.mem_cons.1 h with h | h
        · exact Or.inr (h ▸ List.mem_cons_self ..)
        · exact (ih h).imp id (List.mem_cons_of_mem _)

theorem risingNat_insert {l : List Nat} (n : Nat) (h : risingNat l = true) : risingNat (insertNat n l) = true := by
  induction l with
  | nil => rfl
  | cons k r ih =>
    simp only [risingNat, Bool.and_eq_true, List.all_eq_true, decide_eq_true_eq] at h
    simp only [insertNat]
    split
    · next hn =>
      simp only [risingNat, Bool.and_eq_true, List.all_eq_true, decide_eq_true_eq, List.forall_mem_cons]
      exact ⟨⟨hn, fun e he => Nat.lt_trans hn (h.1 e he)⟩, h⟩
    · split
      · simp only [risingNat, Bool.and_eq_true, List.all_eq_true, decide_eq_true_eq]; exact h
      · simp only [risingNat, Bool.and_eq_true, List.all_eq_true, decide_eq_true_eq]
        refine ⟨fun e he => ?_, ih h.2⟩
        rcases mem_insertNat he with he | he
        · omega
        · exact h.1 e he

theorem risingNat_norm (l : List Nat) : risingNat (normNat l) = true := by
  induction l with
  | nil => rfl
  | cons n r ih => exact risingNat_insert n ih

theorem risingNat_filter {l : List Nat} (p : Nat → Bool) (h : risingNat l = true) : risingNat (l.filter p) = true := by
  rw [risingNat_iff] at h ⊢
  exact h.filter p

/-! ### Byte stores -/

theorem Store.wf_iff (m : Store) : m.wf = true ↔ Sparse.canon 0 m.bytes = true ∧ risingNat m.poison = true := by
  simp [Store.wf]

theorem Store.wf_empty : Store.empty.wf = true := rfl

theorem Store.wf_setByte {m : Store} (a : Nat) (b : Byte) (h : m.wf = true) : (m.setByte a b).wf = true := by
  rw [Store.wf_iff] at h ⊢
  exact ⟨Sparse.canon_set a b h.1, h.2⟩

theorem Store.wf_setBytes {m : Store} (a : Nat) (bs : List Byte) (h : m.wf = true) : (m.setBytes a bs).wf = true := by
  induction bs generalizing m a with
  | nil => exact h
  | cons b r ih => exact ih (a + 1) (Store.wf_setByte a b h)

theorem Store.wf_unpoison {m : Store} (p : Nat → Bool) (h : m.wf = true) :
    Store.wf { m with poison := m.poison.filter p } = true := by
  rw [Store.wf_iff] at h ⊢
  exact ⟨h.1, risingNat_filter p h.2⟩

theorem Store.setBytes_poison (m : Store) (a : Nat) (bs : List Byte) : (m.setBytes a bs).poison = m.poison := by
  induction bs generalizing m a with
  | nil => rfl
  | cons b r ih => exact ih _ (a + 1)

theorem Store.wf_write {m : Store} (a : Nat) (bs : List Byte) (h : m.wf = true) : (m.write a bs).wf = true := by
  have hs := Store.wf_setBytes a bs h
  rw [Store.wf_iff] at hs h ⊢
  exact ⟨hs.1, risingNat_filter _ h.2⟩

theorem Store.wf_writeSome {m : Store} (a : Nat) (bs : List (Byte × Bool)) (h : m.wf = true) :
    (m.writeSome a bs).wf = true := by
  induction bs generalizing m a with
  | nil => exact h
  | cons b r ih =>
    obtain ⟨b, e⟩ := b
    cases e
    · exact ih (a + 1) h
    · exact ih (a + 1) (Store.wf_setByte a b h)

theorem Store.wf_poisonWord {m : Store} (a : Nat) (h : m.wf = true) : (m.poisonWord a).wf = true := by
  rw [Store.wf_iff] at h ⊢
  exact ⟨h.1, risingNat_insert _ h.2⟩

/-- Whatever block is put in, a splice keeps the form. -/
theorem Store.wf_splice {m : Store} (a n : Nat) (b : Store) (h : m.wf = true) : (m.splice a n b).wf = true := by
  rw [Store.wf_iff] at h ⊢
  refine ⟨Sparse.canon_splice a n h.1 (Sparse.canon_norm 0 b.bytes), ?_⟩
  have hp := (risingNat_iff _).1 h.2
  have hb := (risingNat_iff _).1 (risingNat_norm b.poison)
  rw [risingNat_iff]
  unfold Store.splice
  rw [List.pairwise_append, List.pairwise_append]
  refine ⟨hp.filter _, ⟨?_, hp.filter _, ?_⟩, ?_⟩
  · rw [List.pairwise_map]
    exact (hb.filter _).imp (fun {x y} hxy => by omega)
  · intro x hx y hy
    simp only [List.mem_map, List.mem_filter, decide_eq_true_eq] at hx hy
    obtain ⟨u, hu, rfl⟩ := hx
    omega
  · intro x hx y hy
    simp only [List.mem_append, List.mem_map, List.mem_filter, decide_eq_true_eq] at hx hy
    rcases hy with ⟨u, _, rfl⟩ | hy <;> omega

theorem Store.wf_setBlock {m : Store} (n : Nat) (b : Store) (h : m.wf = true) : (m.setBlock n b).wf = true :=
  Store.wf_splice _ _ _ h

theorem Store.wf_writeDie {m : Store} (ms : Nat → List Nat) (a : Nat) (bs : List (Byte × Byte)) (h : m.wf = true) :
    (m.writeDie ms a bs).wf = true := by
  induction bs generalizing m a with
  | nil => exact h
  | cons b r ih => exact ih (a + 1) (Store.wf_setByte _ _ h)

theorem Store.wf_scatterDie {m : Store} (ms : Nat → List Nat) (blk : Nat) (b : Store) (n : Nat) (h : m.wf = true) :
    (scatterDie ms blk b n m).wf = true := by
  induction n with
  | zero => exact h
  | succ n ih => exact Store.wf_splice _ _ _ ih

/-- What is written to a byte is read from it. -/
theorem Store.byte_setByte {m : Store} (a : Nat) (b : Byte) (h : m.wf = true) : (m.setByte a b).byte a = b :=
  Sparse.get_set a b ((Store.wf_iff m).1 h).1

/-- A byte written leaves every other alone. -/
theorem Store.byte_setByte_ne {m : Store} (a : Nat) (b : Byte) {j : Nat} (hj : j ≠ a) (h : m.wf = true) :
    (m.setByte a b).byte j = m.byte j :=
  Sparse.get_set_ne a b hj ((Store.wf_iff m).1 h).1

/-- Reset's memories are in canonical form. -/
theorem reset_memories : State.reset.dieStore.wf = true ∧ State.reset.main.wf = true ∧ State.reset.remote.wf = true ∧
    State.reset.core.near.wf = true := ⟨rfl, rfl, rfl, rfl⟩

end Sys2Proof.Machine
end

