-- ==== Sys2Proof/Laws/State.lean ====
section
/-! SUPPORT. What each update of the state does to each field: one lemma a field, so that no proof unfolds a record update. -/

namespace Sys2Proof.Machine

/-! ### State.onCore -/

@[simp] theorem State.onCore_core (s : State) (f : Core → Core) : (s.onCore f).core = f s.core := rfl
@[simp] theorem State.onCore_here (s : State) (f : Core → Core) : (s.onCore f).here = s.here := rfl
@[simp] theorem State.onCore_others (s : State) (f : Core → Core) : (s.onCore f).others = s.others := rfl
@[simp] theorem State.onCore_dies (s : State) (f : Core → Core) : (s.onCore f).dies = s.dies := rfl
@[simp] theorem State.onCore_dieStore (s : State) (f : Core → Core) : (s.onCore f).dieStore = s.dieStore := rfl
@[simp] theorem State.onCore_main (s : State) (f : Core → Core) : (s.onCore f).main = s.main := rfl
@[simp] theorem State.onCore_seals (s : State) (f : Core → Core) : (s.onCore f).seals = s.seals := rfl
@[simp] theorem State.onCore_remote (s : State) (f : Core → Core) : (s.onCore f).remote = s.remote := rfl
@[simp] theorem State.onCore_locks (s : State) (f : Core → Core) : (s.onCore f).locks = s.locks := rfl
@[simp] theorem State.onCore_parked (s : State) (f : Core → Core) : (s.onCore f).parked = s.parked := rfl
@[simp] theorem State.onCore_entries (s : State) (f : Core → Core) : (s.onCore f).entries = s.entries := rfl
@[simp] theorem State.onCore_barriers (s : State) (f : Core → Core) : (s.onCore f).barriers = s.barriers := rfl
@[simp] theorem State.onCore_barMsgs (s : State) (f : Core → Core) : (s.onCore f).barMsgs = s.barMsgs := rfl
@[simp] theorem State.onCore_keys (s : State) (f : Core → Core) : (s.onCore f).keys = s.keys := rfl
@[simp] theorem State.onCore_keyGen (s : State) (f : Core → Core) : (s.onCore f).keyGen = s.keyGen := rfl
@[simp] theorem State.onCore_parts (s : State) (f : Core → Core) : (s.onCore f).parts = s.parts := rfl
@[simp] theorem State.onCore_chans (s : State) (f : Core → Core) : (s.onCore f).chans = s.chans := rfl
@[simp] theorem State.onCore_chanTab (s : State) (f : Core → Core) : (s.onCore f).chanTab = s.chanTab := rfl
@[simp] theorem State.onCore_fadTab (s : State) (f : Core → Core) : (s.onCore f).fadTab = s.fadTab := rfl
@[simp] theorem State.onCore_fuses (s : State) (f : Core → Core) : (s.onCore f).fuses = s.fuses := rfl
@[simp] theorem State.onCore_exclCores (s : State) (f : Core → Core) : (s.onCore f).exclCores = s.exclCores := rfl
@[simp] theorem State.onCore_exclChans (s : State) (f : Core → Core) : (s.onCore f).exclChans = s.exclChans := rfl
@[simp] theorem State.onCore_halfLinks (s : State) (f : Core → Core) : (s.onCore f).halfLinks = s.halfLinks := rfl
@[simp] theorem State.onCore_nib (s : State) (f : Core → Core) : (s.onCore f).nib = s.nib := rfl
@[simp] theorem State.onCore_host (s : State) (f : Core → Core) : (s.onCore f).host = s.host := rfl
@[simp] theorem State.onCore_peers (s : State) (f : Core → Core) : (s.onCore f).peers = s.peers := rfl
@[simp] theorem State.onCore_refCount (s : State) (f : Core → Core) : (s.onCore f).refCount = s.refCount := rfl
@[simp] theorem State.onCore_refPhase (s : State) (f : Core → Core) : (s.onCore f).refPhase = s.refPhase := rfl
@[simp] theorem State.onCore_script (s : State) (f : Core → Core) : (s.onCore f).script = s.script := rfl
@[simp] theorem State.onCore_clocks (s : State) (f : Core → Core) : (s.onCore f).clocks = s.clocks := rfl
@[simp] theorem State.onCore_free (s : State) (f : Core → Core) : (s.onCore f).free = s.free := rfl
@[simp] theorem State.onCore_hostLog (s : State) (f : Core → Core) : (s.onCore f).hostLog = s.hostLog := rfl

/-! ### State.bump -/

@[simp] theorem State.bump_core (s : State) : (s.bump).core = s.core := rfl
@[simp] theorem State.bump_here (s : State) : (s.bump).here = s.here := rfl
@[simp] theorem State.bump_others (s : State) : (s.bump).others = s.others := rfl
@[simp] theorem State.bump_dies (s : State) : (s.bump).dies = s.dies := rfl
@[simp] theorem State.bump_dieStore (s : State) : (s.bump).dieStore = s.dieStore := rfl
@[simp] theorem State.bump_main (s : State) : (s.bump).main = s.main := rfl
@[simp] theorem State.bump_seals (s : State) : (s.bump).seals = s.seals := rfl
@[simp] theorem State.bump_remote (s : State) : (s.bump).remote = s.remote := rfl
@[simp] theorem State.bump_locks (s : State) : (s.bump).locks = s.locks := rfl
@[simp] theorem State.bump_parked (s : State) : (s.bump).parked = s.parked := rfl
@[simp] theorem State.bump_entries (s : State) : (s.bump).entries = s.entries := rfl
@[simp] theorem State.bump_barriers (s : State) : (s.bump).barriers = s.barriers := rfl
@[simp] theorem State.bump_barMsgs (s : State) : (s.bump).barMsgs = s.barMsgs := rfl
@[simp] theorem State.bump_keys (s : State) : (s.bump).keys = s.keys := rfl
@[simp] theorem State.bump_keyGen (s : State) : (s.bump).keyGen = s.keyGen := rfl
@[simp] theorem State.bump_parts (s : State) : (s.bump).parts = s.parts := rfl
@[simp] theorem State.bump_chans (s : State) : (s.bump).chans = s.chans := rfl
@[simp] theorem State.bump_chanTab (s : State) : (s.bump).chanTab = s.chanTab := rfl
@[simp] theorem State.bump_fadTab (s : State) : (s.bump).fadTab = s.fadTab := rfl
@[simp] theorem State.bump_fuses (s : State) : (s.bump).fuses = s.fuses := rfl
@[simp] theorem State.bump_exclCores (s : State) : (s.bump).exclCores = s.exclCores := rfl
@[simp] theorem State.bump_exclChans (s : State) : (s.bump).exclChans = s.exclChans := rfl
@[simp] theorem State.bump_halfLinks (s : State) : (s.bump).halfLinks = s.halfLinks := rfl
@[simp] theorem State.bump_nib (s : State) : (s.bump).nib = s.nib := rfl
@[simp] theorem State.bump_host (s : State) : (s.bump).host = s.host := rfl
@[simp] theorem State.bump_peers (s : State) : (s.bump).peers = s.peers := rfl
@[simp] theorem State.bump_refCount (s : State) : (s.bump).refCount = s.refCount := rfl
@[simp] theorem State.bump_refPhase (s : State) : (s.bump).refPhase = s.refPhase := rfl
@[simp] theorem State.bump_script (s : State) : (s.bump).script = s.script := rfl
@[simp] theorem State.bump_clocks (s : State) : (s.bump).clocks = s.clocks := rfl
@[simp] theorem State.bump_free (s : State) : (s.bump).free = s.free + 1 := rfl
@[simp] theorem State.bump_hostLog (s : State) : (s.bump).hostLog = s.hostLog := rfl

/-! ### State.issues -/

@[simp] theorem State.issues_core (s : State) : (s.issues).core = { s.core with obs := { s.core.obs with issued := true, wdogCnt := 0 } } := rfl
@[simp] theorem State.issues_here (s : State) : (s.issues).here = s.here := rfl
@[simp] theorem State.issues_others (s : State) : (s.issues).others = s.others := rfl
@[simp] theorem State.issues_dies (s : State) : (s.issues).dies = s.dies := rfl
@[simp] theorem State.issues_dieStore (s : State) : (s.issues).dieStore = s.dieStore := rfl
@[simp] theorem State.issues_main (s : State) : (s.issues).main = s.main := rfl
@[simp] theorem State.issues_seals (s : State) : (s.issues).seals = s.seals := rfl
@[simp] theorem State.issues_remote (s : State) : (s.issues).remote = s.remote := rfl
@[simp] theorem State.issues_locks (s : State) : (s.issues).locks = s.locks := rfl
@[simp] theorem State.issues_parked (s : State) : (s.issues).parked = s.parked := rfl
@[simp] theorem State.issues_entries (s : State) : (s.issues).entries = s.entries := rfl
@[simp] theorem State.issues_barriers (s : State) : (s.issues).barriers = s.barriers := rfl
@[simp] theorem State.issues_barMsgs (s : State) : (s.issues).barMsgs = s.barMsgs := rfl
@[simp] theorem State.issues_keys (s : State) : (s.issues).keys = s.keys := rfl
@[simp] theorem State.issues_keyGen (s : State) : (s.issues).keyGen = s.keyGen := rfl
@[simp] theorem State.issues_parts (s : State) : (s.issues).parts = s.parts := rfl
@[simp] theorem State.issues_chans (s : State) : (s.issues).chans = s.chans := rfl
@[simp] theorem State.issues_chanTab (s : State) : (s.issues).chanTab = s.chanTab := rfl
@[simp] theorem State.issues_fadTab (s : State) : (s.issues).fadTab = s.fadTab := rfl
@[simp] theorem State.issues_fuses (s : State) : (s.issues).fuses = s.fuses := rfl
@[simp] theorem State.issues_exclCores (s : State) : (s.issues).exclCores = s.exclCores := rfl
@[simp] theorem State.issues_exclChans (s : State) : (s.issues).exclChans = s.exclChans := rfl
@[simp] theorem State.issues_halfLinks (s : State) : (s.issues).halfLinks = s.halfLinks := rfl
@[simp] theorem State.issues_nib (s : State) : (s.issues).nib = s.nib := rfl
@[simp] theorem State.issues_host (s : State) : (s.issues).host = s.host := rfl
@[simp] theorem State.issues_peers (s : State) : (s.issues).peers = s.peers := rfl
@[simp] theorem State.issues_refCount (s : State) : (s.issues).refCount = s.refCount := rfl
@[simp] theorem State.issues_refPhase (s : State) : (s.issues).refPhase = s.refPhase := rfl
@[simp] theorem State.issues_script (s : State) : (s.issues).script = s.script := rfl
@[simp] theorem State.issues_clocks (s : State) : (s.issues).clocks = s.clocks := rfl
@[simp] theorem State.issues_free (s : State) : (s.issues).free = s.free := rfl
@[simp] theorem State.issues_hostLog (s : State) : (s.issues).hostLog = s.hostLog := rfl

/-! ### State.setDie -/

@[simp] theorem State.setDie_core (s : State) (d : Nat) (x : Die) : (s.setDie d x).core = s.core := rfl
@[simp] theorem State.setDie_here (s : State) (d : Nat) (x : Die) : (s.setDie d x).here = s.here := rfl
@[simp] theorem State.setDie_others (s : State) (d : Nat) (x : Die) : (s.setDie d x).others = s.others := rfl
@[simp] theorem State.setDie_dies (s : State) (d : Nat) (x : Die) : (s.setDie d x).dies = s.dies.setIfInBounds d x := rfl
@[simp] theorem State.setDie_dieStore (s : State) (d : Nat) (x : Die) : (s.setDie d x).dieStore = s.dieStore := rfl
@[simp] theorem State.setDie_main (s : State) (d : Nat) (x : Die) : (s.setDie d x).main = s.main := rfl
@[simp] theorem State.setDie_seals (s : State) (d : Nat) (x : Die) : (s.setDie d x).seals = s.seals := rfl
@[simp] theorem State.setDie_remote (s : State) (d : Nat) (x : Die) : (s.setDie d x).remote = s.remote := rfl
@[simp] theorem State.setDie_locks (s : State) (d : Nat) (x : Die) : (s.setDie d x).locks = s.locks := rfl
@[simp] theorem State.setDie_parked (s : State) (d : Nat) (x : Die) : (s.setDie d x).parked = s.parked := rfl
@[simp] theorem State.setDie_entries (s : State) (d : Nat) (x : Die) : (s.setDie d x).entries = s.entries := rfl
@[simp] theorem State.setDie_barriers (s : State) (d : Nat) (x : Die) : (s.setDie d x).barriers = s.barriers := rfl
@[simp] theorem State.setDie_barMsgs (s : State) (d : Nat) (x : Die) : (s.setDie d x).barMsgs = s.barMsgs := rfl
@[simp] theorem State.setDie_keys (s : State) (d : Nat) (x : Die) : (s.setDie d x).keys = s.keys := rfl
@[simp] theorem State.setDie_keyGen (s : State) (d : Nat) (x : Die) : (s.setDie d x).keyGen = s.keyGen := rfl
@[simp] theorem State.setDie_parts (s : State) (d : Nat) (x : Die) : (s.setDie d x).parts = s.parts := rfl
@[simp] theorem State.setDie_chans (s : State) (d : Nat) (x : Die) : (s.setDie d x).chans = s.chans := rfl
@[simp] theorem State.setDie_chanTab (s : State) (d : Nat) (x : Die) : (s.setDie d x).chanTab = s.chanTab := rfl
@[simp] theorem State.setDie_fadTab (s : State) (d : Nat) (x : Die) : (s.setDie d x).fadTab = s.fadTab := rfl
@[simp] theorem State.setDie_fuses (s : State) (d : Nat) (x : Die) : (s.setDie d x).fuses = s.fuses := rfl
@[simp] theorem State.setDie_exclCores (s : State) (d : Nat) (x : Die) : (s.setDie d x).exclCores = s.exclCores := rfl
@[simp] theorem State.setDie_exclChans (s : State) (d : Nat) (x : Die) : (s.setDie d x).exclChans = s.exclChans := rfl
@[simp] theorem State.setDie_halfLinks (s : State) (d : Nat) (x : Die) : (s.setDie d x).halfLinks = s.halfLinks := rfl
@[simp] theorem State.setDie_nib (s : State) (d : Nat) (x : Die) : (s.setDie d x).nib = s.nib := rfl
@[simp] theorem State.setDie_host (s : State) (d : Nat) (x : Die) : (s.setDie d x).host = s.host := rfl
@[simp] theorem State.setDie_peers (s : State) (d : Nat) (x : Die) : (s.setDie d x).peers = s.peers := rfl
@[simp] theorem State.setDie_refCount (s : State) (d : Nat) (x : Die) : (s.setDie d x).refCount = s.refCount := rfl
@[simp] theorem State.setDie_refPhase (s : State) (d : Nat) (x : Die) : (s.setDie d x).refPhase = s.refPhase := rfl
@[simp] theorem State.setDie_script (s : State) (d : Nat) (x : Die) : (s.setDie d x).script = s.script := rfl
@[simp] theorem State.setDie_clocks (s : State) (d : Nat) (x : Die) : (s.setDie d x).clocks = s.clocks := rfl
@[simp] theorem State.setDie_free (s : State) (d : Nat) (x : Die) : (s.setDie d x).free = s.free := rfl
@[simp] theorem State.setDie_hostLog (s : State) (d : Nat) (x : Die) : (s.setDie d x).hostLog = s.hostLog := rfl

/-! ### State.modDie -/

@[simp] theorem State.modDie_core (s : State) (d : Nat) (f : Die → Die) : (s.modDie d f).core = s.core := rfl
@[simp] theorem State.modDie_here (s : State) (d : Nat) (f : Die → Die) : (s.modDie d f).here = s.here := rfl
@[simp] theorem State.modDie_others (s : State) (d : Nat) (f : Die → Die) : (s.modDie d f).others = s.others := rfl
@[simp] theorem State.modDie_dies (s : State) (d : Nat) (f : Die → Die) : (s.modDie d f).dies = s.dies.setIfInBounds d (f (s.die d)) := rfl
@[simp] theorem State.modDie_dieStore (s : State) (d : Nat) (f : Die → Die) : (s.modDie d f).dieStore = s.dieStore := rfl
@[simp] theorem State.modDie_main (s : State) (d : Nat) (f : Die → Die) : (s.modDie d f).main = s.main := rfl
@[simp] theorem State.modDie_seals (s : State) (d : Nat) (f : Die → Die) : (s.modDie d f).seals = s.seals := rfl
@[simp] theorem State.modDie_remote (s : State) (d : Nat) (f : Die → Die) : (s.modDie d f).remote = s.remote := rfl
@[simp] theorem State.modDie_locks (s : State) (d : Nat) (f : Die → Die) : (s.modDie d f).locks = s.locks := rfl
@[simp] theorem State.modDie_parked (s : State) (d : Nat) (f : Die → Die) : (s.modDie d f).parked = s.parked := rfl
@[simp] theorem State.modDie_entries (s : State) (d : Nat) (f : Die → Die) : (s.modDie d f).entries = s.entries := rfl
@[simp] theorem State.modDie_barriers (s : State) (d : Nat) (f : Die → Die) : (s.modDie d f).barriers = s.barriers := rfl
@[simp] theorem State.modDie_barMsgs (s : State) (d : Nat) (f : Die → Die) : (s.modDie d f).barMsgs = s.barMsgs := rfl
@[simp] theorem State.modDie_keys (s : State) (d : Nat) (f : Die → Die) : (s.modDie d f).keys = s.keys := rfl
@[simp] theorem State.modDie_keyGen (s : State) (d : Nat) (f : Die → Die) : (s.modDie d f).keyGen = s.keyGen := rfl
@[simp] theorem State.modDie_parts (s : State) (d : Nat) (f : Die → Die) : (s.modDie d f).parts = s.parts := rfl
@[simp] theorem State.modDie_chans (s : State) (d : Nat) (f : Die → Die) : (s.modDie d f).chans = s.chans := rfl
@[simp] theorem State.modDie_chanTab (s : State) (d : Nat) (f : Die → Die) : (s.modDie d f).chanTab = s.chanTab := rfl
@[simp] theorem State.modDie_fadTab (s : State) (d : Nat) (f : Die → Die) : (s.modDie d f).fadTab = s.fadTab := rfl
@[simp] theorem State.modDie_fuses (s : State) (d : Nat) (f : Die → Die) : (s.modDie d f).fuses = s.fuses := rfl
@[simp] theorem State.modDie_exclCores (s : State) (d : Nat) (f : Die → Die) : (s.modDie d f).exclCores = s.exclCores := rfl
@[simp] theorem State.modDie_exclChans (s : State) (d : Nat) (f : Die → Die) : (s.modDie d f).exclChans = s.exclChans := rfl
@[simp] theorem State.modDie_halfLinks (s : State) (d : Nat) (f : Die → Die) : (s.modDie d f).halfLinks = s.halfLinks := rfl
@[simp] theorem State.modDie_nib (s : State) (d : Nat) (f : Die → Die) : (s.modDie d f).nib = s.nib := rfl
@[simp] theorem State.modDie_host (s : State) (d : Nat) (f : Die → Die) : (s.modDie d f).host = s.host := rfl
@[simp] theorem State.modDie_peers (s : State) (d : Nat) (f : Die → Die) : (s.modDie d f).peers = s.peers := rfl
@[simp] theorem State.modDie_refCount (s : State) (d : Nat) (f : Die → Die) : (s.modDie d f).refCount = s.refCount := rfl
@[simp] theorem State.modDie_refPhase (s : State) (d : Nat) (f : Die → Die) : (s.modDie d f).refPhase = s.refPhase := rfl
@[simp] theorem State.modDie_script (s : State) (d : Nat) (f : Die → Die) : (s.modDie d f).script = s.script := rfl
@[simp] theorem State.modDie_clocks (s : State) (d : Nat) (f : Die → Die) : (s.modDie d f).clocks = s.clocks := rfl
@[simp] theorem State.modDie_free (s : State) (d : Nat) (f : Die → Die) : (s.modDie d f).free = s.free := rfl
@[simp] theorem State.modDie_hostLog (s : State) (d : Nat) (f : Die → Die) : (s.modDie d f).hostLog = s.hostLog := rfl

/-! ### State.setPart -/

@[simp] theorem State.setPart_core (s : State) (p : Nat) (x : Part) : (s.setPart p x).core = s.core := rfl
@[simp] theorem State.setPart_here (s : State) (p : Nat) (x : Part) : (s.setPart p x).here = s.here := rfl
@[simp] theorem State.setPart_others (s : State) (p : Nat) (x : Part) : (s.setPart p x).others = s.others := rfl
@[simp] theorem State.setPart_dies (s : State) (p : Nat) (x : Part) : (s.setPart p x).dies = s.dies := rfl
@[simp] theorem State.setPart_dieStore (s : State) (p : Nat) (x : Part) : (s.setPart p x).dieStore = s.dieStore := rfl
@[simp] theorem State.setPart_main (s : State) (p : Nat) (x : Part) : (s.setPart p x).main = s.main := rfl
@[simp] theorem State.setPart_seals (s : State) (p : Nat) (x : Part) : (s.setPart p x).seals = s.seals := rfl
@[simp] theorem State.setPart_remote (s : State) (p : Nat) (x : Part) : (s.setPart p x).remote = s.remote := rfl
@[simp] theorem State.setPart_locks (s : State) (p : Nat) (x : Part) : (s.setPart p x).locks = s.locks := rfl
@[simp] theorem State.setPart_parked (s : State) (p : Nat) (x : Part) : (s.setPart p x).parked = s.parked := rfl
@[simp] theorem State.setPart_entries (s : State) (p : Nat) (x : Part) : (s.setPart p x).entries = s.entries := rfl
@[simp] theorem State.setPart_barriers (s : State) (p : Nat) (x : Part) : (s.setPart p x).barriers = s.barriers := rfl
@[simp] theorem State.setPart_barMsgs (s : State) (p : Nat) (x : Part) : (s.setPart p x).barMsgs = s.barMsgs := rfl
@[simp] theorem State.setPart_keys (s : State) (p : Nat) (x : Part) : (s.setPart p x).keys = s.keys := rfl
@[simp] theorem State.setPart_keyGen (s : State) (p : Nat) (x : Part) : (s.setPart p x).keyGen = s.keyGen := rfl
@[simp] theorem State.setPart_parts (s : State) (p : Nat) (x : Part) : (s.setPart p x).parts = Sparse.put s.parts p x := rfl
@[simp] theorem State.setPart_chans (s : State) (p : Nat) (x : Part) : (s.setPart p x).chans = s.chans := rfl
@[simp] theorem State.setPart_chanTab (s : State) (p : Nat) (x : Part) : (s.setPart p x).chanTab = s.chanTab := rfl
@[simp] theorem State.setPart_fadTab (s : State) (p : Nat) (x : Part) : (s.setPart p x).fadTab = s.fadTab := rfl
@[simp] theorem State.setPart_fuses (s : State) (p : Nat) (x : Part) : (s.setPart p x).fuses = s.fuses := rfl
@[simp] theorem State.setPart_exclCores (s : State) (p : Nat) (x : Part) : (s.setPart p x).exclCores = s.exclCores := rfl
@[simp] theorem State.setPart_exclChans (s : State) (p : Nat) (x : Part) : (s.setPart p x).exclChans = s.exclChans := rfl
@[simp] theorem State.setPart_halfLinks (s : State) (p : Nat) (x : Part) : (s.setPart p x).halfLinks = s.halfLinks := rfl
@[simp] theorem State.setPart_nib (s : State) (p : Nat) (x : Part) : (s.setPart p x).nib = s.nib := rfl
@[simp] theorem State.setPart_host (s : State) (p : Nat) (x : Part) : (s.setPart p x).host = s.host := rfl
@[simp] theorem State.setPart_peers (s : State) (p : Nat) (x : Part) : (s.setPart p x).peers = s.peers := rfl
@[simp] theorem State.setPart_refCount (s : State) (p : Nat) (x : Part) : (s.setPart p x).refCount = s.refCount := rfl
@[simp] theorem State.setPart_refPhase (s : State) (p : Nat) (x : Part) : (s.setPart p x).refPhase = s.refPhase := rfl
@[simp] theorem State.setPart_script (s : State) (p : Nat) (x : Part) : (s.setPart p x).script = s.script := rfl
@[simp] theorem State.setPart_clocks (s : State) (p : Nat) (x : Part) : (s.setPart p x).clocks = s.clocks := rfl
@[simp] theorem State.setPart_free (s : State) (p : Nat) (x : Part) : (s.setPart p x).free = s.free := rfl
@[simp] theorem State.setPart_hostLog (s : State) (p : Nat) (x : Part) : (s.setPart p x).hostLog = s.hostLog := rfl

/-! ### State.modPart -/

@[simp] theorem State.modPart_core (s : State) (p : Nat) (f : Part → Part) : (s.modPart p f).core = s.core := by
  unfold State.modPart; split <;> rfl
@[simp] theorem State.modPart_here (s : State) (p : Nat) (f : Part → Part) : (s.modPart p f).here = s.here := by
  unfold State.modPart; split <;> rfl
@[simp] theorem State.modPart_others (s : State) (p : Nat) (f : Part → Part) : (s.modPart p f).others = s.others := by
  unfold State.modPart; split <;> rfl
@[simp] theorem State.modPart_dies (s : State) (p : Nat) (f : Part → Part) : (s.modPart p f).dies = s.dies := by
  unfold State.modPart; split <;> rfl
@[simp] theorem State.modPart_dieStore (s : State) (p : Nat) (f : Part → Part) : (s.modPart p f).dieStore = s.dieStore := by
  unfold State.modPart; split <;> rfl
@[simp] theorem State.modPart_main (s : State) (p : Nat) (f : Part → Part) : (s.modPart p f).main = s.main := by
  unfold State.modPart; split <;> rfl
@[simp] theorem State.modPart_seals (s : State) (p : Nat) (f : Part → Part) : (s.modPart p f).seals = s.seals := by
  unfold State.modPart; split <;> rfl
@[simp] theorem State.modPart_remote (s : State) (p : Nat) (f : Part → Part) : (s.modPart p f).remote = s.remote := by
  unfold State.modPart; split <;> rfl
@[simp] theorem State.modPart_locks (s : State) (p : Nat) (f : Part → Part) : (s.modPart p f).locks = s.locks := by
  unfold State.modPart; split <;> rfl
@[simp] theorem State.modPart_parked (s : State) (p : Nat) (f : Part → Part) : (s.modPart p f).parked = s.parked := by
  unfold State.modPart; split <;> rfl
@[simp] theorem State.modPart_entries (s : State) (p : Nat) (f : Part → Part) : (s.modPart p f).entries = s.entries := by
  unfold State.modPart; split <;> rfl
@[simp] theorem State.modPart_barriers (s : State) (p : Nat) (f : Part → Part) : (s.modPart p f).barriers = s.barriers := by
  unfold State.modPart; split <;> rfl
@[simp] theorem State.modPart_barMsgs (s : State) (p : Nat) (f : Part → Part) : (s.modPart p f).barMsgs = s.barMsgs := by
  unfold State.modPart; split <;> rfl
@[simp] theorem State.modPart_keys (s : State) (p : Nat) (f : Part → Part) : (s.modPart p f).keys = s.keys := by
  unfold State.modPart; split <;> rfl
@[simp] theorem State.modPart_keyGen (s : State) (p : Nat) (f : Part → Part) : (s.modPart p f).keyGen = s.keyGen := by
  unfold State.modPart; split <;> rfl
@[simp] theorem State.modPart_chans (s : State) (p : Nat) (f : Part → Part) : (s.modPart p f).chans = s.chans := by
  unfold State.modPart; split <;> rfl
@[simp] theorem State.modPart_chanTab (s : State) (p : Nat) (f : Part → Part) : (s.modPart p f).chanTab = s.chanTab := by
  unfold State.modPart; split <;> rfl
@[simp] theorem State.modPart_fadTab (s : State) (p : Nat) (f : Part → Part) : (s.modPart p f).fadTab = s.fadTab := by
  unfold State.modPart; split <;> rfl
@[simp] theorem State.modPart_fuses (s : State) (p : Nat) (f : Part → Part) : (s.modPart p f).fuses = s.fuses := by
  unfold State.modPart; split <;> rfl
@[simp] theorem State.modPart_exclCores (s : State) (p : Nat) (f : Part → Part) : (s.modPart p f).exclCores = s.exclCores := by
  unfold State.modPart; split <;> rfl
@[simp] theorem State.modPart_exclChans (s : State) (p : Nat) (f : Part → Part) : (s.modPart p f).exclChans = s.exclChans := by
  unfold State.modPart; split <;> rfl
@[simp] theorem State.modPart_halfLinks (s : State) (p : Nat) (f : Part → Part) : (s.modPart p f).halfLinks = s.halfLinks := by
  unfold State.modPart; split <;> rfl
@[simp] theorem State.modPart_nib (s : State) (p : Nat) (f : Part → Part) : (s.modPart p f).nib = s.nib := by
  unfold State.modPart; split <;> rfl
@[simp] theorem State.modPart_host (s : State) (p : Nat) (f : Part → Part) : (s.modPart p f).host = s.host := by
  unfold State.modPart; split <;> rfl
@[simp] theorem State.modPart_peers (s : State) (p : Nat) (f : Part → Part) : (s.modPart p f).peers = s.peers := by
  unfold State.modPart; split <;> rfl
@[simp] theorem State.modPart_refCount (s : State) (p : Nat) (f : Part → Part) : (s.modPart p f).refCount = s.refCount := by
  unfold State.modPart; split <;> rfl
@[simp] theorem State.modPart_refPhase (s : State) (p : Nat) (f : Part → Part) : (s.modPart p f).refPhase = s.refPhase := by
  unfold State.modPart; split <;> rfl
@[simp] theorem State.modPart_script (s : State) (p : Nat) (f : Part → Part) : (s.modPart p f).script = s.script := by
  unfold State.modPart; split <;> rfl
@[simp] theorem State.modPart_clocks (s : State) (p : Nat) (f : Part → Part) : (s.modPart p f).clocks = s.clocks := by
  unfold State.modPart; split <;> rfl
@[simp] theorem State.modPart_free (s : State) (p : Nat) (f : Part → Part) : (s.modPart p f).free = s.free := by
  unfold State.modPart; split <;> rfl
@[simp] theorem State.modPart_hostLog (s : State) (p : Nat) (f : Part → Part) : (s.modPart p f).hostLog = s.hostLog := by
  unfold State.modPart; split <;> rfl

/-! ### State.setCore -/

@[simp] theorem State.setCore_here (s : State) (c : Nat) (k : Core) : (s.setCore c k).here = s.here := by
  unfold State.setCore; split <;> rfl
@[simp] theorem State.setCore_dies (s : State) (c : Nat) (k : Core) : (s.setCore c k).dies = s.dies := by
  unfold State.setCore; split <;> rfl
@[simp] theorem State.setCore_dieStore (s : State) (c : Nat) (k : Core) : (s.setCore c k).dieStore = s.dieStore := by
  unfold State.setCore; split <;> rfl
@[simp] theorem State.setCore_main (s : State) (c : Nat) (k : Core) : (s.setCore c k).main = s.main := by
  unfold State.setCore; split <;> rfl
@[simp] theorem State.setCore_seals (s : State) (c : Nat) (k : Core) : (s.setCore c k).seals = s.seals := by
  unfold State.setCore; split <;> rfl
@[simp] theorem State.setCore_remote (s : State) (c : Nat) (k : Core) : (s.setCore c k).remote = s.remote := by
  unfold State.setCore; split <;> rfl
@[simp] theorem State.setCore_locks (s : State) (c : Nat) (k : Core) : (s.setCore c k).locks = s.locks := by
  unfold State.setCore; split <;> rfl
@[simp] theorem State.setCore_parked (s : State) (c : Nat) (k : Core) : (s.setCore c k).parked = s.parked := by
  unfold State.setCore; split <;> rfl
@[simp] theorem State.setCore_entries (s : State) (c : Nat) (k : Core) : (s.setCore c k).entries = s.entries := by
  unfold State.setCore; split <;> rfl
@[simp] theorem State.setCore_barriers (s : State) (c : Nat) (k : Core) : (s.setCore c k).barriers = s.barriers := by
  unfold State.setCore; split <;> rfl
@[simp] theorem State.setCore_barMsgs (s : State) (c : Nat) (k : Core) : (s.setCore c k).barMsgs = s.barMsgs := by
  unfold State.setCore; split <;> rfl
@[simp] theorem State.setCore_keys (s : State) (c : Nat) (k : Core) : (s.setCore c k).keys = s.keys := by
  unfold State.setCore; split <;> rfl
@[simp] theorem State.setCore_keyGen (s : State) (c : Nat) (k : Core) : (s.setCore c k).keyGen = s.keyGen := by
  unfold State.setCore; split <;> rfl
@[simp] theorem State.setCore_parts (s : State) (c : Nat) (k : Core) : (s.setCore c k).parts = s.parts := by
  unfold State.setCore; split <;> rfl
@[simp] theorem State.setCore_chans (s : State) (c : Nat) (k : Core) : (s.setCore c k).chans = s.chans := by
  unfold State.setCore; split <;> rfl
@[simp] theorem State.setCore_chanTab (s : State) (c : Nat) (k : Core) : (s.setCore c k).chanTab = s.chanTab := by
  unfold State.setCore; split <;> rfl
@[simp] theorem State.setCore_fadTab (s : State) (c : Nat) (k : Core) : (s.setCore c k).fadTab = s.fadTab := by
  unfold State.setCore; split <;> rfl
@[simp] theorem State.setCore_fuses (s : State) (c : Nat) (k : Core) : (s.setCore c k).fuses = s.fuses := by
  unfold State.setCore; split <;> rfl
@[simp] theorem State.setCore_exclCores (s : State) (c : Nat) (k : Core) : (s.setCore c k).exclCores = s.exclCores := by
  unfold State.setCore; split <;> rfl
@[simp] theorem State.setCore_exclChans (s : State) (c : Nat) (k : Core) : (s.setCore c k).exclChans = s.exclChans := by
  unfold State.setCore; split <;> rfl
@[simp] theorem State.setCore_halfLinks (s : State) (c : Nat) (k : Core) : (s.setCore c k).halfLinks = s.halfLinks := by
  unfold State.setCore; split <;> rfl
@[simp] theorem State.setCore_nib (s : State) (c : Nat) (k : Core) : (s.setCore c k).nib = s.nib := by
  unfold State.setCore; split <;> rfl
@[simp] theorem State.setCore_host (s : State) (c : Nat) (k : Core) : (s.setCore c k).host = s.host := by
  unfold State.setCore; split <;> rfl
@[simp] theorem State.setCore_peers (s : State) (c : Nat) (k : Core) : (s.setCore c k).peers = s.peers := by
  unfold State.setCore; split <;> rfl
@[simp] theorem State.setCore_refCount (s : State) (c : Nat) (k : Core) : (s.setCore c k).refCount = s.refCount := by
  unfold State.setCore; split <;> rfl
@[simp] theorem State.setCore_refPhase (s : State) (c : Nat) (k : Core) : (s.setCore c k).refPhase = s.refPhase := by
  unfold State.setCore; split <;> rfl
@[simp] theorem State.setCore_script (s : State) (c : Nat) (k : Core) : (s.setCore c k).script = s.script := by
  unfold State.setCore; split <;> rfl
@[simp] theorem State.setCore_clocks (s : State) (c : Nat) (k : Core) : (s.setCore c k).clocks = s.clocks := by
  unfold State.setCore; split <;> rfl
@[simp] theorem State.setCore_free (s : State) (c : Nat) (k : Core) : (s.setCore c k).free = s.free := by
  unfold State.setCore; split <;> rfl
@[simp] theorem State.setCore_hostLog (s : State) (c : Nat) (k : Core) : (s.setCore c k).hostLog = s.hostLog := by
  unfold State.setCore; split <;> rfl

/-! ### State.modCore -/

@[simp] theorem State.modCore_here (s : State) (c : Nat) (f : Core → Core) : (s.modCore c f).here = s.here := by
  unfold State.modCore State.setCore; split <;> rfl
@[simp] theorem State.modCore_dies (s : State) (c : Nat) (f : Core → Core) : (s.modCore c f).dies = s.dies := by
  unfold State.modCore State.setCore; split <;> rfl
@[simp] theorem State.modCore_dieStore (s : State) (c : Nat) (f : Core → Core) : (s.modCore c f).dieStore = s.dieStore := by
  unfold State.modCore State.setCore; split <;> rfl
@[simp] theorem State.modCore_main (s : State) (c : Nat) (f : Core → Core) : (s.modCore c f).main = s.main := by
  unfold State.modCore State.setCore; split <;> rfl
@[simp] theorem State.modCore_seals (s : State) (c : Nat) (f : Core → Core) : (s.modCore c f).seals = s.seals := by
  unfold State.modCore State.setCore; split <;> rfl
@[simp] theorem State.modCore_remote (s : State) (c : Nat) (f : Core → Core) : (s.modCore c f).remote = s.remote := by
  unfold State.modCore State.setCore; split <;> rfl
@[simp] theorem State.modCore_locks (s : State) (c : Nat) (f : Core → Core) : (s.modCore c f).locks = s.locks := by
  unfold State.modCore State.setCore; split <;> rfl
@[simp] theorem State.modCore_parked (s : State) (c : Nat) (f : Core → Core) : (s.modCore c f).parked = s.parked := by
  unfold State.modCore State.setCore; split <;> rfl
@[simp] theorem State.modCore_entries (s : State) (c : Nat) (f : Core → Core) : (s.modCore c f).entries = s.entries := by
  unfold State.modCore State.setCore; split <;> rfl
@[simp] theorem State.modCore_barriers (s : State) (c : Nat) (f : Core → Core) : (s.modCore c f).barriers = s.barriers := by
  unfold State.modCore State.setCore; split <;> rfl
@[simp] theorem State.modCore_barMsgs (s : State) (c : Nat) (f : Core → Core) : (s.modCore c f).barMsgs = s.barMsgs := by
  unfold State.modCore State.setCore; split <;> rfl
@[simp] theorem State.modCore_keys (s : State) (c : Nat) (f : Core → Core) : (s.modCore c f).keys = s.keys := by
  unfold State.modCore State.setCore; split <;> rfl
@[simp] theorem State.modCore_keyGen (s : State) (c : Nat) (f : Core → Core) : (s.modCore c f).keyGen = s.keyGen := by
  unfold State.modCore State.setCore; split <;> rfl
@[simp] theorem State.modCore_parts (s : State) (c : Nat) (f : Core → Core) : (s.modCore c f).parts = s.parts := by
  unfold State.modCore State.setCore; split <;> rfl
@[simp] theorem State.modCore_chans (s : State) (c : Nat) (f : Core → Core) : (s.modCore c f).chans = s.chans := by
  unfold State.modCore State.setCore; split <;> rfl
@[simp] theorem State.modCore_chanTab (s : State) (c : Nat) (f : Core → Core) : (s.modCore c f).chanTab = s.chanTab := by
  unfold State.modCore State.setCore; split <;> rfl
@[simp] theorem State.modCore_fadTab (s : State) (c : Nat) (f : Core → Core) : (s.modCore c f).fadTab = s.fadTab := by
  unfold State.modCore State.setCore; split <;> rfl
@[simp] theorem State.modCore_fuses (s : State) (c : Nat) (f : Core → Core) : (s.modCore c f).fuses = s.fuses := by
  unfold State.modCore State.setCore; split <;> rfl
@[simp] theorem State.modCore_exclCores (s : State) (c : Nat) (f : Core → Core) : (s.modCore c f).exclCores = s.exclCores := by
  unfold State.modCore State.setCore; split <;> rfl
@[simp] theorem State.modCore_exclChans (s : State) (c : Nat) (f : Core → Core) : (s.modCore c f).exclChans = s.exclChans := by
  unfold State.modCore State.setCore; split <;> rfl
@[simp] theorem State.modCore_halfLinks (s : State) (c : Nat) (f : Core → Core) : (s.modCore c f).halfLinks = s.halfLinks := by
  unfold State.modCore State.setCore; split <;> rfl
@[simp] theorem State.modCore_nib (s : State) (c : Nat) (f : Core → Core) : (s.modCore c f).nib = s.nib := by
  unfold State.modCore State.setCore; split <;> rfl
@[simp] theorem State.modCore_host (s : State) (c : Nat) (f : Core → Core) : (s.modCore c f).host = s.host := by
  unfold State.modCore State.setCore; split <;> rfl
@[simp] theorem State.modCore_peers (s : State) (c : Nat) (f : Core → Core) : (s.modCore c f).peers = s.peers := by
  unfold State.modCore State.setCore; split <;> rfl
@[simp] theorem State.modCore_refCount (s : State) (c : Nat) (f : Core → Core) : (s.modCore c f).refCount = s.refCount := by
  unfold State.modCore State.setCore; split <;> rfl
@[simp] theorem State.modCore_refPhase (s : State) (c : Nat) (f : Core → Core) : (s.modCore c f).refPhase = s.refPhase := by
  unfold State.modCore State.setCore; split <;> rfl
@[simp] theorem State.modCore_script (s : State) (c : Nat) (f : Core → Core) : (s.modCore c f).script = s.script := by
  unfold State.modCore State.setCore; split <;> rfl
@[simp] theorem State.modCore_clocks (s : State) (c : Nat) (f : Core → Core) : (s.modCore c f).clocks = s.clocks := by
  unfold State.modCore State.setCore; split <;> rfl
@[simp] theorem State.modCore_free (s : State) (c : Nat) (f : Core → Core) : (s.modCore c f).free = s.free := by
  unfold State.modCore State.setCore; split <;> rfl
@[simp] theorem State.modCore_hostLog (s : State) (c : Nat) (f : Core → Core) : (s.modCore c f).hostLog = s.hostLog := by
  unfold State.modCore State.setCore; split <;> rfl

/-! ### State.focus -/

@[simp] theorem State.focus_dies (s : State) (c : Nat) : (s.focus c).dies = s.dies := by
  unfold State.focus; split <;> rfl
@[simp] theorem State.focus_dieStore (s : State) (c : Nat) : (s.focus c).dieStore = s.dieStore := by
  unfold State.focus; split <;> rfl
@[simp] theorem State.focus_main (s : State) (c : Nat) : (s.focus c).main = s.main := by
  unfold State.focus; split <;> rfl
@[simp] theorem State.focus_seals (s : State) (c : Nat) : (s.focus c).seals = s.seals := by
  unfold State.focus; split <;> rfl
@[simp] theorem State.focus_remote (s : State) (c : Nat) : (s.focus c).remote = s.remote := by
  unfold State.focus; split <;> rfl
@[simp] theorem State.focus_locks (s : State) (c : Nat) : (s.focus c).locks = s.locks := by
  unfold State.focus; split <;> rfl
@[simp] theorem State.focus_parked (s : State) (c : Nat) : (s.focus c).parked = s.parked := by
  unfold State.focus; split <;> rfl
@[simp] theorem State.focus_entries (s : State) (c : Nat) : (s.focus c).entries = s.entries := by
  unfold State.focus; split <;> rfl
@[simp] theorem State.focus_barriers (s : State) (c : Nat) : (s.focus c).barriers = s.barriers := by
  unfold State.focus; split <;> rfl
@[simp] theorem State.focus_barMsgs (s : State) (c : Nat) : (s.focus c).barMsgs = s.barMsgs := by
  unfold State.focus; split <;> rfl
@[simp] theorem State.focus_keys (s : State) (c : Nat) : (s.focus c).keys = s.keys := by
  unfold State.focus; split <;> rfl
@[simp] theorem State.focus_keyGen (s : State) (c : Nat) : (s.focus c).keyGen = s.keyGen := by
  unfold State.focus; split <;> rfl
@[simp] theorem State.focus_parts (s : State) (c : Nat) : (s.focus c).parts = s.parts := by
  unfold State.focus; split <;> rfl
@[simp] theorem State.focus_chans (s : State) (c : Nat) : (s.focus c).chans = s.chans := by
  unfold State.focus; split <;> rfl
@[simp] theorem State.focus_chanTab (s : State) (c : Nat) : (s.focus c).chanTab = s.chanTab := by
  unfold State.focus; split <;> rfl
@[simp] theorem State.focus_fadTab (s : State) (c : Nat) : (s.focus c).fadTab = s.fadTab := by
  unfold State.focus; split <;> rfl
@[simp] theorem State.focus_fuses (s : State) (c : Nat) : (s.focus c).fuses = s.fuses := by
  unfold State.focus; split <;> rfl
@[simp] theorem State.focus_exclCores (s : State) (c : Nat) : (s.focus c).exclCores = s.exclCores := by
  unfold State.focus; split <;> rfl
@[simp] theorem State.focus_exclChans (s : State) (c : Nat) : (s.focus c).exclChans = s.exclChans := by
  unfold State.focus; split <;> rfl
@[simp] theorem State.focus_halfLinks (s : State) (c : Nat) : (s.focus c).halfLinks = s.halfLinks := by
  unfold State.focus; split <;> rfl
@[simp] theorem State.focus_nib (s : State) (c : Nat) : (s.focus c).nib = s.nib := by
  unfold State.focus; split <;> rfl
@[simp] theorem State.focus_host (s : State) (c : Nat) : (s.focus c).host = s.host := by
  unfold State.focus; split <;> rfl
@[simp] theorem State.focus_peers (s : State) (c : Nat) : (s.focus c).peers = s.peers := by
  unfold State.focus; split <;> rfl
@[simp] theorem State.focus_refCount (s : State) (c : Nat) : (s.focus c).refCount = s.refCount := by
  unfold State.focus; split <;> rfl
@[simp] theorem State.focus_refPhase (s : State) (c : Nat) : (s.focus c).refPhase = s.refPhase := by
  unfold State.focus; split <;> rfl
@[simp] theorem State.focus_script (s : State) (c : Nat) : (s.focus c).script = s.script := by
  unfold State.focus; split <;> rfl
@[simp] theorem State.focus_clocks (s : State) (c : Nat) : (s.focus c).clocks = s.clocks := by
  unfold State.focus; split <;> rfl
@[simp] theorem State.focus_free (s : State) (c : Nat) : (s.focus c).free = s.free := by
  unfold State.focus; split <;> rfl
@[simp] theorem State.focus_hostLog (s : State) (c : Nat) : (s.focus c).hostLog = s.hostLog := by
  unfold State.focus; split <;> rfl

@[simp] theorem State.focus_here (s : State) (c : Nat) : (s.focus c).here = c := by
  unfold State.focus; split
  · next h => exact h.symm
  · rfl

/-! ### State.setDieBlock -/

@[simp] theorem State.setDieBlock_core (s : State) (ms : Nat → List Nat) (n : Nat) (b : Store) : (s.setDieBlock ms n b).core = s.core := by
  simp only [State.setDieBlock]
@[simp] theorem State.setDieBlock_here (s : State) (ms : Nat → List Nat) (n : Nat) (b : Store) : (s.setDieBlock ms n b).here = s.here := by
  simp only [State.setDieBlock]
@[simp] theorem State.setDieBlock_others (s : State) (ms : Nat → List Nat) (n : Nat) (b : Store) : (s.setDieBlock ms n b).others = s.others := by
  simp only [State.setDieBlock]
@[simp] theorem State.setDieBlock_dies (s : State) (ms : Nat → List Nat) (n : Nat) (b : Store) : (s.setDieBlock ms n b).dies = s.dies := by
  simp only [State.setDieBlock]
@[simp] theorem State.setDieBlock_dieStore (s : State) (ms : Nat → List Nat) (n : Nat) (b : Store) : (s.setDieBlock ms n b).dieStore = scatterDie ms n b 32 s.dieStore := by
  simp only [State.setDieBlock]
@[simp] theorem State.setDieBlock_main (s : State) (ms : Nat → List Nat) (n : Nat) (b : Store) : (s.setDieBlock ms n b).main = s.main := by
  simp only [State.setDieBlock]
@[simp] theorem State.setDieBlock_seals (s : State) (ms : Nat → List Nat) (n : Nat) (b : Store) : (s.setDieBlock ms n b).seals = s.seals := by
  simp only [State.setDieBlock]
@[simp] theorem State.setDieBlock_remote (s : State) (ms : Nat → List Nat) (n : Nat) (b : Store) : (s.setDieBlock ms n b).remote = s.remote := by
  simp only [State.setDieBlock]
@[simp] theorem State.setDieBlock_locks (s : State) (ms : Nat → List Nat) (n : Nat) (b : Store) : (s.setDieBlock ms n b).locks = s.locks := by
  simp only [State.setDieBlock]
@[simp] theorem State.setDieBlock_parked (s : State) (ms : Nat → List Nat) (n : Nat) (b : Store) : (s.setDieBlock ms n b).parked = s.parked := by
  simp only [State.setDieBlock]
@[simp] theorem State.setDieBlock_entries (s : State) (ms : Nat → List Nat) (n : Nat) (b : Store) : (s.setDieBlock ms n b).entries = s.entries := by
  simp only [State.setDieBlock]
@[simp] theorem State.setDieBlock_barriers (s : State) (ms : Nat → List Nat) (n : Nat) (b : Store) : (s.setDieBlock ms n b).barriers = s.barriers := by
  simp only [State.setDieBlock]
@[simp] theorem State.setDieBlock_barMsgs (s : State) (ms : Nat → List Nat) (n : Nat) (b : Store) : (s.setDieBlock ms n b).barMsgs = s.barMsgs := by
  simp only [State.setDieBlock]
@[simp] theorem State.setDieBlock_keys (s : State) (ms : Nat → List Nat) (n : Nat) (b : Store) : (s.setDieBlock ms n b).keys = s.keys := by
  simp only [State.setDieBlock]
@[simp] theorem State.setDieBlock_keyGen (s : State) (ms : Nat → List Nat) (n : Nat) (b : Store) : (s.setDieBlock ms n b).keyGen = s.keyGen := by
  simp only [State.setDieBlock]
@[simp] theorem State.setDieBlock_parts (s : State) (ms : Nat → List Nat) (n : Nat) (b : Store) : (s.setDieBlock ms n b).parts = s.parts := by
  simp only [State.setDieBlock]
@[simp] theorem State.setDieBlock_chans (s : State) (ms : Nat → List Nat) (n : Nat) (b : Store) : (s.setDieBlock ms n b).chans = s.chans := by
  simp only [State.setDieBlock]
@[simp] theorem State.setDieBlock_chanTab (s : State) (ms : Nat → List Nat) (n : Nat) (b : Store) : (s.setDieBlock ms n b).chanTab = s.chanTab := by
  simp only [State.setDieBlock]
@[simp] theorem State.setDieBlock_fadTab (s : State) (ms : Nat → List Nat) (n : Nat) (b : Store) : (s.setDieBlock ms n b).fadTab = s.fadTab := by
  simp only [State.setDieBlock]
@[simp] theorem State.setDieBlock_fuses (s : State) (ms : Nat → List Nat) (n : Nat) (b : Store) : (s.setDieBlock ms n b).fuses = s.fuses := by
  simp only [State.setDieBlock]
@[simp] theorem State.setDieBlock_exclCores (s : State) (ms : Nat → List Nat) (n : Nat) (b : Store) : (s.setDieBlock ms n b).exclCores = s.exclCores := by
  simp only [State.setDieBlock]
@[simp] theorem State.setDieBlock_exclChans (s : State) (ms : Nat → List Nat) (n : Nat) (b : Store) : (s.setDieBlock ms n b).exclChans = s.exclChans := by
  simp only [State.setDieBlock]
@[simp] theorem State.setDieBlock_halfLinks (s : State) (ms : Nat → List Nat) (n : Nat) (b : Store) : (s.setDieBlock ms n b).halfLinks = s.halfLinks := by
  simp only [State.setDieBlock]
@[simp] theorem State.setDieBlock_nib (s : State) (ms : Nat → List Nat) (n : Nat) (b : Store) : (s.setDieBlock ms n b).nib = s.nib := by
  simp only [State.setDieBlock]
@[simp] theorem State.setDieBlock_host (s : State) (ms : Nat → List Nat) (n : Nat) (b : Store) : (s.setDieBlock ms n b).host = s.host := by
  simp only [State.setDieBlock]
@[simp] theorem State.setDieBlock_peers (s : State) (ms : Nat → List Nat) (n : Nat) (b : Store) : (s.setDieBlock ms n b).peers = s.peers := by
  simp only [State.setDieBlock]
@[simp] theorem State.setDieBlock_refCount (s : State) (ms : Nat → List Nat) (n : Nat) (b : Store) : (s.setDieBlock ms n b).refCount = s.refCount := by
  simp only [State.setDieBlock]
@[simp] theorem State.setDieBlock_refPhase (s : State) (ms : Nat → List Nat) (n : Nat) (b : Store) : (s.setDieBlock ms n b).refPhase = s.refPhase := by
  simp only [State.setDieBlock]
@[simp] theorem State.setDieBlock_script (s : State) (ms : Nat → List Nat) (n : Nat) (b : Store) : (s.setDieBlock ms n b).script = s.script := by
  simp only [State.setDieBlock]
@[simp] theorem State.setDieBlock_clocks (s : State) (ms : Nat → List Nat) (n : Nat) (b : Store) : (s.setDieBlock ms n b).clocks = s.clocks := by
  simp only [State.setDieBlock]
@[simp] theorem State.setDieBlock_free (s : State) (ms : Nat → List Nat) (n : Nat) (b : Store) : (s.setDieBlock ms n b).free = s.free := by
  simp only [State.setDieBlock]
@[simp] theorem State.setDieBlock_hostLog (s : State) (ms : Nat → List Nat) (n : Nat) (b : Store) : (s.setDieBlock ms n b).hostLog = s.hostLog := by
  simp only [State.setDieBlock]

/-! ### State.tell -/

@[simp] theorem State.tell_core (s : State) (m : HostMsg) : (s.tell m).core = s.core := rfl
@[simp] theorem State.tell_here (s : State) (m : HostMsg) : (s.tell m).here = s.here := rfl
@[simp] theorem State.tell_others (s : State) (m : HostMsg) : (s.tell m).others = s.others := rfl
@[simp] theorem State.tell_dies (s : State) (m : HostMsg) : (s.tell m).dies = s.dies := rfl
@[simp] theorem State.tell_dieStore (s : State) (m : HostMsg) : (s.tell m).dieStore = s.dieStore := rfl
@[simp] theorem State.tell_main (s : State) (m : HostMsg) : (s.tell m).main = s.main := rfl
@[simp] theorem State.tell_seals (s : State) (m : HostMsg) : (s.tell m).seals = s.seals := rfl
@[simp] theorem State.tell_remote (s : State) (m : HostMsg) : (s.tell m).remote = s.remote := rfl
@[simp] theorem State.tell_locks (s : State) (m : HostMsg) : (s.tell m).locks = s.locks := rfl
@[simp] theorem State.tell_parked (s : State) (m : HostMsg) : (s.tell m).parked = s.parked := rfl
@[simp] theorem State.tell_entries (s : State) (m : HostMsg) : (s.tell m).entries = s.entries := rfl
@[simp] theorem State.tell_barriers (s : State) (m : HostMsg) : (s.tell m).barriers = s.barriers := rfl
@[simp] theorem State.tell_barMsgs (s : State) (m : HostMsg) : (s.tell m).barMsgs = s.barMsgs := rfl
@[simp] theorem State.tell_keys (s : State) (m : HostMsg) : (s.tell m).keys = s.keys := rfl
@[simp] theorem State.tell_keyGen (s : State) (m : HostMsg) : (s.tell m).keyGen = s.keyGen := rfl
@[simp] theorem State.tell_parts (s : State) (m : HostMsg) : (s.tell m).parts = s.parts := rfl
@[simp] theorem State.tell_chans (s : State) (m : HostMsg) : (s.tell m).chans = s.chans := rfl
@[simp] theorem State.tell_chanTab (s : State) (m : HostMsg) : (s.tell m).chanTab = s.chanTab := rfl
@[simp] theorem State.tell_fadTab (s : State) (m : HostMsg) : (s.tell m).fadTab = s.fadTab := rfl
@[simp] theorem State.tell_fuses (s : State) (m : HostMsg) : (s.tell m).fuses = s.fuses := rfl
@[simp] theorem State.tell_exclCores (s : State) (m : HostMsg) : (s.tell m).exclCores = s.exclCores := rfl
@[simp] theorem State.tell_exclChans (s : State) (m : HostMsg) : (s.tell m).exclChans = s.exclChans := rfl
@[simp] theorem State.tell_halfLinks (s : State) (m : HostMsg) : (s.tell m).halfLinks = s.halfLinks := rfl
@[simp] theorem State.tell_nib (s : State) (m : HostMsg) : (s.tell m).nib = s.nib := rfl
@[simp] theorem State.tell_host (s : State) (m : HostMsg) : (s.tell m).host = s.host := rfl
@[simp] theorem State.tell_peers (s : State) (m : HostMsg) : (s.tell m).peers = s.peers := rfl
@[simp] theorem State.tell_refCount (s : State) (m : HostMsg) : (s.tell m).refCount = s.refCount := rfl
@[simp] theorem State.tell_refPhase (s : State) (m : HostMsg) : (s.tell m).refPhase = s.refPhase := rfl
@[simp] theorem State.tell_script (s : State) (m : HostMsg) : (s.tell m).script = s.script := rfl
@[simp] theorem State.tell_clocks (s : State) (m : HostMsg) : (s.tell m).clocks = s.clocks := rfl
@[simp] theorem State.tell_free (s : State) (m : HostMsg) : (s.tell m).free = s.free := rfl
@[simp] theorem State.tell_hostLog (s : State) (m : HostMsg) : (s.tell m).hostLog = s.hostLog ++ [m] := rfl

/-! ### State.setPeer -/

@[simp] theorem State.setPeer_core (s : State) (p : Peer) : (s.setPeer p).core = s.core := rfl
@[simp] theorem State.setPeer_here (s : State) (p : Peer) : (s.setPeer p).here = s.here := rfl
@[simp] theorem State.setPeer_others (s : State) (p : Peer) : (s.setPeer p).others = s.others := rfl
@[simp] theorem State.setPeer_dies (s : State) (p : Peer) : (s.setPeer p).dies = s.dies := rfl
@[simp] theorem State.setPeer_dieStore (s : State) (p : Peer) : (s.setPeer p).dieStore = s.dieStore := rfl
@[simp] theorem State.setPeer_main (s : State) (p : Peer) : (s.setPeer p).main = s.main := rfl
@[simp] theorem State.setPeer_seals (s : State) (p : Peer) : (s.setPeer p).seals = s.seals := rfl
@[simp] theorem State.setPeer_remote (s : State) (p : Peer) : (s.setPeer p).remote = s.remote := rfl
@[simp] theorem State.setPeer_locks (s : State) (p : Peer) : (s.setPeer p).locks = s.locks := rfl
@[simp] theorem State.setPeer_parked (s : State) (p : Peer) : (s.setPeer p).parked = s.parked := rfl
@[simp] theorem State.setPeer_entries (s : State) (p : Peer) : (s.setPeer p).entries = s.entries := rfl
@[simp] theorem State.setPeer_barriers (s : State) (p : Peer) : (s.setPeer p).barriers = s.barriers := rfl
@[simp] theorem State.setPeer_barMsgs (s : State) (p : Peer) : (s.setPeer p).barMsgs = s.barMsgs := rfl
@[simp] theorem State.setPeer_keys (s : State) (p : Peer) : (s.setPeer p).keys = s.keys := rfl
@[simp] theorem State.setPeer_keyGen (s : State) (p : Peer) : (s.setPeer p).keyGen = s.keyGen := rfl
@[simp] theorem State.setPeer_parts (s : State) (p : Peer) : (s.setPeer p).parts = s.parts := rfl
@[simp] theorem State.setPeer_chans (s : State) (p : Peer) : (s.setPeer p).chans = s.chans := rfl
@[simp] theorem State.setPeer_chanTab (s : State) (p : Peer) : (s.setPeer p).chanTab = s.chanTab := rfl
@[simp] theorem State.setPeer_fadTab (s : State) (p : Peer) : (s.setPeer p).fadTab = s.fadTab := rfl
@[simp] theorem State.setPeer_fuses (s : State) (p : Peer) : (s.setPeer p).fuses = s.fuses := rfl
@[simp] theorem State.setPeer_exclCores (s : State) (p : Peer) : (s.setPeer p).exclCores = s.exclCores := rfl
@[simp] theorem State.setPeer_exclChans (s : State) (p : Peer) : (s.setPeer p).exclChans = s.exclChans := rfl
@[simp] theorem State.setPeer_halfLinks (s : State) (p : Peer) : (s.setPeer p).halfLinks = s.halfLinks := rfl
@[simp] theorem State.setPeer_nib (s : State) (p : Peer) : (s.setPeer p).nib = s.nib := rfl
@[simp] theorem State.setPeer_host (s : State) (p : Peer) : (s.setPeer p).host = s.host := rfl
@[simp] theorem State.setPeer_peers (s : State) (p : Peer) : (s.setPeer p).peers = p :: s.peers.filter (fun x => x.pkg != p.pkg) := rfl
@[simp] theorem State.setPeer_refCount (s : State) (p : Peer) : (s.setPeer p).refCount = s.refCount := rfl
@[simp] theorem State.setPeer_refPhase (s : State) (p : Peer) : (s.setPeer p).refPhase = s.refPhase := rfl
@[simp] theorem State.setPeer_script (s : State) (p : Peer) : (s.setPeer p).script = s.script := rfl
@[simp] theorem State.setPeer_clocks (s : State) (p : Peer) : (s.setPeer p).clocks = s.clocks := rfl
@[simp] theorem State.setPeer_free (s : State) (p : Peer) : (s.setPeer p).free = s.free := rfl
@[simp] theorem State.setPeer_hostLog (s : State) (p : Peer) : (s.setPeer p).hostLog = s.hostLog := rfl

/-! ### Core.setEng -/

@[simp] theorem Core.setEng_seq (c : Core) (e : Stream) (x : Engine) : (c.setEng e x).seq = c.seq := by
  cases e <;> rfl
@[simp] theorem Core.setEng_fences (c : Core) (e : Stream) (x : Engine) : (c.setEng e x).fences = c.fences := by
  cases e <;> rfl
@[simp] theorem Core.setEng_vec (c : Core) (e : Stream) (x : Engine) : (c.setEng e x).vec = c.vec := by
  cases e <;> rfl
@[simp] theorem Core.setEng_mat (c : Core) (e : Stream) (x : Engine) : (c.setEng e x).mat = c.mat := by
  cases e <;> rfl
@[simp] theorem Core.setEng_x (c : Core) (e : Stream) (x : Engine) : (c.setEng e x).x = c.x := by
  cases e <;> rfl
@[simp] theorem Core.setEng_near (c : Core) (e : Stream) (x : Engine) : (c.setEng e x).near = c.near := by
  cases e <;> rfl
@[simp] theorem Core.setEng_cur (c : Core) (e : Stream) (x : Engine) : (c.setEng e x).cur = c.cur := by
  cases e <;> rfl
@[simp] theorem Core.setEng_shd (c : Core) (e : Stream) (x : Engine) : (c.setEng e x).shd = c.shd := by
  cases e <;> rfl
@[simp] theorem Core.setEng_share (c : Core) (e : Stream) (x : Engine) : (c.setEng e x).share = c.share := by
  cases e <;> rfl
@[simp] theorem Core.setEng_saved (c : Core) (e : Stream) (x : Engine) : (c.setEng e x).saved = c.saved := by
  cases e <;> rfl
@[simp] theorem Core.setEng_tlb (c : Core) (e : Stream) (x : Engine) : (c.setEng e x).tlb = c.tlb := by
  cases e <;> rfl
@[simp] theorem Core.setEng_badReg (c : Core) (e : Stream) (x : Engine) : (c.setEng e x).badReg = c.badReg := by
  cases e <;> rfl
@[simp] theorem Core.setEng_obs (c : Core) (e : Stream) (x : Engine) : (c.setEng e x).obs = c.obs := by
  cases e <;> rfl

/-! ### Core.modEng -/

@[simp] theorem Core.modEng_seq (c : Core) (e : Stream) (f : Engine → Engine) : (c.modEng e f).seq = c.seq := by
  cases e <;> rfl
@[simp] theorem Core.modEng_fences (c : Core) (e : Stream) (f : Engine → Engine) : (c.modEng e f).fences = c.fences := by
  cases e <;> rfl
@[simp] theorem Core.modEng_vec (c : Core) (e : Stream) (f : Engine → Engine) : (c.modEng e f).vec = c.vec := by
  cases e <;> rfl
@[simp] theorem Core.modEng_mat (c : Core) (e : Stream) (f : Engine → Engine) : (c.modEng e f).mat = c.mat := by
  cases e <;> rfl
@[simp] theorem Core.modEng_x (c : Core) (e : Stream) (f : Engine → Engine) : (c.modEng e f).x = c.x := by
  cases e <;> rfl
@[simp] theorem Core.modEng_near (c : Core) (e : Stream) (f : Engine → Engine) : (c.modEng e f).near = c.near := by
  cases e <;> rfl
@[simp] theorem Core.modEng_cur (c : Core) (e : Stream) (f : Engine → Engine) : (c.modEng e f).cur = c.cur := by
  cases e <;> rfl
@[simp] theorem Core.modEng_shd (c : Core) (e : Stream) (f : Engine → Engine) : (c.modEng e f).shd = c.shd := by
  cases e <;> rfl
@[simp] theorem Core.modEng_share (c : Core) (e : Stream) (f : Engine → Engine) : (c.modEng e f).share = c.share := by
  cases e <;> rfl
@[simp] theorem Core.modEng_saved (c : Core) (e : Stream) (f : Engine → Engine) : (c.modEng e f).saved = c.saved := by
  cases e <;> rfl
@[simp] theorem Core.modEng_tlb (c : Core) (e : Stream) (f : Engine → Engine) : (c.modEng e f).tlb = c.tlb := by
  cases e <;> rfl
@[simp] theorem Core.modEng_badReg (c : Core) (e : Stream) (f : Engine → Engine) : (c.modEng e f).badReg = c.badReg := by
  cases e <;> rfl
@[simp] theorem Core.modEng_obs (c : Core) (e : Stream) (f : Engine → Engine) : (c.modEng e f).obs = c.obs := by
  cases e <;> rfl

/-- An engine that is put is the one found; the others stay. -/
@[simp] theorem Core.eng_setEng (c : Core) (e d : Stream) (x : Engine) (he : e ≠ .seq) (hd : d ≠ .seq) :
    (c.setEng e x).eng d = if d = e then x else c.eng d := by
  cases e <;> cases d <;> first | contradiction | rfl

/-! ### Seq.setBank -/

@[simp] theorem Seq.setBank_sup (s : Seq) (b : Bank) : (s.setBank b).sup = s.sup := by
  unfold Seq.setBank; split <;> rfl
@[simp] theorem Seq.setBank_ps (s : Seq) (b : Bank) : (s.setBank b).ps = s.ps := by
  unfold Seq.setBank; split <;> rfl
@[simp] theorem Seq.setBank_sen (s : Seq) (b : Bank) : (s.setBank b).sen = s.sen := by
  unfold Seq.setBank; split <;> rfl
@[simp] theorem Seq.setBank_rw (s : Seq) (b : Bank) : (s.setBank b).rw = s.rw := by
  unfold Seq.setBank; split <;> rfl
@[simp] theorem Seq.setBank_pc (s : Seq) (b : Bank) : (s.setBank b).pc = s.pc := by
  unfold Seq.setBank; split <;> rfl
@[simp] theorem Seq.setBank_scyc (s : Seq) (b : Bank) : (s.setBank b).scyc = s.scyc := by
  unfold Seq.setBank; split <;> rfl
@[simp] theorem Seq.setBank_bslots (s : Seq) (b : Bank) : (s.setBank b).bslots = s.bslots := by
  unfold Seq.setBank; split <;> rfl
@[simp] theorem Seq.setBank_results (s : Seq) (b : Bank) : (s.setBank b).results = s.results := by
  unfold Seq.setBank; split <;> rfl
@[simp] theorem Seq.setBank_tinfo (s : Seq) (b : Bank) : (s.setBank b).tinfo = s.tinfo := by
  unfold Seq.setBank; split <;> rfl
@[simp] theorem Seq.setBank_taddr (s : Seq) (b : Bank) : (s.setBank b).taddr = s.taddr := by
  unfold Seq.setBank; split <;> rfl
@[simp] theorem Seq.setBank_tpc (s : Seq) (b : Bank) : (s.setBank b).tpc = s.tpc := by
  unfold Seq.setBank; split <;> rfl
@[simp] theorem Seq.setBank_tpcEnd (s : Seq) (b : Bank) : (s.setBank b).tpcEnd = s.tpcEnd := by
  unfold Seq.setBank; split <;> rfl
@[simp] theorem Seq.setBank_sbase (s : Seq) (b : Bank) : (s.setBank b).sbase = s.sbase := by
  unfold Seq.setBank; split <;> rfl
@[simp] theorem Seq.setBank_frzlim (s : Seq) (b : Bank) : (s.setBank b).frzlim = s.frzlim := by
  unfold Seq.setBank; split <;> rfl
@[simp] theorem Seq.setBank_req (s : Seq) (b : Bank) : (s.setBank b).req = s.req := by
  unfold Seq.setBank; split <;> rfl
@[simp] theorem Seq.setBank_force (s : Seq) (b : Bank) : (s.setBank b).force = s.force := by
  unfold Seq.setBank; split <;> rfl
@[simp] theorem Seq.setBank_prelim (s : Seq) (b : Bank) : (s.setBank b).prelim = s.prelim := by
  unfold Seq.setBank; split <;> rfl
@[simp] theorem Seq.setBank_reqTicks (s : Seq) (b : Bank) : (s.setBank b).reqTicks = s.reqTicks := by
  unfold Seq.setBank; split <;> rfl
@[simp] theorem Seq.setBank_tlate (s : Seq) (b : Bank) : (s.setBank b).tlate = s.tlate := by
  unfold Seq.setBank; split <;> rfl
@[simp] theorem Seq.setBank_asid (s : Seq) (b : Bank) : (s.setBank b).asid = s.asid := by
  unfold Seq.setBank; split <;> rfl
@[simp] theorem Seq.setBank_ctx (s : Seq) (b : Bank) : (s.setBank b).ctx = s.ctx := by
  unfold Seq.setBank; split <;> rfl
@[simp] theorem Seq.setBank_rpl (s : Seq) (b : Bank) : (s.setBank b).rpl = s.rpl := by
  unfold Seq.setBank; split <;> rfl
@[simp] theorem Seq.setBank_count (s : Seq) (b : Bank) : (s.setBank b).count = s.count := by
  unfold Seq.setBank; split <;> rfl
@[simp] theorem Seq.setBank_total (s : Seq) (b : Bank) : (s.setBank b).total = s.total := by
  unfold Seq.setBank; split <;> rfl
@[simp] theorem Seq.setBank_late (s : Seq) (b : Bank) : (s.setBank b).late = s.late := by
  unfold Seq.setBank; split <;> rfl
@[simp] theorem Seq.setBank_traps (s : Seq) (b : Bank) : (s.setBank b).traps = s.traps := by
  unfold Seq.setBank; split <;> rfl
@[simp] theorem Seq.setBank_draining (s : Seq) (b : Bank) : (s.setBank b).draining = s.draining := by
  unfold Seq.setBank; split <;> rfl
@[simp] theorem Seq.setBank_pre (s : Seq) (b : Bank) : (s.setBank b).pre = s.pre := by
  unfold Seq.setBank; split <;> rfl
@[simp] theorem Seq.setBank_lateDue (s : Seq) (b : Bank) : (s.setBank b).lateDue = s.lateDue := by
  unfold Seq.setBank; split <;> rfl
@[simp] theorem Seq.setBank_wait (s : Seq) (b : Bank) : (s.setBank b).wait = s.wait := by
  unfold Seq.setBank; split <;> rfl
@[simp] theorem Seq.setBank_half (s : Seq) (b : Bank) : (s.setBank b).half = s.half := by
  unfold Seq.setBank; split <;> rfl
@[simp] theorem Seq.setBank_ended (s : Seq) (b : Bank) : (s.setBank b).ended = s.ended := by
  unfold Seq.setBank; split <;> rfl
@[simp] theorem Seq.setBank_frz (s : Seq) (b : Bank) : (s.setBank b).frz = s.frz := by
  unfold Seq.setBank; split <;> rfl
@[simp] theorem Seq.setBank_ckpt (s : Seq) (b : Bank) : (s.setBank b).ckpt = s.ckpt := by
  unfold Seq.setBank; split <;> rfl
@[simp] theorem Seq.setBank_win (s : Seq) (b : Bank) : (s.setBank b).win = s.win := by
  unfold Seq.setBank; split <;> rfl
@[simp] theorem Seq.setBank_fresh (s : Seq) (b : Bank) : (s.setBank b).fresh = s.fresh := by
  unfold Seq.setBank; split <;> rfl
@[simp] theorem Seq.setBank_back (s : Seq) (b : Bank) : (s.setBank b).back = s.back := by
  unfold Seq.setBank; split <;> rfl
@[simp] theorem Seq.setBank_pipe (s : Seq) (b : Bank) : (s.setBank b).pipe = s.pipe := by
  unfold Seq.setBank; split <;> rfl

/-! ### Seq.setSlot -/

@[simp] theorem Seq.setSlot_sup (s : Seq) (n : Nat) (x : BSlot) : (s.setSlot n x).sup = s.sup := rfl
@[simp] theorem Seq.setSlot_ps (s : Seq) (n : Nat) (x : BSlot) : (s.setSlot n x).ps = s.ps := rfl
@[simp] theorem Seq.setSlot_sen (s : Seq) (n : Nat) (x : BSlot) : (s.setSlot n x).sen = s.sen := rfl
@[simp] theorem Seq.setSlot_rw (s : Seq) (n : Nat) (x : BSlot) : (s.setSlot n x).rw = s.rw := rfl
@[simp] theorem Seq.setSlot_thr (s : Seq) (n : Nat) (x : BSlot) : (s.setSlot n x).thr = s.thr := rfl
@[simp] theorem Seq.setSlot_svr (s : Seq) (n : Nat) (x : BSlot) : (s.setSlot n x).svr = s.svr := rfl
@[simp] theorem Seq.setSlot_pc (s : Seq) (n : Nat) (x : BSlot) : (s.setSlot n x).pc = s.pc := rfl
@[simp] theorem Seq.setSlot_scyc (s : Seq) (n : Nat) (x : BSlot) : (s.setSlot n x).scyc = s.scyc := rfl
@[simp] theorem Seq.setSlot_bslots (s : Seq) (n : Nat) (x : BSlot) : (s.setSlot n x).bslots = Sparse.set BSlot.zero s.bslots n x := rfl
@[simp] theorem Seq.setSlot_results (s : Seq) (n : Nat) (x : BSlot) : (s.setSlot n x).results = s.results := rfl
@[simp] theorem Seq.setSlot_tinfo (s : Seq) (n : Nat) (x : BSlot) : (s.setSlot n x).tinfo = s.tinfo := rfl
@[simp] theorem Seq.setSlot_taddr (s : Seq) (n : Nat) (x : BSlot) : (s.setSlot n x).taddr = s.taddr := rfl
@[simp] theorem Seq.setSlot_tpc (s : Seq) (n : Nat) (x : BSlot) : (s.setSlot n x).tpc = s.tpc := rfl
@[simp] theorem Seq.setSlot_tpcEnd (s : Seq) (n : Nat) (x : BSlot) : (s.setSlot n x).tpcEnd = s.tpcEnd := rfl
@[simp] theorem Seq.setSlot_sbase (s : Seq) (n : Nat) (x : BSlot) : (s.setSlot n x).sbase = s.sbase := rfl
@[simp] theorem Seq.setSlot_frzlim (s : Seq) (n : Nat) (x : BSlot) : (s.setSlot n x).frzlim = s.frzlim := rfl
@[simp] theorem Seq.setSlot_req (s : Seq) (n : Nat) (x : BSlot) : (s.setSlot n x).req = s.req := rfl
@[simp] theorem Seq.setSlot_force (s : Seq) (n : Nat) (x : BSlot) : (s.setSlot n x).force = s.force := rfl
@[simp] theorem Seq.setSlot_prelim (s : Seq) (n : Nat) (x : BSlot) : (s.setSlot n x).prelim = s.prelim := rfl
@[simp] theorem Seq.setSlot_reqTicks (s : Seq) (n : Nat) (x : BSlot) : (s.setSlot n x).reqTicks = s.reqTicks := rfl
@[simp] theorem Seq.setSlot_tlate (s : Seq) (n : Nat) (x : BSlot) : (s.setSlot n x).tlate = s.tlate := rfl
@[simp] theorem Seq.setSlot_asid (s : Seq) (n : Nat) (x : BSlot) : (s.setSlot n x).asid = s.asid := rfl
@[simp] theorem Seq.setSlot_ctx (s : Seq) (n : Nat) (x : BSlot) : (s.setSlot n x).ctx = s.ctx := rfl
@[simp] theorem Seq.setSlot_rpl (s : Seq) (n : Nat) (x : BSlot) : (s.setSlot n x).rpl = s.rpl := rfl
@[simp] theorem Seq.setSlot_count (s : Seq) (n : Nat) (x : BSlot) : (s.setSlot n x).count = s.count := rfl
@[simp] theorem Seq.setSlot_total (s : Seq) (n : Nat) (x : BSlot) : (s.setSlot n x).total = s.total := rfl
@[simp] theorem Seq.setSlot_late (s : Seq) (n : Nat) (x : BSlot) : (s.setSlot n x).late = s.late := rfl
@[simp] theorem Seq.setSlot_traps (s : Seq) (n : Nat) (x : BSlot) : (s.setSlot n x).traps = s.traps := rfl
@[simp] theorem Seq.setSlot_draining (s : Seq) (n : Nat) (x : BSlot) : (s.setSlot n x).draining = s.draining := rfl
@[simp] theorem Seq.setSlot_pre (s : Seq) (n : Nat) (x : BSlot) : (s.setSlot n x).pre = s.pre := rfl
@[simp] theorem Seq.setSlot_lateDue (s : Seq) (n : Nat) (x : BSlot) : (s.setSlot n x).lateDue = s.lateDue := rfl
@[simp] theorem Seq.setSlot_wait (s : Seq) (n : Nat) (x : BSlot) : (s.setSlot n x).wait = s.wait := rfl
@[simp] theorem Seq.setSlot_half (s : Seq) (n : Nat) (x : BSlot) : (s.setSlot n x).half = s.half := rfl
@[simp] theorem Seq.setSlot_ended (s : Seq) (n : Nat) (x : BSlot) : (s.setSlot n x).ended = s.ended := rfl
@[simp] theorem Seq.setSlot_frz (s : Seq) (n : Nat) (x : BSlot) : (s.setSlot n x).frz = s.frz := rfl
@[simp] theorem Seq.setSlot_ckpt (s : Seq) (n : Nat) (x : BSlot) : (s.setSlot n x).ckpt = s.ckpt := rfl
@[simp] theorem Seq.setSlot_win (s : Seq) (n : Nat) (x : BSlot) : (s.setSlot n x).win = s.win := rfl
@[simp] theorem Seq.setSlot_fresh (s : Seq) (n : Nat) (x : BSlot) : (s.setSlot n x).fresh = s.fresh := rfl
@[simp] theorem Seq.setSlot_back (s : Seq) (n : Nat) (x : BSlot) : (s.setSlot n x).back = s.back := rfl
@[simp] theorem Seq.setSlot_pipe (s : Seq) (n : Nat) (x : BSlot) : (s.setSlot n x).pipe = s.pipe := rfl

/-! ### Bank.put -/

@[simp] theorem Bank.put_p (b : Bank) (i : BitVec 5) (v : Word) : (b.put i v).p = b.p := by
  unfold Bank.put; split <;> rfl
@[simp] theorem Bank.put_lc (b : Bank) (i : BitVec 5) (v : Word) : (b.put i v).lc = b.lc := by
  unfold Bank.put; split <;> rfl
@[simp] theorem Bank.put_lstart (b : Bank) (i : BitVec 5) (v : Word) : (b.put i v).lstart = b.lstart := by
  unfold Bank.put; split <;> rfl
@[simp] theorem Bank.put_lend (b : Bank) (i : BitVec 5) (v : Word) : (b.put i v).lend = b.lend := by
  unfold Bank.put; split <;> rfl
@[simp] theorem Bank.put_stack (b : Bank) (i : BitVec 5) (v : Word) : (b.put i v).stack = b.stack := by
  unfold Bank.put; split <;> rfl
@[simp] theorem Bank.put_depth (b : Bank) (i : BitVec 5) (v : Word) : (b.put i v).depth = b.depth := by
  unfold Bank.put; split <;> rfl

/-! ### Bank.putPred -/

@[simp] theorem Bank.putPred_s (b : Bank) (i : BitVec 3) (v : Bool) : (b.putPred i v).s = b.s := rfl
@[simp] theorem Bank.putPred_lc (b : Bank) (i : BitVec 3) (v : Bool) : (b.putPred i v).lc = b.lc := rfl
@[simp] theorem Bank.putPred_lstart (b : Bank) (i : BitVec 3) (v : Bool) : (b.putPred i v).lstart = b.lstart := rfl
@[simp] theorem Bank.putPred_lend (b : Bank) (i : BitVec 3) (v : Bool) : (b.putPred i v).lend = b.lend := rfl
@[simp] theorem Bank.putPred_stack (b : Bank) (i : BitVec 3) (v : Bool) : (b.putPred i v).stack = b.stack := rfl
@[simp] theorem Bank.putPred_depth (b : Bank) (i : BitVec 3) (v : Bool) : (b.putPred i v).depth = b.depth := rfl

end Sys2Proof.Machine
end

