-- ==== Sys2Proof/Laws/Ops.lean ====
section
/-! SUPPORT. What the shared operations can do, one lemma an operation: going on, results, accesses, trace records, and the
taking of a trap. -/

namespace Sys2Proof.Machine

/-! ### What stays -/

/-- Every byte reads as before where the stores are the same. -/
theorem MemorySame.of_eq {s t : State} (h1 : t.here = s.here) (h2 : t.others = s.others) (h3 : t.core.near = s.core.near)
    (h4 : t.dieStore = s.dieStore) (h5 : t.main = s.main) (h6 : t.remote = s.remote) : MemorySame s t := by
  intro a
  refine ⟨fun c => ?_, by rw [h4], by rw [h5], by rw [h6]⟩
  unfold State.coreAt
  rw [h1, h2]
  split
  · rw [h3]
  · rfl

theorem OutsideSame.fields {s t : State} (h : OutsideSame s t) : t = { s with core := t.core, free := t.free } := by
  unfold OutsideSame at h
  rw [← h]

theorem OutsideSame.trans {s t u : State} (h : OutsideSame s t) (g : OutsideSame t u) : OutsideSame s u := by
  rw [g.fields, h.fields]
  rfl

theorem OutsideSame.onCore (s : State) (f : Core → Core) : OutsideSame s (s.onCore f) := rfl

/-- Nothing outside the core and no near byte differs, so no byte does. -/
theorem OutsideSame.memory {s t : State} (h : OutsideSame s t) (hn : t.core.near = s.core.near) : MemorySame s t := by
  rw [h.fields]
  exact MemorySame.of_eq rfl rfl hn rfl rfl rfl

/-! ### Going on -/

/-- Going to a word moves PC and the cycles to it, and nothing else. -/
theorem goTo_moved (s : State) (pc : BitVec 14) (n : Nat) : WentTo (s.goTo pc n) pc n ∧ OnlyMoved s (s.goTo pc n) :=
  ⟨⟨rfl, rfl, rfl⟩, rfl, OutsideSame.memory (OutsideSame.onCore s _) rfl, rfl, rfl, rfl⟩

/-! ### Results and accesses -/

/-- A result of more than one cycle goes into flight, and changes nothing else. -/
theorem give_flight {s : State} {e : Stream} {n : Nat} (fl : BitVec 32) (l : Land) (hn : 1 < n) :
    s.give e n fl l = s.onCore (fun k => { k with x := { k.x with flight := k.x.flight ++ [
      { strm := e, ord := s.ordOf e, widx := s.widxOf e, due := n, exact := false, raced := [], flags := fl, land := l }] } }) := by
  unfold State.give State.result
  rw [if_neg (by omega)]

/-- An access joins those pending with the next identity; nothing else changes. -/
theorem issueAcc_core (s : State) (e : Stream) (cls : BitVec 4) (foot : List Foot) (reach acq rel : Nat) (due by_ : Option Nat)
    (kind : AccKind) : s.issueAcc e cls foot reach acq rel due by_ kind = s.onCore (fun k => { k with x := { k.x with
      accs := k.x.accs ++ [s.newAcc e cls foot reach acq rel due by_ (s.before e cls foot reach rel) kind], nid := k.x.nid + 1 } }) := rfl

/-- Its places are those given and where they lie in main memory (R135). -/
theorem newAcc_foot (s : State) (e : Stream) (cls : BitVec 4) (foot : List Foot) (reach acq rel : Nat) (due by_ : Option Nat)
    (after : List Nat) (kind : AccKind) :
    (s.newAcc e cls foot reach acq rel due by_ after kind).foot = foot ++ s.physFeet foot := rfl

/-! ### Replay windows -/

/-- The record of a replay window changes with it alone. -/
theorem didRead_core (s : State) (rs : List (Nat × Nat)) : OutsideSame s (s.didRead rs) ∧
    { (s.didRead rs).core with seq := s.core.seq } = s.core ∧
    { (s.didRead rs).core.seq with win := s.core.seq.win } = s.core.seq := by
  unfold State.didRead
  split <;> exact ⟨rfl, rfl, rfl⟩

theorem didWrite_core (s : State) (rs : List (Nat × Nat)) : OutsideSame s (s.didWrite rs) ∧
    { (s.didWrite rs).core with seq := s.core.seq } = s.core ∧
    { (s.didWrite rs).core.seq with rpl := s.core.seq.rpl } = s.core.seq := by
  unfold State.didWrite
  split <;> exact ⟨rfl, rfl, rfl⟩

theorem didLoad_core (s : State) (l : List Nat) : OutsideSame s (s.didLoad l) ∧
    { (s.didLoad l).core with seq := s.core.seq } = s.core ∧
    { (s.didLoad l).core.seq with win := s.core.seq.win } = s.core.seq := by
  unfold State.didLoad
  split <;> exact ⟨rfl, rfl, rfl⟩

theorem didStore_core (s : State) (l : List Nat) : OutsideSame s (s.didStore l) ∧
    { (s.didStore l).core with seq := s.core.seq } = s.core ∧
    { (s.didStore l).core.seq with rpl := s.core.seq.rpl } = s.core.seq := by
  unfold State.didStore
  split <;> exact ⟨rfl, rfl, rfl⟩

/-- Presenting lines changes the plan of beats alone. -/
theorem present_core (s : State) (r off : Nat) (ls : List Nat) : OutsideSame s (s.present r off ls) ∧
    { (s.present r off ls).core with obs := s.core.obs } = s.core ∧ ObsSame s (s.present r off ls) := by
  unfold State.present
  split <;> exact ⟨rfl, rfl, rfl⟩

/-! ### Trace records (R389-R391) -/

/-- Only main memory, its seals, the rings of the dies and the number of the next free value differ. -/
structure RingsOnly (s t : State) : Prop where
  rest : { t with main := s.main, seals := s.seals, dies := s.dies, free := s.free } = s
  dies : ∀ d : Fin 4, { t.dies[d] with rings := s.dies[d].rings } = s.dies[d]

theorem RingsOnly.refl (s : State) : RingsOnly s s := ⟨rfl, fun _ => rfl⟩

theorem RingsOnly.fields {s t : State} (h : RingsOnly s t) :
    t = { s with main := t.main, seals := t.seals, dies := t.dies, free := t.free } := by
  have := h.rest
  rw [← this]

theorem RingsOnly.die {s t : State} (h : RingsOnly s t) (d : Fin 4) : t.dies[d] = { s.dies[d] with rings := t.dies[d].rings } := by
  have := h.dies d
  rw [← this]

theorem RingsOnly.trans {s t u : State} (h : RingsOnly s t) (g : RingsOnly t u) : RingsOnly s u := by
  refine ⟨?_, fun d => ?_⟩
  · rw [g.fields, h.fields]
  · rw [g.die d, h.die d]

theorem RingsOnly.bump (s : State) : RingsOnly s s.bump := ⟨rfl, fun _ => rfl⟩

theorem RingsOnly.modRing (s : State) (p d : Nat) (f : Ring → Ring) : RingsOnly s (s.modRing p d f) := by
  refine ⟨rfl, fun e => ?_⟩
  show { (s.dies.setIfInBounds d ((s.die d).setRing (f ((s.die d).ring p))))[e] with rings := s.dies[e].rings } = s.dies[e]
  by_cases he : d = e.val
  · subst he
    have h1 : (s.dies.setIfInBounds e.val ((s.die e.val).setRing (f ((s.die e.val).ring p))))[e] =
        (s.die e.val).setRing (f ((s.die e.val).ring p)) := by simp
    have h2 : s.die e.val = s.dies[e] := by simp [State.die]
    rw [h1, h2]
    rfl
  · have h1 : (s.dies.setIfInBounds d ((s.die d).setRing (f ((s.die d).ring p))))[e] = s.dies[e] := by simp [he]
    rw [h1]

theorem RingsOnly.reseal (s : State) (i u : Nat) : RingsOnly s (s.reseal i u) := by
  unfold State.reseal
  split
  · exact RingsOnly.refl s
  · exact ⟨rfl, fun _ => rfl⟩

theorem RingsOnly.resealAll (s : State) (i u n : Nat) : RingsOnly s (s.resealAll i u n) := by
  induction n generalizing s u with
  | zero => exact RingsOnly.refl s
  | succ n ih => exact (RingsOnly.reseal s i u).trans (ih _ _)

theorem RingsOnly.mainPut (s : State) (i a : Nat) (bs : List Byte) : RingsOnly s (s.mainPut i a bs) :=
  (RingsOnly.resealAll s i (a / 16) (runsOf 16 a bs.length)).trans ⟨rfl, fun _ => rfl⟩

/-- A record put into a ring moves its head by one, and writes 16 bytes of main memory. -/
theorem RingsOnly.ringPut {s t : State} {p d : Nat} {x : Part} {w : BitVec 128} (h : s.ringPut p d x w = some t) : RingsOnly s t := by
  unfold State.ringPut at h
  dsimp only at h
  split at h
  · cases h
  · split at h
    · cases h
    · split at h
      · cases h
      · split at h
        · cases h
        · obtain rfl := Option.some.inj h
          exact ((RingsOnly.mainPut s _ _ _).trans (RingsOnly.modRing _ p d _)).trans (RingsOnly.bump _)

theorem RingsOnly.ringMark {s t : State} {p d : Nat} {x : Part} (h : s.ringMark p d x = some t) : RingsOnly s t := by
  obtain ⟨u, hu, rfl⟩ := Option.map_eq_some_iff.1 h
  exact (RingsOnly.ringPut hu).trans (RingsOnly.modRing u p d _)

theorem RingsOnly.ringDelta {s t : State} {p d : Nat} {x : Part} {f : Nat → BitVec 128} (h : s.ringDelta p d x f = some t) :
    RingsOnly s t := by
  unfold State.ringDelta at h
  dsimp only at h
  split at h
  · exact RingsOnly.ringPut h
  · obtain ⟨u, hu, ht⟩ := Option.bind_eq_some_iff.1 h
    exact (RingsOnly.ringPut hu).trans (RingsOnly.ringPut ht)

theorem RingsOnly.ringLoss {s t : State} {p d : Nat} {x : Part} (h : s.ringLoss p d x = some t) : RingsOnly s t := by
  unfold State.ringLoss at h
  dsimp only at h
  split at h
  · obtain rfl := Option.some.inj h
    exact RingsOnly.refl s
  · obtain ⟨u, hu, rfl⟩ := Option.map_eq_some_iff.1 h
    refine RingsOnly.trans ?_ (RingsOnly.modRing u p d _)
    split at hu
    · exact RingsOnly.ringPut hu
    · exact RingsOnly.ringDelta hu

/-- A record taken by a ring, or dropped, changes nothing but the ring and what it writes to main memory. -/
theorem RingsOnly.ringTake (s : State) (p d : Nat) (x : Part) (e : Nat × Nat × Nat × Nat × Nat × Word) :
    RingsOnly s (s.ringTake p d x e) := by
  obtain ⟨type, lcore, eng, secno, widx, arg⟩ := e
  have h1 : RingsOnly s ((s.ringLoss p d x).getD s) := by
    cases h : s.ringLoss p d x with
    | none => exact RingsOnly.refl s
    | some t => exact RingsOnly.ringLoss h
  have h2 : ∀ t : State, RingsOnly s t → ∀ w, (if ((t.die d).ring p).lost = 0 then
      (if ((t.die d).ring p).mark then t.ringMark p d x else some t) else none) = some w → RingsOnly s w := by
    intro t ht w hw
    split at hw
    · split at hw
      · exact ht.trans (RingsOnly.ringMark hw)
      · obtain rfl := Option.some.inj hw
        exact ht
    · cases hw
  unfold State.ringTake
  dsimp only
  generalize (s.ringLoss p d x).getD s = t at h1 ⊢
  cases hu : (if ((t.die d).ring p).lost = 0 then (if ((t.die d).ring p).mark then t.ringMark p d x else some t) else none) with
  | none =>
    simp only [Option.bind_none, Option.getD_none]
    exact h1.trans (RingsOnly.modRing t p d _)
  | some w =>
    have hw := h2 t h1 w hu
    simp only [Option.bind_some, Option.getD_some]
    cases hv : w.ringDelta p d x (fun dt => traceWord type lcore eng secno widx dt arg) with
    | none =>
      simp only [Option.getD_none]
      exact hw.trans (RingsOnly.modRing w p d _)
    | some v => exact hw.trans (RingsOnly.ringDelta hv)

/-- The end of a tick writes what rings are to write, and changes nothing else. -/
theorem RingsOnly.ringFlush (s : State) (d : Nat) : RingsOnly s (s.ringFlush d) := by
  have inner : ∀ (p : Nat) (x : Part) (l : List (Nat × Nat × Nat × Nat × Nat × Word)) (t : State), RingsOnly s t →
      RingsOnly s (l.foldl (fun u e => u.ringTake p d x e) t) := by
    intro p x l
    induction l with
    | nil => exact fun t h => h
    | cons e l ih => exact fun t h => ih _ (h.trans (RingsOnly.ringTake t p d x e))
  unfold State.ringFlush
  suffices ∀ (l : List Ring) (t : State), RingsOnly s t → RingsOnly s (l.foldl (fun t r =>
      match t.part? r.part with
      | none => t
      | some x => r.pend.foldl (fun u e => u.ringTake r.part d x e) (t.modRing r.part d (fun q => { q with pend := [] }))) t) from
    this _ s (RingsOnly.refl s)
  intro l
  induction l with
  | nil => exact fun t h => h
  | cons r l ih =>
    intro t h
    refine ih _ ?_
    dsimp only
    split
    · exact h
    · exact inner _ _ _ _ (h.trans (RingsOnly.modRing t _ d _))

/-- A record waits in its ring for the end of the tick: no byte of memory changes with it. -/
theorem RingsOnly.ringLog (s : State) (p d type lcore eng secno widx : Nat) (arg : Word) :
    RingsOnly s (s.ringLog p d type lcore eng secno widx arg) ∧ (s.ringLog p d type lcore eng secno widx arg).main = s.main := by
  unfold State.ringLog
  split
  · exact ⟨RingsOnly.refl s, rfl⟩
  · split
    · exact ⟨RingsOnly.refl s, rfl⟩
    · exact ⟨RingsOnly.modRing s p d _, rfl⟩

/-- A record changes the rings, and the blotter of the core in focus. -/
theorem note_core (s : State) (type : Nat) (e : Stream) (secno widx : Nat) (arg : Word) :
    ∃ o : Obs, RingsOnly (s.onCore (fun k => { k with obs := o })) (s.note type e secno widx arg) := by
  refine ⟨(s.core.obs.log (s.die (dieOf s.here)).tick (s.markWord (dieOf s.here)) type s.core.share.lcore (streamCode e) secno widx arg), ?_⟩
  unfold State.note
  have hb : s.blot s.here type (streamCode e) secno widx arg = s.onCore (fun k => { k with obs :=
      (s.core.obs.log (s.die (dieOf s.here)).tick (s.markWord (dieOf s.here)) type s.core.share.lcore (streamCode e) secno widx arg) }) := by
    unfold State.blot State.modCore State.setCore State.coreAt
    simp only [if_true]
    rfl
  rw [hb]
  exact (RingsOnly.ringLog _ _ _ _ _ _ _ _ _).1

/-! ### Traps (R116, R176, R289, R310, R311) -/

/-- The record of a trap of a section: added where it has none, or in place of one of a later word. -/
theorem record_traps (q : Seq) (r : TrapRec) :
    (q.record r).traps = (if q.traps.any r.same then q.traps.map (fun t => if r.same t && r.widx < t.widx then r else t)
      else q.traps ++ [r]) ∧ { q.record r with traps := q.traps } = q := ⟨rfl, rfl⟩

/-- An engine word that raises a trap: it is recorded, its section stops, and nothing is performed. -/
theorem engTrap_core {s : State} {e : Stream} (he : e ≠ .seq) (cause sub : BitVec 8) (addr : Word) :
    OutsideSame s (s.engTrap e cause sub addr) ∧
      { (s.engTrap e cause sub addr).core with seq := s.core.seq, em := s.core.em, ev := s.core.ev, ex := s.core.ex } = s.core ∧
      (s.engTrap e cause sub addr).core.eng e =
        { s.core.eng e with run := (s.core.eng e).run.map (fun (r : Running) => { r with stopped := true }) } ∧
      (∀ d ∈ engines, d ≠ e → (s.engTrap e cause sub addr).core.eng d = s.core.eng d) ∧
      { (s.engTrap e cause sub addr).core.seq with traps := s.core.seq.traps } = s.core.seq := by
  cases e
  · exact absurd rfl he
  all_goals
    refine ⟨rfl, rfl, rfl, ?_, rfl⟩
    intro d hd hne
    cases d <;> first | rfl | contradiction

/-- A word's trap with results or sections under way is recorded, and the core drains. -/
theorem seqTrap_recorded {s : State} {cause : BitVec 8} (addr : Word) (after : Bool) (hc : cause ≠ 0x19 ∧ cause ≠ 0x1A)
    (hq : s.core.quiet = false) : Recorded s (s.seqTrap cause 0 addr after).seqChecked (seqRec s cause addr after) := by
  have hb : (seqRec s cause addr after).bad = false := by
    simp only [TrapRec.bad, seqRec, Bool.or_eq_false_iff, beq_eq_false_iff_ne]; exact hc
  have hn : s.core.seq.traps.any (seqRec s cause addr after).same = false := by
    simp only [List.any_eq_false, TrapRec.same, hb, Bool.false_and, Bool.or_false]
    intro x _
    simp [seqRec]
  have hr : s.core.seq.record (seqRec s cause addr after) =
      { s.core.seq with traps := s.core.seq.traps ++ [seqRec s cause addr after] } := by
    simp only [Seq.record, hn]; rfl
  have hs : s.seqTrap cause 0 addr after = s.onCore (fun k => { k with seq :=
      { s.core.seq with traps := s.core.seq.traps ++ [seqRec s cause addr after], draining := true } }) := by
    show (if _ then _ else _) = _
    rw [if_neg]
    · rw [← seqRec, hr]
    · intro h
      rw [Bool.and_eq_true, Bool.and_eq_true] at h
      exact Bool.noConfusion (hq.symm.trans h.1.1)
  rw [hs]
  exact ⟨rfl, OutsideSame.memory rfl rfl, rfl, rfl, rfl⟩

end Sys2Proof.Machine
end

