-- ==== Sys2Proof/Laws/PerInstr.lean ====
section
/-! SUPPORT. One lemma per instruction: the word of a well-formed instruction decodes to it (R154, R157, R162-R166). -/

namespace Sys2Proof.Laws.RoundTrip

/-- The word of a well-formed instruction decodes, in its own stream, to the instruction. -/
def Statement (i : Instr) : Prop := ∀ e, i.stream? = some e → wf i = true → decode e (encode i) = some i

theorem of_parse (i : Instr) (e : Stream) (hs : i.stream? = some e) (h : rawParse e (encode i) = some i) : Statement i := by
  intro d hd hw
  obtain rfl : e = d := Option.some.inj (hs ▸ hd)
  simp [decode, h, hw]

theorem of_event (i : Instr) (hs : i.stream? = none) : Statement i := by
  intro d hd
  rw [hs] at hd
  cases hd

theorem add (h : Head) (f : SR) : Statement (.add h f) := by
  refine of_parse _ .seq rfl ?_
  change parseSeq (opWord 0x01 h ||| f.enc) = _
  unfold parseSeq
  rw [op_word _ _ _ (f.low.mono (by omega))]
  change some (Instr.add _ _) = _
  rw [Head.parse_word _ _ _ f.low, SR.parse_enc]

theorem sub (h : Head) (f : SR) : Statement (.sub h f) := by
  refine of_parse _ .seq rfl ?_
  change parseSeq (opWord 0x02 h ||| f.enc) = _
  unfold parseSeq
  rw [op_word _ _ _ (f.low.mono (by omega))]
  change some (Instr.sub _ _) = _
  rw [Head.parse_word _ _ _ f.low, SR.parse_enc]

theorem andS (h : Head) (f : SR) : Statement (.andS h f) := by
  refine of_parse _ .seq rfl ?_
  change parseSeq (opWord 0x03 h ||| f.enc) = _
  unfold parseSeq
  rw [op_word _ _ _ (f.low.mono (by omega))]
  change some (Instr.andS _ _) = _
  rw [Head.parse_word _ _ _ f.low, SR.parse_enc]

theorem orS (h : Head) (f : SR) : Statement (.orS h f) := by
  refine of_parse _ .seq rfl ?_
  change parseSeq (opWord 0x04 h ||| f.enc) = _
  unfold parseSeq
  rw [op_word _ _ _ (f.low.mono (by omega))]
  change some (Instr.orS _ _) = _
  rw [Head.parse_word _ _ _ f.low, SR.parse_enc]

theorem xorS (h : Head) (f : SR) : Statement (.xorS h f) := by
  refine of_parse _ .seq rfl ?_
  change parseSeq (opWord 0x05 h ||| f.enc) = _
  unfold parseSeq
  rw [op_word _ _ _ (f.low.mono (by omega))]
  change some (Instr.xorS _ _) = _
  rw [Head.parse_word _ _ _ f.low, SR.parse_enc]

theorem shl (h : Head) (f : SR) : Statement (.shl h f) := by
  refine of_parse _ .seq rfl ?_
  change parseSeq (opWord 0x06 h ||| f.enc) = _
  unfold parseSeq
  rw [op_word _ _ _ (f.low.mono (by omega))]
  change some (Instr.shl _ _) = _
  rw [Head.parse_word _ _ _ f.low, SR.parse_enc]

theorem shr (h : Head) (f : SR) : Statement (.shr h f) := by
  refine of_parse _ .seq rfl ?_
  change parseSeq (opWord 0x07 h ||| f.enc) = _
  unfold parseSeq
  rw [op_word _ _ _ (f.low.mono (by omega))]
  change some (Instr.shr _ _) = _
  rw [Head.parse_word _ _ _ f.low, SR.parse_enc]

theorem sar (h : Head) (f : SR) : Statement (.sar h f) := by
  refine of_parse _ .seq rfl ?_
  change parseSeq (opWord 0x08 h ||| f.enc) = _
  unfold parseSeq
  rw [op_word _ _ _ (f.low.mono (by omega))]
  change some (Instr.sar _ _) = _
  rw [Head.parse_word _ _ _ f.low, SR.parse_enc]

theorem mul (h : Head) (f : SR) : Statement (.mul h f) := by
  refine of_parse _ .seq rfl ?_
  change parseSeq (opWord 0x09 h ||| f.enc) = _
  unfold parseSeq
  rw [op_word _ _ _ (f.low.mono (by omega))]
  change some (Instr.mul _ _) = _
  rw [Head.parse_word _ _ _ f.low, SR.parse_enc]

theorem mulhu (h : Head) (f : SR) : Statement (.mulhu h f) := by
  refine of_parse _ .seq rfl ?_
  change parseSeq (opWord 0x0A h ||| f.enc) = _
  unfold parseSeq
  rw [op_word _ _ _ (f.low.mono (by omega))]
  change some (Instr.mulhu _ _) = _
  rw [Head.parse_word _ _ _ f.low, SR.parse_enc]

theorem mulh (h : Head) (f : SR) : Statement (.mulh h f) := by
  refine of_parse _ .seq rfl ?_
  change parseSeq (opWord 0x0B h ||| f.enc) = _
  unfold parseSeq
  rw [op_word _ _ _ (f.low.mono (by omega))]
  change some (Instr.mulh _ _) = _
  rw [Head.parse_word _ _ _ f.low, SR.parse_enc]

theorem minS (h : Head) (f : SR) : Statement (.minS h f) := by
  refine of_parse _ .seq rfl ?_
  change parseSeq (opWord 0x0C h ||| f.enc) = _
  unfold parseSeq
  rw [op_word _ _ _ (f.low.mono (by omega))]
  change some (Instr.minS _ _) = _
  rw [Head.parse_word _ _ _ f.low, SR.parse_enc]

theorem maxS (h : Head) (f : SR) : Statement (.maxS h f) := by
  refine of_parse _ .seq rfl ?_
  change parseSeq (opWord 0x0D h ||| f.enc) = _
  unfold parseSeq
  rw [op_word _ _ _ (f.low.mono (by omega))]
  change some (Instr.maxS _ _) = _
  rw [Head.parse_word _ _ _ f.low, SR.parse_enc]

theorem minu (h : Head) (f : SR) : Statement (.minu h f) := by
  refine of_parse _ .seq rfl ?_
  change parseSeq (opWord 0x0E h ||| f.enc) = _
  unfold parseSeq
  rw [op_word _ _ _ (f.low.mono (by omega))]
  change some (Instr.minu _ _) = _
  rw [Head.parse_word _ _ _ f.low, SR.parse_enc]

theorem maxu (h : Head) (f : SR) : Statement (.maxu h f) := by
  refine of_parse _ .seq rfl ?_
  change parseSeq (opWord 0x0F h ||| f.enc) = _
  unfold parseSeq
  rw [op_word _ _ _ (f.low.mono (by omega))]
  change some (Instr.maxu _ _) = _
  rw [Head.parse_word _ _ _ f.low, SR.parse_enc]

theorem addi (h : Head) (f : SI) : Statement (.addi h f) := by
  refine of_parse _ .seq rfl ?_
  change parseSeq (opWord 0x11 h ||| f.enc) = _
  unfold parseSeq
  rw [op_word _ _ _ (f.low.mono (by omega))]
  change some (Instr.addi _ _) = _
  rw [Head.parse_word _ _ _ f.low, SI.parse_enc]

theorem li (h : Head) (f : SI) : Statement (.li h f) := by
  refine of_parse _ .seq rfl ?_
  change parseSeq (opWord 0x12 h ||| f.enc) = _
  unfold parseSeq
  rw [op_word _ _ _ (f.low.mono (by omega))]
  change some (Instr.li _ _) = _
  rw [Head.parse_word _ _ _ f.low, SI.parse_enc]

theorem andi (h : Head) (f : SI) : Statement (.andi h f) := by
  refine of_parse _ .seq rfl ?_
  change parseSeq (opWord 0x13 h ||| f.enc) = _
  unfold parseSeq
  rw [op_word _ _ _ (f.low.mono (by omega))]
  change some (Instr.andi _ _) = _
  rw [Head.parse_word _ _ _ f.low, SI.parse_enc]

theorem ori (h : Head) (f : SI) : Statement (.ori h f) := by
  refine of_parse _ .seq rfl ?_
  change parseSeq (opWord 0x14 h ||| f.enc) = _
  unfold parseSeq
  rw [op_word _ _ _ (f.low.mono (by omega))]
  change some (Instr.ori _ _) = _
  rw [Head.parse_word _ _ _ f.low, SI.parse_enc]

theorem xori (h : Head) (f : SI) : Statement (.xori h f) := by
  refine of_parse _ .seq rfl ?_
  change parseSeq (opWord 0x15 h ||| f.enc) = _
  unfold parseSeq
  rw [op_word _ _ _ (f.low.mono (by omega))]
  change some (Instr.xori _ _) = _
  rw [Head.parse_word _ _ _ f.low, SI.parse_enc]

theorem shli (h : Head) (f : SI) : Statement (.shli h f) := by
  refine of_parse _ .seq rfl ?_
  change parseSeq (opWord 0x16 h ||| f.enc) = _
  unfold parseSeq
  rw [op_word _ _ _ (f.low.mono (by omega))]
  change some (Instr.shli _ _) = _
  rw [Head.parse_word _ _ _ f.low, SI.parse_enc]

theorem shri (h : Head) (f : SI) : Statement (.shri h f) := by
  refine of_parse _ .seq rfl ?_
  change parseSeq (opWord 0x17 h ||| f.enc) = _
  unfold parseSeq
  rw [op_word _ _ _ (f.low.mono (by omega))]
  change some (Instr.shri _ _) = _
  rw [Head.parse_word _ _ _ f.low, SI.parse_enc]

theorem sari (h : Head) (f : SI) : Statement (.sari h f) := by
  refine of_parse _ .seq rfl ?_
  change parseSeq (opWord 0x18 h ||| f.enc) = _
  unfold parseSeq
  rw [op_word _ _ _ (f.low.mono (by omega))]
  change some (Instr.sari _ _) = _
  rw [Head.parse_word _ _ _ f.low, SI.parse_enc]

theorem muli (h : Head) (f : SI) : Statement (.muli h f) := by
  refine of_parse _ .seq rfl ?_
  change parseSeq (opWord 0x19 h ||| f.enc) = _
  unfold parseSeq
  rw [op_word _ _ _ (f.low.mono (by omega))]
  change some (Instr.muli _ _) = _
  rw [Head.parse_word _ _ _ f.low, SI.parse_enc]

theorem cmp (h : Head) (f : SPr) : Statement (.cmp h f) := by
  refine of_parse _ .seq rfl ?_
  change parseSeq (opWord 0x20 h ||| f.enc) = _
  unfold parseSeq
  rw [op_word _ _ _ (f.low.mono (by omega))]
  change some (Instr.cmp _ _) = _
  rw [Head.parse_word _ _ _ f.low, SPr.parse_enc]

theorem cmpi (h : Head) (f : SPi) : Statement (.cmpi h f) := by
  refine of_parse _ .seq rfl ?_
  change parseSeq (opWord 0x21 h ||| f.enc) = _
  unfold parseSeq
  rw [op_word _ _ _ (f.low.mono (by omega))]
  change some (Instr.cmpi _ _) = _
  rw [Head.parse_word _ _ _ f.low, SPi.parse_enc]

theorem pand (h : Head) (f : PL) : Statement (.pand h f) := by
  refine of_parse _ .seq rfl ?_
  change parseSeq (opWord 0x22 h ||| f.enc) = _
  unfold parseSeq
  rw [op_word _ _ _ (f.low.mono (by omega))]
  change some (Instr.pand _ _) = _
  rw [Head.parse_word _ _ _ f.low, PL.parse_enc]

theorem por (h : Head) (f : PL) : Statement (.por h f) := by
  refine of_parse _ .seq rfl ?_
  change parseSeq (opWord 0x23 h ||| f.enc) = _
  unfold parseSeq
  rw [op_word _ _ _ (f.low.mono (by omega))]
  change some (Instr.por _ _) = _
  rw [Head.parse_word _ _ _ f.low, PL.parse_enc]

theorem pxor (h : Head) (f : PL) : Statement (.pxor h f) := by
  refine of_parse _ .seq rfl ?_
  change parseSeq (opWord 0x24 h ||| f.enc) = _
  unfold parseSeq
  rw [op_word _ _ _ (f.low.mono (by omega))]
  change some (Instr.pxor _ _) = _
  rw [Head.parse_word _ _ _ f.low, PL.parse_enc]

theorem pnot (h : Head) (f : PL) : Statement (.pnot h f) := by
  refine of_parse _ .seq rfl ?_
  change parseSeq (opWord 0x25 h ||| f.enc) = _
  unfold parseSeq
  rw [op_word _ _ _ (f.low.mono (by omega))]
  change some (Instr.pnot _ _) = _
  rw [Head.parse_word _ _ _ f.low, PL.parse_enc]

theorem br (h : Head) (f : SB) : Statement (.br h f) := by
  refine of_parse _ .seq rfl ?_
  change parseSeq (opWord 0x30 h ||| f.enc) = _
  unfold parseSeq
  rw [op_word _ _ _ (f.low.mono (by omega))]
  change some (Instr.br _ _) = _
  rw [Head.parse_word _ _ _ f.low, SB.parse_enc]

theorem call (h : Head) (f : SB) : Statement (.call h f) := by
  refine of_parse _ .seq rfl ?_
  change parseSeq (opWord 0x31 h ||| f.enc) = _
  unfold parseSeq
  rw [op_word _ _ _ (f.low.mono (by omega))]
  change some (Instr.call _ _) = _
  rw [Head.parse_word _ _ _ f.low, SB.parse_enc]

theorem ret (h : Head) : Statement (.ret h) := by
  refine of_parse _ .seq rfl ?_
  change parseSeq (opWord 0x32 h) = _
  rw [← BitVec.or_zero (x := opWord 0x32 h)]
  unfold parseSeq
  rw [op_word _ _ _ (low_zero _)]
  change some (Instr.ret _) = _
  rw [Head.parse_word _ _ _ (low_zero _)]

theorem loopReg (h : Head) (f : SLr) : Statement (.loopReg h f) := by
  refine of_parse _ .seq rfl ?_
  change parseSeq (opWord 0x34 h ||| f.enc) = _
  unfold parseSeq
  rw [op_word _ _ _ (f.low.mono (by omega))]
  change some (Instr.loopReg _ _) = _
  rw [Head.parse_word _ _ _ f.low, SLr.parse_enc]

theorem loopi (h : Head) (f : SLi) : Statement (.loopi h f) := by
  refine of_parse _ .seq rfl ?_
  change parseSeq (opWord 0x35 h ||| f.enc) = _
  unfold parseSeq
  rw [op_word _ _ _ (f.low.mono (by omega))]
  change some (Instr.loopi _ _) = _
  rw [Head.parse_word _ _ _ f.low, SLi.parse_enc]

theorem disp (h : Head) (f : SD) : Statement (.disp h f) := by
  refine of_parse _ .seq rfl ?_
  change parseSeq (opWord 0x40 h ||| f.enc) = _
  unfold parseSeq
  rw [op_word _ _ _ (f.low.mono (by omega))]
  change some (Instr.disp _ _) = _
  rw [Head.parse_word _ _ _ f.low, SD.parse_enc]

theorem waitWord (h : Head) (f : SW) : Statement (.waitWord h f) := by
  refine of_parse _ .seq rfl ?_
  change parseSeq (opWord 0x41 h ||| f.enc) = _
  unfold parseSeq
  rw [op_word _ _ _ (f.low.mono (by omega))]
  change some (Instr.waitWord _ _) = _
  rw [Head.parse_word _ _ _ f.low, SW.parse_enc]

theorem nextTile (h : Head) : Statement (.nextTile h) := by
  refine of_parse _ .seq rfl ?_
  change parseSeq (opWord 0x42 h) = _
  rw [← BitVec.or_zero (x := opWord 0x42 h)]
  unfold parseSeq
  rw [op_word _ _ _ (low_zero _)]
  change some (Instr.nextTile _) = _
  rw [Head.parse_word _ _ _ (low_zero _)]

theorem endShareWord (h : Head) : Statement (.endShareWord h) := by
  refine of_parse _ .seq rfl ?_
  change parseSeq (opWord 0x43 h) = _
  rw [← BitVec.or_zero (x := opWord 0x43 h)]
  unfold parseSeq
  rw [op_word _ _ _ (low_zero _)]
  change some (Instr.endShareWord _) = _
  rw [Head.parse_word _ _ _ (low_zero _)]

theorem palign (h : Head) (f : SQ) : Statement (.palign h f) := by
  refine of_parse _ .seq rfl ?_
  change parseSeq (opWord 0x44 h ||| f.enc) = _
  unfold parseSeq
  rw [op_word _ _ _ (f.low.mono (by omega))]
  change some (Instr.palign _ _) = _
  rw [Head.parse_word _ _ _ f.low, SQ.parse_enc]

theorem rdtick (h : Head) (f : SQ) : Statement (.rdtick h f) := by
  refine of_parse _ .seq rfl ?_
  change parseSeq (opWord 0x45 h ||| f.enc) = _
  unfold parseSeq
  rw [op_word _ _ _ (f.low.mono (by omega))]
  change some (Instr.rdtick _ _) = _
  rw [Head.parse_word _ _ _ f.low, SQ.parse_enc]

theorem rdscyc (h : Head) (f : SQ) : Statement (.rdscyc h f) := by
  refine of_parse _ .seq rfl ?_
  change parseSeq (opWord 0x46 h ||| f.enc) = _
  unfold parseSeq
  rw [op_word _ _ _ (f.low.mono (by omega))]
  change some (Instr.rdscyc _ _) = _
  rw [Head.parse_word _ _ _ f.low, SQ.parse_enc]

theorem rdlbt (h : Head) (f : SQ) : Statement (.rdlbt h f) := by
  refine of_parse _ .seq rfl ?_
  change parseSeq (opWord 0x47 h ||| f.enc) = _
  unfold parseSeq
  rw [op_word _ _ _ (f.low.mono (by omega))]
  change some (Instr.rdlbt _ _) = _
  rw [Head.parse_word _ _ _ f.low, SQ.parse_enc]

theorem ld (h : Head) (f : SM) : Statement (.ld h f) := by
  refine of_parse _ .seq rfl ?_
  change parseSeq (opWord 0x50 h ||| f.enc) = _
  unfold parseSeq
  rw [op_word _ _ _ (f.low.mono (by omega))]
  change some (Instr.ld _ _) = _
  rw [Head.parse_word _ _ _ f.low, SM.parse_enc]

theorem st (h : Head) (f : SM) : Statement (.st h f) := by
  refine of_parse _ .seq rfl ?_
  change parseSeq (opWord 0x51 h ||| f.enc) = _
  unfold parseSeq
  rw [op_word _ _ _ (f.low.mono (by omega))]
  change some (Instr.st _ _) = _
  rw [Head.parse_word _ _ _ f.low, SM.parse_enc]

theorem shld (h : Head) (f : SM) : Statement (.shld h f) := by
  refine of_parse _ .seq rfl ?_
  change parseSeq (opWord 0x53 h ||| f.enc) = _
  unfold parseSeq
  rw [op_word _ _ _ (f.low.mono (by omega))]
  change some (Instr.shld _ _) = _
  rw [Head.parse_word _ _ _ f.low, SM.parse_enc]

theorem shset (h : Head) (f : SS) : Statement (.shset h f) := by
  refine of_parse _ .seq rfl ?_
  change parseSeq (opWord 0x54 h ||| f.enc) = _
  unfold parseSeq
  rw [op_word _ _ _ (f.low.mono (by omega))]
  change some (Instr.shset _ _) = _
  rw [Head.parse_word _ _ _ f.low, SS.parse_enc]

theorem shget (h : Head) (f : SS) : Statement (.shget h f) := by
  refine of_parse _ .seq rfl ?_
  change parseSeq (opWord 0x55 h ||| f.enc) = _
  unfold parseSeq
  rw [op_word _ _ _ (f.low.mono (by omega))]
  change some (Instr.shget _ _) = _
  rw [Head.parse_word _ _ _ f.low, SS.parse_enc]

theorem barInit (h : Head) (f : SN) : Statement (.barInit h f) := by
  refine of_parse _ .seq rfl ?_
  change parseSeq (opWord 0x60 h ||| f.enc) = _
  unfold parseSeq
  rw [op_word _ _ _ (f.low.mono (by omega))]
  change some (Instr.barInit _ _) = _
  rw [Head.parse_word _ _ _ f.low, SN.parse_enc]

theorem barArr (h : Head) (f : SN) : Statement (.barArr h f) := by
  refine of_parse _ .seq rfl ?_
  change parseSeq (opWord 0x61 h ||| f.enc) = _
  unfold parseSeq
  rw [op_word _ _ _ (f.low.mono (by omega))]
  change some (Instr.barArr _ _) = _
  rw [Head.parse_word _ _ _ f.low, SN.parse_enc]

theorem barWait (h : Head) (f : SN) : Statement (.barWait h f) := by
  refine of_parse _ .seq rfl ?_
  change parseSeq (opWord 0x62 h ||| f.enc) = _
  unfold parseSeq
  rw [op_word _ _ _ (f.low.mono (by omega))]
  change some (Instr.barWait _ _) = _
  rw [Head.parse_word _ _ _ f.low, SN.parse_enc]

theorem barSync (h : Head) (f : SN) : Statement (.barSync h f) := by
  refine of_parse _ .seq rfl ?_
  change parseSeq (opWord 0x63 h ||| f.enc) = _
  unfold parseSeq
  rw [op_word _ _ _ (f.low.mono (by omega))]
  change some (Instr.barSync _ _) = _
  rw [Head.parse_word _ _ _ f.low, SN.parse_enc]

theorem barRed (h : Head) (f : SN) : Statement (.barRed h f) := by
  refine of_parse _ .seq rfl ?_
  change parseSeq (opWord 0x64 h ||| f.enc) = _
  unfold parseSeq
  rw [op_word _ _ _ (f.low.mono (by omega))]
  change some (Instr.barRed _ _) = _
  rw [Head.parse_word _ _ _ f.low, SN.parse_enc]

theorem trapWord (h : Head) (f : SW) : Statement (.trapWord h f) := by
  refine of_parse _ .seq rfl ?_
  change parseSeq (opWord 0x70 h ||| f.enc) = _
  unfold parseSeq
  rw [op_word _ _ _ (f.low.mono (by omega))]
  change some (Instr.trapWord _ _) = _
  rw [Head.parse_word _ _ _ f.low, SW.parse_enc]

theorem brk (h : Head) : Statement (.brk h) := by
  refine of_parse _ .seq rfl ?_
  change parseSeq (opWord 0x71 h) = _
  rw [← BitVec.or_zero (x := opWord 0x71 h)]
  unfold parseSeq
  rw [op_word _ _ _ (low_zero _)]
  change some (Instr.brk _) = _
  rw [Head.parse_word _ _ _ (low_zero _)]

theorem rdsys (h : Head) (f : SX) : Statement (.rdsys h f) := by
  refine of_parse _ .seq rfl ?_
  change parseSeq (opWord 0xE0 h ||| f.enc) = _
  unfold parseSeq
  rw [op_word _ _ _ (f.low.mono (by omega))]
  change some (Instr.rdsys _ _) = _
  rw [Head.parse_word _ _ _ f.low, SX.parse_enc]

theorem wrsys (h : Head) (f : SX) : Statement (.wrsys h f) := by
  refine of_parse _ .seq rfl ?_
  change parseSeq (opWord 0xE1 h ||| f.enc) = _
  unfold parseSeq
  rw [op_word _ _ _ (f.low.mono (by omega))]
  change some (Instr.wrsys _ _) = _
  rw [Head.parse_word _ _ _ f.low, SX.parse_enc]

theorem sret (h : Head) : Statement (.sret h) := by
  refine of_parse _ .seq rfl ?_
  change parseSeq (opWord 0xE2 h) = _
  rw [← BitVec.or_zero (x := opWord 0xE2 h)]
  unfold parseSeq
  rw [op_word _ _ _ (low_zero _)]
  have hb : (opWord 0xE2 h ||| 0#96).getLsbD 61 = false := by
    simp (disch := omega) only [opWord, bit_or, bit_off]; rfl
  change (if (opWord 0xE2 h ||| 0#96).getLsbD 61 then some (Instr.sretFault _) else some (Instr.sret _)) = _
  rw [hb, Head.parse_word _ _ _ (low_zero _)]
  rfl

theorem sretFault (h : Head) : Statement (.sretFault h) := by
  refine of_parse _ .seq rfl ?_
  change parseSeq (opWord 0xE2 h ||| place 61 1#1) = _
  unfold parseSeq
  rw [op_word _ _ _ (low_place _ _ _ (by omega))]
  have hb : (opWord 0xE2 h ||| place 61 1#1).getLsbD 61 = true := by
    simp (disch := omega) only [opWord, bit_or, bit_off]; rfl
  change (if (opWord 0xE2 h ||| place 61 1#1).getLsbD 61 then some (Instr.sretFault _) else some (Instr.sret _)) = _
  rw [hb, Head.parse_word _ _ _ (low_place _ _ _ (by omega))]
  rfl

theorem lres (h : Head) : Statement (.lres h) := by
  refine of_parse _ .seq rfl ?_
  change parseSeq (opWord 0xE3 h) = _
  rw [← BitVec.or_zero (x := opWord 0xE3 h)]
  unfold parseSeq
  rw [op_word _ _ _ (low_zero _)]
  change some (Instr.lres _) = _
  rw [Head.parse_word _ _ _ (low_zero _)]

theorem labn (h : Head) : Statement (.labn h) := by
  refine of_parse _ .seq rfl ?_
  change parseSeq (opWord 0xE4 h) = _
  rw [← BitVec.or_zero (x := opWord 0xE4 h)]
  unfold parseSeq
  rw [op_word _ _ _ (low_zero _)]
  change some (Instr.labn _) = _
  rw [Head.parse_word _ _ _ (low_zero _)]

theorem drain (h : Head) : Statement (.drain h) := by
  refine of_parse _ .seq rfl ?_
  change parseSeq (opWord 0xE5 h) = _
  rw [← BitVec.or_zero (x := opWord 0xE5 h)]
  unfold parseSeq
  rw [op_word _ _ _ (low_zero _)]
  change some (Instr.drain _) = _
  rw [Head.parse_word _ _ _ (low_zero _)]

theorem pswap (h : Head) : Statement (.pswap h) := by
  refine of_parse _ .seq rfl ?_
  change parseSeq (opWord 0xE6 h) = _
  rw [← BitVec.or_zero (x := opWord 0xE6 h)]
  unfold parseSeq
  rw [op_word _ _ _ (low_zero _)]
  change some (Instr.pswap _) = _
  rw [Head.parse_word _ _ _ (low_zero _)]

theorem tlbiVa (h : Head) (f : SX) : Statement (.tlbiVa h f) := by
  refine of_parse _ .seq rfl ?_
  change parseSeq (opWord 0xE7 h ||| f.enc) = _
  unfold parseSeq
  rw [op_word _ _ _ (f.low.mono (by omega))]
  change some (Instr.tlbiVa _ _) = _
  rw [Head.parse_word _ _ _ f.low, SX.parse_enc]

theorem tlbiAsid (h : Head) (f : SX) : Statement (.tlbiAsid h f) := by
  refine of_parse _ .seq rfl ?_
  change parseSeq (opWord 0xE8 h ||| f.enc) = _
  unfold parseSeq
  rw [op_word _ _ _ (f.low.mono (by omega))]
  change some (Instr.tlbiAsid _ _) = _
  rw [Head.parse_word _ _ _ f.low, SX.parse_enc]

theorem tlbiAll (h : Head) : Statement (.tlbiAll h) := by
  refine of_parse _ .seq rfl ?_
  change parseSeq (opWord 0xE9 h) = _
  rw [← BitVec.or_zero (x := opWord 0xE9 h)]
  unfold parseSeq
  rw [op_word _ _ _ (low_zero _)]
  change some (Instr.tlbiAll _) = _
  rw [Head.parse_word _ _ _ (low_zero _)]

theorem errrd (h : Head) (f : SX) : Statement (.errrd h f) := by
  refine of_parse _ .seq rfl ?_
  change parseSeq (opWord 0xEA h ||| f.enc) = _
  unfold parseSeq
  rw [op_word _ _ _ (f.low.mono (by omega))]
  change some (Instr.errrd _ _) = _
  rw [Head.parse_word _ _ _ f.low, SX.parse_enc]

theorem errclr (h : Head) (f : SX) : Statement (.errclr h f) := by
  refine of_parse _ .seq rfl ?_
  change parseSeq (opWord 0xEB h ||| f.enc) = _
  unfold parseSeq
  rw [op_word _ _ _ (f.low.mono (by omega))]
  change some (Instr.errclr _ _) = _
  rw [Head.parse_word _ _ _ f.low, SX.parse_enc]

theorem parkrd (h : Head) (f : SX) : Statement (.parkrd h f) := by
  refine of_parse _ .seq rfl ?_
  change parseSeq (opWord 0xEC h ||| f.enc) = _
  unfold parseSeq
  rw [op_word _ _ _ (f.low.mono (by omega))]
  change some (Instr.parkrd _ _) = _
  rw [Head.parse_word _ _ _ f.low, SX.parse_enc]

theorem barKill (h : Head) (f : SX) : Statement (.barKill h f) := by
  refine of_parse _ .seq rfl ?_
  change parseSeq (opWord 0xED h ||| f.enc) = _
  unfold parseSeq
  rw [op_word _ _ _ (f.low.mono (by omega))]
  change some (Instr.barKill _ _) = _
  rw [Head.parse_word _ _ _ f.low, SX.parse_enc]

theorem fence (e : Stream) (h : Head) (f : FF) : Statement (.fence e h f) := by
  cases e
  · refine of_parse _ .seq rfl ?_
    change parseSeq (opWord 0xFD h ||| f.enc) = _
    unfold parseSeq
    rw [op_word _ _ _ (f.low.mono (by omega))]
    change some (Instr.fence _ _ _) = _
    rw [Head.parse_word _ _ _ f.low, FF.parse_enc]
  · refine of_parse _ .m rfl ?_
    change parseM (opWord 0xFD h ||| f.enc) = _
    unfold parseM
    rw [op_word _ _ _ (f.low.mono (by omega))]
    change some (Instr.fence _ _ _) = _
    rw [Head.parse_word _ _ _ f.low, FF.parse_enc]
  · refine of_parse _ .v rfl ?_
    change parseV (opWord 0xFD h ||| f.enc) = _
    unfold parseV
    rw [op_word _ _ _ (f.low.mono (by omega))]
    change some (Instr.fence _ _ _) = _
    rw [Head.parse_word _ _ _ f.low, FF.parse_enc]
  · refine of_parse _ .x rfl ?_
    change parseX (opWord 0xFD h ||| f.enc) = _
    unfold parseX
    rw [op_word _ _ _ (f.low.mono (by omega))]
    change some (Instr.fence _ _ _) = _
    rw [Head.parse_word _ _ _ f.low, FF.parse_enc]

theorem nop (e : Stream) (h : Head) : Statement (.nop e h) := by
  cases e
  · refine of_parse _ .seq rfl ?_
    change parseSeq (opWord 0xFE h) = _
    rw [← BitVec.or_zero (x := opWord 0xFE h)]
    unfold parseSeq
    rw [op_word _ _ _ (low_zero _)]
    change some (Instr.nop _ _) = _
    rw [Head.parse_word _ _ _ (low_zero _)]
  · refine of_parse _ .m rfl ?_
    change parseM (opWord 0xFE h) = _
    rw [← BitVec.or_zero (x := opWord 0xFE h)]
    unfold parseM
    rw [op_word _ _ _ (low_zero _)]
    change some (Instr.nop _ _) = _
    rw [Head.parse_word _ _ _ (low_zero _)]
  · refine of_parse _ .v rfl ?_
    change parseV (opWord 0xFE h) = _
    rw [← BitVec.or_zero (x := opWord 0xFE h)]
    unfold parseV
    rw [op_word _ _ _ (low_zero _)]
    change some (Instr.nop _ _) = _
    rw [Head.parse_word _ _ _ (low_zero _)]
  · refine of_parse _ .x rfl ?_
    change parseX (opWord 0xFE h) = _
    rw [← BitVec.or_zero (x := opWord 0xFE h)]
    unfold parseX
    rw [op_word _ _ _ (low_zero _)]
    change some (Instr.nop _ _) = _
    rw [Head.parse_word _ _ _ (low_zero _)]

theorem vadd (g : BitVec 5) (f : VA) : Statement (.vadd g f) := by
  refine of_parse _ .v rfl ?_
  change parseV (engWord 0x01 g ||| f.enc) = _
  unfold parseV
  rw [op_eng _ _ _ (f.low.mono (by omega))]
  change some (Instr.vadd _ _) = _
  rw [gap_eng _ _ _ f.low, VA.parse_enc]

theorem vsub (g : BitVec 5) (f : VA) : Statement (.vsub g f) := by
  refine of_parse _ .v rfl ?_
  change parseV (engWord 0x02 g ||| f.enc) = _
  unfold parseV
  rw [op_eng _ _ _ (f.low.mono (by omega))]
  change some (Instr.vsub _ _) = _
  rw [gap_eng _ _ _ f.low, VA.parse_enc]

theorem vmul (g : BitVec 5) (f : VA) : Statement (.vmul g f) := by
  refine of_parse _ .v rfl ?_
  change parseV (engWord 0x03 g ||| f.enc) = _
  unfold parseV
  rw [op_eng _ _ _ (f.low.mono (by omega))]
  change some (Instr.vmul _ _) = _
  rw [gap_eng _ _ _ f.low, VA.parse_enc]

theorem vfma (g : BitVec 5) (f : VA) : Statement (.vfma g f) := by
  refine of_parse _ .v rfl ?_
  change parseV (engWord 0x04 g ||| f.enc) = _
  unfold parseV
  rw [op_eng _ _ _ (f.low.mono (by omega))]
  change some (Instr.vfma _ _) = _
  rw [gap_eng _ _ _ f.low, VA.parse_enc]

theorem vfms (g : BitVec 5) (f : VA) : Statement (.vfms g f) := by
  refine of_parse _ .v rfl ?_
  change parseV (engWord 0x05 g ||| f.enc) = _
  unfold parseV
  rw [op_eng _ _ _ (f.low.mono (by omega))]
  change some (Instr.vfms _ _) = _
  rw [gap_eng _ _ _ f.low, VA.parse_enc]

theorem vfnma (g : BitVec 5) (f : VA) : Statement (.vfnma g f) := by
  refine of_parse _ .v rfl ?_
  change parseV (engWord 0x06 g ||| f.enc) = _
  unfold parseV
  rw [op_eng _ _ _ (f.low.mono (by omega))]
  change some (Instr.vfnma _ _) = _
  rw [gap_eng _ _ _ f.low, VA.parse_enc]

theorem vdiv (g : BitVec 5) (f : VA) : Statement (.vdiv g f) := by
  refine of_parse _ .v rfl ?_
  change parseV (engWord 0x07 g ||| f.enc) = _
  unfold parseV
  rw [op_eng _ _ _ (f.low.mono (by omega))]
  change some (Instr.vdiv _ _) = _
  rw [gap_eng _ _ _ f.low, VA.parse_enc]

theorem vsqrt (g : BitVec 5) (f : VA) : Statement (.vsqrt g f) := by
  refine of_parse _ .v rfl ?_
  change parseV (engWord 0x08 g ||| f.enc) = _
  unfold parseV
  rw [op_eng _ _ _ (f.low.mono (by omega))]
  change some (Instr.vsqrt _ _) = _
  rw [gap_eng _ _ _ f.low, VA.parse_enc]

theorem vmin (g : BitVec 5) (f : VA) : Statement (.vmin g f) := by
  refine of_parse _ .v rfl ?_
  change parseV (engWord 0x09 g ||| f.enc) = _
  unfold parseV
  rw [op_eng _ _ _ (f.low.mono (by omega))]
  change some (Instr.vmin _ _) = _
  rw [gap_eng _ _ _ f.low, VA.parse_enc]

theorem vmax (g : BitVec 5) (f : VA) : Statement (.vmax g f) := by
  refine of_parse _ .v rfl ?_
  change parseV (engWord 0x0A g ||| f.enc) = _
  unfold parseV
  rw [op_eng _ _ _ (f.low.mono (by omega))]
  change some (Instr.vmax _ _) = _
  rw [gap_eng _ _ _ f.low, VA.parse_enc]

theorem vabs (g : BitVec 5) (f : VA) : Statement (.vabs g f) := by
  refine of_parse _ .v rfl ?_
  change parseV (engWord 0x0B g ||| f.enc) = _
  unfold parseV
  rw [op_eng _ _ _ (f.low.mono (by omega))]
  change some (Instr.vabs _ _) = _
  rw [gap_eng _ _ _ f.low, VA.parse_enc]

theorem vneg (g : BitVec 5) (f : VA) : Statement (.vneg g f) := by
  refine of_parse _ .v rfl ?_
  change parseV (engWord 0x0C g ||| f.enc) = _
  unfold parseV
  rw [op_eng _ _ _ (f.low.mono (by omega))]
  change some (Instr.vneg _ _) = _
  rw [gap_eng _ _ _ f.low, VA.parse_enc]

theorem vadds (g : BitVec 5) (f : VA) : Statement (.vadds g f) := by
  refine of_parse _ .v rfl ?_
  change parseV (engWord 0x0D g ||| f.enc) = _
  unfold parseV
  rw [op_eng _ _ _ (f.low.mono (by omega))]
  change some (Instr.vadds _ _) = _
  rw [gap_eng _ _ _ f.low, VA.parse_enc]

theorem vsubs (g : BitVec 5) (f : VA) : Statement (.vsubs g f) := by
  refine of_parse _ .v rfl ?_
  change parseV (engWord 0x0E g ||| f.enc) = _
  unfold parseV
  rw [op_eng _ _ _ (f.low.mono (by omega))]
  change some (Instr.vsubs _ _) = _
  rw [gap_eng _ _ _ f.low, VA.parse_enc]

theorem vmulh (g : BitVec 5) (f : VA) : Statement (.vmulh g f) := by
  refine of_parse _ .v rfl ?_
  change parseV (engWord 0x0F g ||| f.enc) = _
  unfold parseV
  rw [op_eng _ _ _ (f.low.mono (by omega))]
  change some (Instr.vmulh _ _) = _
  rw [gap_eng _ _ _ f.low, VA.parse_enc]

theorem vand (g : BitVec 5) (f : VA) : Statement (.vand g f) := by
  refine of_parse _ .v rfl ?_
  change parseV (engWord 0x10 g ||| f.enc) = _
  unfold parseV
  rw [op_eng _ _ _ (f.low.mono (by omega))]
  change some (Instr.vand _ _) = _
  rw [gap_eng _ _ _ f.low, VA.parse_enc]

theorem vor (g : BitVec 5) (f : VA) : Statement (.vor g f) := by
  refine of_parse _ .v rfl ?_
  change parseV (engWord 0x11 g ||| f.enc) = _
  unfold parseV
  rw [op_eng _ _ _ (f.low.mono (by omega))]
  change some (Instr.vor _ _) = _
  rw [gap_eng _ _ _ f.low, VA.parse_enc]

theorem vxor (g : BitVec 5) (f : VA) : Statement (.vxor g f) := by
  refine of_parse _ .v rfl ?_
  change parseV (engWord 0x12 g ||| f.enc) = _
  unfold parseV
  rw [op_eng _ _ _ (f.low.mono (by omega))]
  change some (Instr.vxor _ _) = _
  rw [gap_eng _ _ _ f.low, VA.parse_enc]

theorem vnot (g : BitVec 5) (f : VA) : Statement (.vnot g f) := by
  refine of_parse _ .v rfl ?_
  change parseV (engWord 0x13 g ||| f.enc) = _
  unfold parseV
  rw [op_eng _ _ _ (f.low.mono (by omega))]
  change some (Instr.vnot _ _) = _
  rw [gap_eng _ _ _ f.low, VA.parse_enc]

theorem vshl (g : BitVec 5) (f : VA) : Statement (.vshl g f) := by
  refine of_parse _ .v rfl ?_
  change parseV (engWord 0x14 g ||| f.enc) = _
  unfold parseV
  rw [op_eng _ _ _ (f.low.mono (by omega))]
  change some (Instr.vshl _ _) = _
  rw [gap_eng _ _ _ f.low, VA.parse_enc]

theorem vshr (g : BitVec 5) (f : VA) : Statement (.vshr g f) := by
  refine of_parse _ .v rfl ?_
  change parseV (engWord 0x15 g ||| f.enc) = _
  unfold parseV
  rw [op_eng _ _ _ (f.low.mono (by omega))]
  change some (Instr.vshr _ _) = _
  rw [gap_eng _ _ _ f.low, VA.parse_enc]

theorem vsar (g : BitVec 5) (f : VA) : Statement (.vsar g f) := by
  refine of_parse _ .v rfl ?_
  change parseV (engWord 0x16 g ||| f.enc) = _
  unfold parseV
  rw [op_eng _ _ _ (f.low.mono (by omega))]
  change some (Instr.vsar _ _) = _
  rw [gap_eng _ _ _ f.low, VA.parse_enc]

theorem vrot (g : BitVec 5) (f : VA) : Statement (.vrot g f) := by
  refine of_parse _ .v rfl ?_
  change parseV (engWord 0x17 g ||| f.enc) = _
  unfold parseV
  rw [op_eng _ _ _ (f.low.mono (by omega))]
  change some (Instr.vrot _ _) = _
  rw [gap_eng _ _ _ f.low, VA.parse_enc]

theorem vclmul (g : BitVec 5) (f : VA) : Statement (.vclmul g f) := by
  refine of_parse _ .v rfl ?_
  change parseV (engWord 0x18 g ||| f.enc) = _
  unfold parseV
  rw [op_eng _ _ _ (f.low.mono (by omega))]
  change some (Instr.vclmul _ _) = _
  rw [gap_eng _ _ _ f.low, VA.parse_enc]

theorem vpopc (g : BitVec 5) (f : VA) : Statement (.vpopc g f) := by
  refine of_parse _ .v rfl ?_
  change parseV (engWord 0x19 g ||| f.enc) = _
  unfold parseV
  rw [op_eng _ _ _ (f.low.mono (by omega))]
  change some (Instr.vpopc _ _) = _
  rw [gap_eng _ _ _ f.low, VA.parse_enc]

theorem vclz (g : BitVec 5) (f : VA) : Statement (.vclz g f) := by
  refine of_parse _ .v rfl ?_
  change parseV (engWord 0x1A g ||| f.enc) = _
  unfold parseV
  rw [op_eng _ _ _ (f.low.mono (by omega))]
  change some (Instr.vclz _ _) = _
  rw [gap_eng _ _ _ f.low, VA.parse_enc]

theorem vsel (g : BitVec 5) (f : VA) : Statement (.vsel g f) := by
  refine of_parse _ .v rfl ?_
  change parseV (engWord 0x1B g ||| f.enc) = _
  unfold parseV
  rw [op_eng _ _ _ (f.low.mono (by omega))]
  change some (Instr.vsel _ _) = _
  rw [gap_eng _ _ _ f.low, VA.parse_enc]

theorem vbidx (g : BitVec 5) (f : VA) : Statement (.vbidx g f) := by
  refine of_parse _ .v rfl ?_
  change parseV (engWord 0x1C g ||| f.enc) = _
  unfold parseV
  rw [op_eng _ _ _ (f.low.mono (by omega))]
  change some (Instr.vbidx _ _) = _
  rw [gap_eng _ _ _ f.low, VA.parse_enc]

theorem vbcmp (g : BitVec 5) (f : VA) : Statement (.vbcmp g f) := by
  refine of_parse _ .v rfl ?_
  change parseV (engWord 0x1D g ||| f.enc) = _
  unfold parseV
  rw [op_eng _ _ _ (f.low.mono (by omega))]
  change some (Instr.vbcmp _ _) = _
  rw [gap_eng _ _ _ f.low, VA.parse_enc]

theorem vmov (g : BitVec 5) (f : VA) : Statement (.vmov g f) := by
  refine of_parse _ .v rfl ?_
  change parseV (engWord 0x1E g ||| f.enc) = _
  unfold parseV
  rw [op_eng _ _ _ (f.low.mono (by omega))]
  change some (Instr.vmov _ _) = _
  rw [gap_eng _ _ _ f.low, VA.parse_enc]

theorem vsplat (g : BitVec 5) (f : VA) : Statement (.vsplat g f) := by
  refine of_parse _ .v rfl ?_
  change parseV (engWord 0x1F g ||| f.enc) = _
  unfold parseV
  rw [op_eng _ _ _ (f.low.mono (by omega))]
  change some (Instr.vsplat _ _) = _
  rw [gap_eng _ _ _ f.low, VA.parse_enc]

theorem vcmp (g : BitVec 5) (f : VA) : Statement (.vcmp g f) := by
  refine of_parse _ .v rfl ?_
  change parseV (engWord 0x20 g ||| f.enc) = _
  unfold parseV
  rw [op_eng _ _ _ (f.low.mono (by omega))]
  change some (Instr.vcmp _ _) = _
  rw [gap_eng _ _ _ f.low, VA.parse_enc]

theorem mand (g : BitVec 5) (f : VA) : Statement (.mand g f) := by
  refine of_parse _ .v rfl ?_
  change parseV (engWord 0x21 g ||| f.enc) = _
  unfold parseV
  rw [op_eng _ _ _ (f.low.mono (by omega))]
  change some (Instr.mand _ _) = _
  rw [gap_eng _ _ _ f.low, VA.parse_enc]

theorem mor (g : BitVec 5) (f : VA) : Statement (.mor g f) := by
  refine of_parse _ .v rfl ?_
  change parseV (engWord 0x22 g ||| f.enc) = _
  unfold parseV
  rw [op_eng _ _ _ (f.low.mono (by omega))]
  change some (Instr.mor _ _) = _
  rw [gap_eng _ _ _ f.low, VA.parse_enc]

theorem mxor (g : BitVec 5) (f : VA) : Statement (.mxor g f) := by
  refine of_parse _ .v rfl ?_
  change parseV (engWord 0x23 g ||| f.enc) = _
  unfold parseV
  rw [op_eng _ _ _ (f.low.mono (by omega))]
  change some (Instr.mxor _ _) = _
  rw [gap_eng _ _ _ f.low, VA.parse_enc]

theorem mnot (g : BitVec 5) (f : VA) : Statement (.mnot g f) := by
  refine of_parse _ .v rfl ?_
  change parseV (engWord 0x24 g ||| f.enc) = _
  unfold parseV
  rw [op_eng _ _ _ (f.low.mono (by omega))]
  change some (Instr.mnot _ _) = _
  rw [gap_eng _ _ _ f.low, VA.parse_enc]

theorem mfromv (g : BitVec 5) (f : VA) : Statement (.mfromv g f) := by
  refine of_parse _ .v rfl ?_
  change parseV (engWord 0x25 g ||| f.enc) = _
  unfold parseV
  rw [op_eng _ _ _ (f.low.mono (by omega))]
  change some (Instr.mfromv _ _) = _
  rw [gap_eng _ _ _ f.low, VA.parse_enc]

theorem mtov (g : BitVec 5) (f : VA) : Statement (.mtov g f) := by
  refine of_parse _ .v rfl ?_
  change parseV (engWord 0x26 g ||| f.enc) = _
  unfold parseV
  rw [op_eng _ _ _ (f.low.mono (by omega))]
  change some (Instr.mtov _ _) = _
  rw [gap_eng _ _ _ f.low, VA.parse_enc]

theorem vcvt (g : BitVec 5) (f : VA) : Statement (.vcvt g f) := by
  refine of_parse _ .v rfl ?_
  change parseV (engWord 0x30 g ||| f.enc) = _
  unfold parseV
  rw [op_eng _ _ _ (f.low.mono (by omega))]
  change some (Instr.vcvt _ _) = _
  rw [gap_eng _ _ _ f.low, VA.parse_enc]

theorem vmxq (g : BitVec 5) (f : VA) : Statement (.vmxq g f) := by
  refine of_parse _ .v rfl ?_
  change parseV (engWord 0x38 g ||| f.enc) = _
  unfold parseV
  rw [op_eng _ _ _ (f.low.mono (by omega))]
  change some (Instr.vmxq _ _) = _
  rw [gap_eng _ _ _ f.low, VA.parse_enc]

theorem vmxd (g : BitVec 5) (f : VA) : Statement (.vmxd g f) := by
  refine of_parse _ .v rfl ?_
  change parseV (engWord 0x39 g ||| f.enc) = _
  unfold parseV
  rw [op_eng _ _ _ (f.low.mono (by omega))]
  change some (Instr.vmxd _ _) = _
  rw [gap_eng _ _ _ f.low, VA.parse_enc]

theorem vredadd (g : BitVec 5) (f : VA) : Statement (.vredadd g f) := by
  refine of_parse _ .v rfl ?_
  change parseV (engWord 0x40 g ||| f.enc) = _
  unfold parseV
  rw [op_eng _ _ _ (f.low.mono (by omega))]
  change some (Instr.vredadd _ _) = _
  rw [gap_eng _ _ _ f.low, VA.parse_enc]

theorem vredmin (g : BitVec 5) (f : VA) : Statement (.vredmin g f) := by
  refine of_parse _ .v rfl ?_
  change parseV (engWord 0x41 g ||| f.enc) = _
  unfold parseV
  rw [op_eng _ _ _ (f.low.mono (by omega))]
  change some (Instr.vredmin _ _) = _
  rw [gap_eng _ _ _ f.low, VA.parse_enc]

theorem vredmax (g : BitVec 5) (f : VA) : Statement (.vredmax g f) := by
  refine of_parse _ .v rfl ?_
  change parseV (engWord 0x42 g ||| f.enc) = _
  unfold parseV
  rw [op_eng _ _ _ (f.low.mono (by omega))]
  change some (Instr.vredmax _ _) = _
  rw [gap_eng _ _ _ f.low, VA.parse_enc]

theorem vredand (g : BitVec 5) (f : VA) : Statement (.vredand g f) := by
  refine of_parse _ .v rfl ?_
  change parseV (engWord 0x43 g ||| f.enc) = _
  unfold parseV
  rw [op_eng _ _ _ (f.low.mono (by omega))]
  change some (Instr.vredand _ _) = _
  rw [gap_eng _ _ _ f.low, VA.parse_enc]

theorem vredor (g : BitVec 5) (f : VA) : Statement (.vredor g f) := by
  refine of_parse _ .v rfl ?_
  change parseV (engWord 0x44 g ||| f.enc) = _
  unfold parseV
  rw [op_eng _ _ _ (f.low.mono (by omega))]
  change some (Instr.vredor _ _) = _
  rw [gap_eng _ _ _ f.low, VA.parse_enc]

theorem vredxor (g : BitVec 5) (f : VA) : Statement (.vredxor g f) := by
  refine of_parse _ .v rfl ?_
  change parseV (engWord 0x45 g ||| f.enc) = _
  unfold parseV
  rw [op_eng _ _ _ (f.low.mono (by omega))]
  change some (Instr.vredxor _ _) = _
  rw [gap_eng _ _ _ f.low, VA.parse_enc]

theorem vscanadd (g : BitVec 5) (f : VA) : Statement (.vscanadd g f) := by
  refine of_parse _ .v rfl ?_
  change parseV (engWord 0x46 g ||| f.enc) = _
  unfold parseV
  rw [op_eng _ _ _ (f.low.mono (by omega))]
  change some (Instr.vscanadd _ _) = _
  rw [gap_eng _ _ _ f.low, VA.parse_enc]

theorem vscanmin (g : BitVec 5) (f : VA) : Statement (.vscanmin g f) := by
  refine of_parse _ .v rfl ?_
  change parseV (engWord 0x47 g ||| f.enc) = _
  unfold parseV
  rw [op_eng _ _ _ (f.low.mono (by omega))]
  change some (Instr.vscanmin _ _) = _
  rw [gap_eng _ _ _ f.low, VA.parse_enc]

theorem vscanmax (g : BitVec 5) (f : VA) : Statement (.vscanmax g f) := by
  refine of_parse _ .v rfl ?_
  change parseV (engWord 0x48 g ||| f.enc) = _
  unfold parseV
  rw [op_eng _ _ _ (f.low.mono (by omega))]
  change some (Instr.vscanmax _ _) = _
  rw [gap_eng _ _ _ f.low, VA.parse_enc]

theorem vscanxor (g : BitVec 5) (f : VA) : Statement (.vscanxor g f) := by
  refine of_parse _ .v rfl ?_
  change parseV (engWord 0x49 g ||| f.enc) = _
  unfold parseV
  rw [op_eng _ _ _ (f.low.mono (by omega))]
  change some (Instr.vscanxor _ _) = _
  rw [gap_eng _ _ _ f.low, VA.parse_enc]

theorem vtrn (g : BitVec 5) (f : VA) : Statement (.vtrn g f) := by
  refine of_parse _ .v rfl ?_
  change parseV (engWord 0x50 g ||| f.enc) = _
  unfold parseV
  rw [op_eng _ _ _ (f.low.mono (by omega))]
  change some (Instr.vtrn _ _) = _
  rw [gap_eng _ _ _ f.low, VA.parse_enc]

theorem vperm (g : BitVec 5) (f : VA) : Statement (.vperm g f) := by
  refine of_parse _ .v rfl ?_
  change parseV (engWord 0x51 g ||| f.enc) = _
  unfold parseV
  rw [op_eng _ _ _ (f.low.mono (by omega))]
  change some (Instr.vperm _ _) = _
  rw [gap_eng _ _ _ f.low, VA.parse_enc]

theorem vshuf (g : BitVec 5) (f : VA) : Statement (.vshuf g f) := by
  refine of_parse _ .v rfl ?_
  change parseV (engWord 0x52 g ||| f.enc) = _
  unfold parseV
  rw [op_eng _ _ _ (f.low.mono (by omega))]
  change some (Instr.vshuf _ _) = _
  rw [gap_eng _ _ _ f.low, VA.parse_enc]

theorem vslide (g : BitVec 5) (f : VA) : Statement (.vslide g f) := by
  refine of_parse _ .v rfl ?_
  change parseV (engWord 0x53 g ||| f.enc) = _
  unfold parseV
  rw [op_eng _ _ _ (f.low.mono (by omega))]
  change some (Instr.vslide _ _) = _
  rw [gap_eng _ _ _ f.low, VA.parse_enc]

theorem vcompress (g : BitVec 5) (f : VA) : Statement (.vcompress g f) := by
  refine of_parse _ .v rfl ?_
  change parseV (engWord 0x54 g ||| f.enc) = _
  unfold parseV
  rw [op_eng _ _ _ (f.low.mono (by omega))]
  change some (Instr.vcompress _ _) = _
  rw [gap_eng _ _ _ f.low, VA.parse_enc]

theorem vexpand (g : BitVec 5) (f : VA) : Statement (.vexpand g f) := by
  refine of_parse _ .v rfl ?_
  change parseV (engWord 0x55 g ||| f.enc) = _
  unfold parseV
  rw [op_eng _ _ _ (f.low.mono (by omega))]
  change some (Instr.vexpand _ _) = _
  rw [gap_eng _ _ _ f.low, VA.parse_enc]

theorem vld (g : BitVec 5) (f : VM) : Statement (.vld g f) := by
  refine of_parse _ .v rfl ?_
  change parseV (engWord 0x60 g ||| f.enc) = _
  unfold parseV
  rw [op_eng _ _ _ (f.low.mono (by omega))]
  change some (Instr.vld _ _) = _
  rw [gap_eng _ _ _ f.low, VM.parse_enc]

theorem vst (g : BitVec 5) (f : VM) : Statement (.vst g f) := by
  refine of_parse _ .v rfl ?_
  change parseV (engWord 0x61 g ||| f.enc) = _
  unfold parseV
  rw [op_eng _ _ _ (f.low.mono (by omega))]
  change some (Instr.vst _ _) = _
  rw [gap_eng _ _ _ f.low, VM.parse_enc]

theorem mld (g : BitVec 5) (f : VM) : Statement (.mld g f) := by
  refine of_parse _ .v rfl ?_
  change parseV (engWord 0x62 g ||| f.enc) = _
  unfold parseV
  rw [op_eng _ _ _ (f.low.mono (by omega))]
  change some (Instr.mld _ _) = _
  rw [gap_eng _ _ _ f.low, VM.parse_enc]

theorem mst (g : BitVec 5) (f : VM) : Statement (.mst g f) := by
  refine of_parse _ .v rfl ?_
  change parseV (engWord 0x63 g ||| f.enc) = _
  unfold parseV
  rw [op_eng _ _ _ (f.low.mono (by omega))]
  change some (Instr.mst _ _) = _
  rw [gap_eng _ _ _ f.low, VM.parse_enc]

theorem vfclr (g : BitVec 5) (f : VA) : Statement (.vfclr g f) := by
  refine of_parse _ .v rfl ?_
  change parseV (engWord 0x65 g ||| f.enc) = _
  unfold parseV
  rw [op_eng _ _ _ (f.low.mono (by omega))]
  change some (Instr.vfclr _ _) = _
  rw [gap_eng _ _ _ f.low, VA.parse_enc]

theorem vfrd (g : BitVec 5) (f : VA) : Statement (.vfrd g f) := by
  refine of_parse _ .v rfl ?_
  change parseV (engWord 0x66 g ||| f.enc) = _
  unfold parseV
  rw [op_eng _ _ _ (f.low.mono (by omega))]
  change some (Instr.vfrd _ _) = _
  rw [gap_eng _ _ _ f.low, VA.parse_enc]

theorem vtol (g : BitVec 5) (f : VA) : Statement (.vtol g f) := by
  refine of_parse _ .v rfl ?_
  change parseV (engWord 0x70 g ||| f.enc) = _
  unfold parseV
  rw [op_eng _ _ _ (f.low.mono (by omega))]
  change some (Instr.vtol _ _) = _
  rw [gap_eng _ _ _ f.low, VA.parse_enc]

theorem vfroml (g : BitVec 5) (f : VA) : Statement (.vfroml g f) := by
  refine of_parse _ .v rfl ?_
  change parseV (engWord 0x71 g ||| f.enc) = _
  unfold parseV
  rw [op_eng _ _ _ (f.low.mono (by omega))]
  change some (Instr.vfroml _ _) = _
  rw [gap_eng _ _ _ f.low, VA.parse_enc]

theorem lmul (g : BitVec 5) (f : VA) : Statement (.lmul g f) := by
  refine of_parse _ .v rfl ?_
  change parseV (engWord 0x72 g ||| f.enc) = _
  unfold parseV
  rw [op_eng _ _ _ (f.low.mono (by omega))]
  change some (Instr.lmul _ _) = _
  rw [gap_eng _ _ _ f.low, VA.parse_enc]

theorem ldiv (g : BitVec 5) (f : VA) : Statement (.ldiv g f) := by
  refine of_parse _ .v rfl ?_
  change parseV (engWord 0x73 g ||| f.enc) = _
  unfold parseV
  rw [op_eng _ _ _ (f.low.mono (by omega))]
  change some (Instr.ldiv _ _) = _
  rw [gap_eng _ _ _ f.low, VA.parse_enc]

theorem lroot (g : BitVec 5) (f : VA) : Statement (.lroot g f) := by
  refine of_parse _ .v rfl ?_
  change parseV (engWord 0x74 g ||| f.enc) = _
  unfold parseV
  rw [op_eng _ _ _ (f.low.mono (by omega))]
  change some (Instr.lroot _ _) = _
  rw [gap_eng _ _ _ f.low, VA.parse_enc]

theorem lpow (g : BitVec 5) (f : VA) : Statement (.lpow g f) := by
  refine of_parse _ .v rfl ?_
  change parseV (engWord 0x75 g ||| f.enc) = _
  unfold parseV
  rw [op_eng _ _ _ (f.low.mono (by omega))]
  change some (Instr.lpow _ _) = _
  rw [gap_eng _ _ _ f.low, VA.parse_enc]

theorem frsqrt (g : BitVec 5) (f : VA) : Statement (.frsqrt g f) := by
  refine of_parse _ .v rfl ?_
  change parseV (engWord 0x78 g ||| f.enc) = _
  unfold parseV
  rw [op_eng _ _ _ (f.low.mono (by omega))]
  change some (Instr.frsqrt _ _) = _
  rw [gap_eng _ _ _ f.low, VA.parse_enc]

theorem frcp (g : BitVec 5) (f : VA) : Statement (.frcp g f) := by
  refine of_parse _ .v rfl ?_
  change parseV (engWord 0x79 g ||| f.enc) = _
  unfold parseV
  rw [op_eng _ _ _ (f.low.mono (by omega))]
  change some (Instr.frcp _ _) = _
  rw [gap_eng _ _ _ f.low, VA.parse_enc]

theorem fsqrt (g : BitVec 5) (f : VA) : Statement (.fsqrt g f) := by
  refine of_parse _ .v rfl ?_
  change parseV (engWord 0x7A g ||| f.enc) = _
  unfold parseV
  rw [op_eng _ _ _ (f.low.mono (by omega))]
  change some (Instr.fsqrt _ _) = _
  rw [gap_eng _ _ _ f.low, VA.parse_enc]

theorem fexp2 (g : BitVec 5) (f : VA) : Statement (.fexp2 g f) := by
  refine of_parse _ .v rfl ?_
  change parseV (engWord 0x7B g ||| f.enc) = _
  unfold parseV
  rw [op_eng _ _ _ (f.low.mono (by omega))]
  change some (Instr.fexp2 _ _) = _
  rw [gap_eng _ _ _ f.low, VA.parse_enc]

theorem flog2 (g : BitVec 5) (f : VA) : Statement (.flog2 g f) := by
  refine of_parse _ .v rfl ?_
  change parseV (engWord 0x7C g ||| f.enc) = _
  unfold parseV
  rw [op_eng _ _ _ (f.low.mono (by omega))]
  change some (Instr.flog2 _ _) = _
  rw [gap_eng _ _ _ f.low, VA.parse_enc]

theorem fsigm (g : BitVec 5) (f : VA) : Statement (.fsigm g f) := by
  refine of_parse _ .v rfl ?_
  change parseV (engWord 0x7D g ||| f.enc) = _
  unfold parseV
  rw [op_eng _ _ _ (f.low.mono (by omega))]
  change some (Instr.fsigm _ _) = _
  rw [gap_eng _ _ _ f.low, VA.parse_enc]

theorem ftanh (g : BitVec 5) (f : VA) : Statement (.ftanh g f) := by
  refine of_parse _ .v rfl ?_
  change parseV (engWord 0x7E g ||| f.enc) = _
  unfold parseV
  rw [op_eng _ _ _ (f.low.mono (by omega))]
  change some (Instr.ftanh _ _) = _
  rw [gap_eng _ _ _ f.low, VA.parse_enc]

theorem fsilu (g : BitVec 5) (f : VA) : Statement (.fsilu g f) := by
  refine of_parse _ .v rfl ?_
  change parseV (engWord 0x7F g ||| f.enc) = _
  unfold parseV
  rw [op_eng _ _ _ (f.low.mono (by omega))]
  change some (Instr.fsilu _ _) = _
  rw [gap_eng _ _ _ f.low, VA.parse_enc]

theorem vrng (g : BitVec 5) (f : VA) : Statement (.vrng g f) := by
  refine of_parse _ .v rfl ?_
  change parseV (engWord 0x80 g ||| f.enc) = _
  unfold parseV
  rw [op_eng _ _ _ (f.low.mono (by omega))]
  change some (Instr.vrng _ _) = _
  rw [gap_eng _ _ _ f.low, VA.parse_enc]

theorem vrotw (g : BitVec 5) (f : VA) : Statement (.vrotw g f) := by
  refine of_parse _ .v rfl ?_
  change parseV (engWord 0x81 g ||| f.enc) = _
  unfold parseV
  rw [op_eng _ _ _ (f.low.mono (by omega))]
  change some (Instr.vrotw _ _) = _
  rw [gap_eng _ _ _ f.low, VA.parse_enc]

theorem qfrom (g : BitVec 5) (f : VA) : Statement (.qfrom g f) := by
  refine of_parse _ .v rfl ?_
  change parseV (engWord 0x90 g ||| f.enc) = _
  unfold parseV
  rw [op_eng _ _ _ (f.low.mono (by omega))]
  change some (Instr.qfrom _ _) = _
  rw [gap_eng _ _ _ f.low, VA.parse_enc]

theorem qto (g : BitVec 5) (f : VA) : Statement (.qto g f) := by
  refine of_parse _ .v rfl ?_
  change parseV (engWord 0x91 g ||| f.enc) = _
  unfold parseV
  rw [op_eng _ _ _ (f.low.mono (by omega))]
  change some (Instr.qto _ _) = _
  rw [gap_eng _ _ _ f.low, VA.parse_enc]

theorem qcos (g : BitVec 5) (f : VA) : Statement (.qcos g f) := by
  refine of_parse _ .v rfl ?_
  change parseV (engWord 0x92 g ||| f.enc) = _
  unfold parseV
  rw [op_eng _ _ _ (f.low.mono (by omega))]
  change some (Instr.qcos _ _) = _
  rw [gap_eng _ _ _ f.low, VA.parse_enc]

theorem qdot (g : BitVec 5) (f : VA) : Statement (.qdot g f) := by
  refine of_parse _ .v rfl ?_
  change parseV (engWord 0x93 g ||| f.enc) = _
  unfold parseV
  rw [op_eng _ _ _ (f.low.mono (by omega))]
  change some (Instr.qdot _ _) = _
  rw [gap_eng _ _ _ f.low, VA.parse_enc]

theorem qscl (g : BitVec 5) (f : VA) : Statement (.qscl g f) := by
  refine of_parse _ .v rfl ?_
  change parseV (engWord 0x94 g ||| f.enc) = _
  unfold parseV
  rw [op_eng _ _ _ (f.low.mono (by omega))]
  change some (Instr.qscl _ _) = _
  rw [gap_eng _ _ _ f.low, VA.parse_enc]

theorem qadd (g : BitVec 5) (f : VA) : Statement (.qadd g f) := by
  refine of_parse _ .v rfl ?_
  change parseV (engWord 0x95 g ||| f.enc) = _
  unfold parseV
  rw [op_eng _ _ _ (f.low.mono (by omega))]
  change some (Instr.qadd _ _) = _
  rw [gap_eng _ _ _ f.low, VA.parse_enc]

theorem qsub (g : BitVec 5) (f : VA) : Statement (.qsub g f) := by
  refine of_parse _ .v rfl ?_
  change parseV (engWord 0x96 g ||| f.enc) = _
  unfold parseV
  rw [op_eng _ _ _ (f.low.mono (by omega))]
  change some (Instr.qsub _ _) = _
  rw [gap_eng _ _ _ f.low, VA.parse_enc]

theorem qlerp (g : BitVec 5) (f : VA) : Statement (.qlerp g f) := by
  refine of_parse _ .v rfl ?_
  change parseV (engWord 0x97 g ||| f.enc) = _
  unfold parseV
  rw [op_eng _ _ _ (f.low.mono (by omega))]
  change some (Instr.qlerp _ _) = _
  rw [gap_eng _ _ _ f.low, VA.parse_enc]

theorem qneg (g : BitVec 5) (f : VA) : Statement (.qneg g f) := by
  refine of_parse _ .v rfl ?_
  change parseV (engWord 0x98 g ||| f.enc) = _
  unfold parseV
  rw [op_eng _ _ _ (f.low.mono (by omega))]
  change some (Instr.qneg _ _) = _
  rw [gap_eng _ _ _ f.low, VA.parse_enc]

theorem qrms (g : BitVec 5) (f : VA) : Statement (.qrms g f) := by
  refine of_parse _ .v rfl ?_
  change parseV (engWord 0x99 g ||| f.enc) = _
  unfold parseV
  rw [op_eng _ _ _ (f.low.mono (by omega))]
  change some (Instr.qrms _ _) = _
  rw [gap_eng _ _ _ f.low, VA.parse_enc]

theorem qq8 (g : BitVec 5) (f : VA) : Statement (.qq8 g f) := by
  refine of_parse _ .v rfl ?_
  change parseV (engWord 0x9A g ||| f.enc) = _
  unfold parseV
  rw [op_eng _ _ _ (f.low.mono (by omega))]
  change some (Instr.qq8 _ _) = _
  rw [gap_eng _ _ _ f.low, VA.parse_enc]

theorem qnget (g : BitVec 5) (f : VA) : Statement (.qnget g f) := by
  refine of_parse _ .v rfl ?_
  change parseV (engWord 0x9B g ||| f.enc) = _
  unfold parseV
  rw [op_eng _ _ _ (f.low.mono (by omega))]
  change some (Instr.qnget _ _) = _
  rw [gap_eng _ _ _ f.low, VA.parse_enc]

theorem qnset (g : BitVec 5) (f : VA) : Statement (.qnset g f) := by
  refine of_parse _ .v rfl ?_
  change parseV (engWord 0x9C g ||| f.enc) = _
  unfold parseV
  rw [op_eng _ _ _ (f.low.mono (by omega))]
  change some (Instr.qnset _ _) = _
  rw [gap_eng _ _ _ f.low, VA.parse_enc]

theorem qcls (g : BitVec 5) (f : VA) : Statement (.qcls g f) := by
  refine of_parse _ .v rfl ?_
  change parseV (engWord 0x9D g ||| f.enc) = _
  unfold parseV
  rw [op_eng _ _ _ (f.low.mono (by omega))]
  change some (Instr.qcls _ _) = _
  rw [gap_eng _ _ _ f.low, VA.parse_enc]

theorem qmov (g : BitVec 5) (f : VA) : Statement (.qmov g f) := by
  refine of_parse _ .v rfl ?_
  change parseV (engWord 0x9E g ||| f.enc) = _
  unfold parseV
  rw [op_eng _ _ _ (f.low.mono (by omega))]
  change some (Instr.qmov _ _) = _
  rw [gap_eng _ _ _ f.low, VA.parse_enc]

theorem qld (g : BitVec 5) (f : VM) : Statement (.qld g f) := by
  refine of_parse _ .v rfl ?_
  change parseV (engWord 0xA0 g ||| f.enc) = _
  unfold parseV
  rw [op_eng _ _ _ (f.low.mono (by omega))]
  change some (Instr.qld _ _) = _
  rw [gap_eng _ _ _ f.low, VM.parse_enc]

theorem qst (g : BitVec 5) (f : VM) : Statement (.qst g f) := by
  refine of_parse _ .v rfl ?_
  change parseV (engWord 0xA1 g ||| f.enc) = _
  unfold parseV
  rw [op_eng _ _ _ (f.low.mono (by omega))]
  change some (Instr.qst _ _) = _
  rw [gap_eng _ _ _ f.low, VM.parse_enc]

theorem mwld (g : BitVec 5) (f : MC) : Statement (.mwld g f) := by
  refine of_parse _ .m rfl ?_
  change parseM (engWord 0x10 g ||| f.enc) = _
  unfold parseM
  rw [op_eng _ _ _ (f.low.mono (by omega))]
  change some (Instr.mwld _ _) = _
  rw [gap_eng _ _ _ f.low, MC.parse_enc]

theorem macc (g : BitVec 5) (f : MC) : Statement (.macc g f) := by
  refine of_parse _ .m rfl ?_
  change parseM (engWord 0x20 g ||| f.enc) = _
  unfold parseM
  rw [op_eng _ _ _ (f.low.mono (by omega))]
  change some (Instr.macc _ _) = _
  rw [gap_eng _ _ _ f.low, MC.parse_enc]

theorem mclr (g : BitVec 5) (f : MC) : Statement (.mclr g f) := by
  refine of_parse _ .m rfl ?_
  change parseM (engWord 0x30 g ||| f.enc) = _
  unfold parseM
  rw [op_eng _ _ _ (f.low.mono (by omega))]
  change some (Instr.mclr _ _) = _
  rw [gap_eng _ _ _ f.low, MC.parse_enc]

theorem mepi (g : BitVec 5) (f : MC) : Statement (.mepi g f) := by
  refine of_parse _ .m rfl ?_
  change parseM (engWord 0x40 g ||| f.enc) = _
  unfold parseM
  rw [op_eng _ _ _ (f.low.mono (by omega))]
  change some (Instr.mepi _ _) = _
  rw [gap_eng _ _ _ f.low, MC.parse_enc]

theorem mflg (g : BitVec 5) (f : MC) : Statement (.mflg g f) := by
  refine of_parse _ .m rfl ?_
  change parseM (engWord 0x50 g ||| f.enc) = _
  unfold parseM
  rw [op_eng _ _ _ (f.low.mono (by omega))]
  change some (Instr.mflg _ _) = _
  rw [gap_eng _ _ _ f.low, MC.parse_enc]

theorem mfclr (g : BitVec 5) (f : MC) : Statement (.mfclr g f) := by
  refine of_parse _ .m rfl ?_
  change parseM (engWord 0x51 g ||| f.enc) = _
  unfold parseM
  rw [op_eng _ _ _ (f.low.mono (by omega))]
  change some (Instr.mfclr _ _) = _
  rw [gap_eng _ _ _ f.low, MC.parse_enc]

theorem xchNd (g : BitVec 5) (f : XE) : Statement (.xchNd g f) := by
  refine of_parse _ .x rfl ?_
  change parseX (engWord 0x10 g ||| f.enc) = _
  unfold parseX
  rw [op_eng _ _ _ (f.low.mono (by omega))]
  change some (Instr.xchNd _ _) = _
  rw [gap_eng _ _ _ f.low, XE.parse_enc]

theorem xchNm (g : BitVec 5) (f : XE) : Statement (.xchNm g f) := by
  refine of_parse _ .x rfl ?_
  change parseX (engWord 0x11 g ||| f.enc) = _
  unfold parseX
  rw [op_eng _ _ _ (f.low.mono (by omega))]
  change some (Instr.xchNm _ _) = _
  rw [gap_eng _ _ _ f.low, XE.parse_enc]

theorem xchDm (g : BitVec 5) (f : XE) : Statement (.xchDm g f) := by
  refine of_parse _ .x rfl ?_
  change parseX (engWord 0x12 g ||| f.enc) = _
  unfold parseX
  rw [op_eng _ _ _ (f.low.mono (by omega))]
  change some (Instr.xchDm _ _) = _
  rw [gap_eng _ _ _ f.low, XE.parse_enc]

theorem xchNp (g : BitVec 5) (f : XE) : Statement (.xchNp g f) := by
  refine of_parse _ .x rfl ?_
  change parseX (engWord 0x13 g ||| f.enc) = _
  unfold parseX
  rw [op_eng _ _ _ (f.low.mono (by omega))]
  change some (Instr.xchNp _ _) = _
  rw [gap_eng _ _ _ f.low, XE.parse_enc]

theorem xchAm (g : BitVec 5) (f : XE) : Statement (.xchAm g f) := by
  refine of_parse _ .x rfl ?_
  change parseX (engWord 0x14 g ||| f.enc) = _
  unfold parseX
  rw [op_eng _ _ _ (f.low.mono (by omega))]
  change some (Instr.xchAm _ _) = _
  rw [gap_eng _ _ _ f.low, XE.parse_enc]

theorem xsend (g : BitVec 5) (f : XT) : Statement (.xsend g f) := by
  refine of_parse _ .x rfl ?_
  change parseX (engWord 0x20 g ||| f.enc) = _
  unfold parseX
  rw [op_eng _ _ _ (f.low.mono (by omega))]
  change some (Instr.xsend _ _) = _
  rw [gap_eng _ _ _ f.low, XT.parse_enc]

theorem xland (g : BitVec 5) (f : XT) : Statement (.xland g f) := by
  refine of_parse _ .x rfl ?_
  change parseX (engWord 0x21 g ||| f.enc) = _
  unfold parseX
  rw [op_eng _ _ _ (f.low.mono (by omega))]
  change some (Instr.xland _ _) = _
  rw [gap_eng _ _ _ f.low, XT.parse_enc]

theorem xpush (g : BitVec 5) (f : XT) : Statement (.xpush g f) := by
  refine of_parse _ .x rfl ?_
  change parseX (engWord 0x22 g ||| f.enc) = _
  unfold parseX
  rw [op_eng _ _ _ (f.low.mono (by omega))]
  change some (Instr.xpush _ _) = _
  rw [gap_eng _ _ _ f.low, XT.parse_enc]

theorem xatom (g : BitVec 5) (f : XA) : Statement (.xatom g f) := by
  refine of_parse _ .x rfl ?_
  change parseX (engWord 0x30 g ||| f.enc) = _
  unfold parseX
  rw [op_eng _ _ _ (f.low.mono (by omega))]
  change some (Instr.xatom _ _) = _
  rw [gap_eng _ _ _ f.low, XA.parse_enc]

theorem xred (g : BitVec 5) (f : XA) : Statement (.xred g f) := by
  refine of_parse _ .x rfl ?_
  change parseX (engWord 0x31 g ||| f.enc) = _
  unfold parseX
  rw [op_eng _ _ _ (f.low.mono (by omega))]
  change some (Instr.xred _ _) = _
  rw [gap_eng _ _ _ f.low, XA.parse_enc]

theorem xbinit (g : BitVec 5) (f : XA) : Statement (.xbinit g f) := by
  refine of_parse _ .x rfl ?_
  change parseX (engWord 0x38 g ||| f.enc) = _
  unfold parseX
  rw [op_eng _ _ _ (f.low.mono (by omega))]
  change some (Instr.xbinit _ _) = _
  rw [gap_eng _ _ _ f.low, XA.parse_enc]

theorem xbadd (g : BitVec 5) (f : XA) : Statement (.xbadd g f) := by
  refine of_parse _ .x rfl ?_
  change parseX (engWord 0x39 g ||| f.enc) = _
  unfold parseX
  rw [op_eng _ _ _ (f.low.mono (by omega))]
  change some (Instr.xbadd _ _) = _
  rw [gap_eng _ _ _ f.low, XA.parse_enc]

theorem xbread (g : BitVec 5) (f : XA) : Statement (.xbread g f) := by
  refine of_parse _ .x rfl ?_
  change parseX (engWord 0x3A g ||| f.enc) = _
  unfold parseX
  rw [op_eng _ _ _ (f.low.mono (by omega))]
  change some (Instr.xbread _ _) = _
  rw [gap_eng _ _ _ f.low, XA.parse_enc]

theorem sectionStart (c : Nat) (e : Stream) : Statement (.sectionStart c e) := of_event _ rfl

theorem sectionRetire (c : Nat) (e : Stream) : Statement (.sectionRetire c e) := of_event _ rfl

theorem resultLanding (c : Nat) (i : Nat) : Statement (.resultLanding c i) := of_event _ rfl

theorem accessPerform (c : Nat) (id : Nat) (unit : Nat) : Statement (.accessPerform c id unit) := of_event _ rfl

theorem bankConflictEnd (c : Nat) : Statement (.bankConflictEnd c) := of_event _ rfl

theorem farDataArrival (c : Nat) (id : Nat) : Statement (.farDataArrival c id) := of_event _ rfl

theorem landingDue (c : Nat) (id : Nat) : Statement (.landingDue c id) := of_event _ rfl

theorem exchangeCommit (c : Nat) (id : Nat) : Statement (.exchangeCommit c id) := of_event _ rfl

theorem writeBackDone (c : Nat) (id : Nat) : Statement (.writeBackDone c id) := of_event _ rfl

theorem pathFailure (c : Nat) (id : Nat) : Statement (.pathFailure c id) := of_event _ rfl

theorem atomicPerform (c : Nat) (id : Nat) : Statement (.atomicPerform c id) := of_event _ rfl

theorem mergedEntryApply (i : Nat) : Statement (.mergedEntryApply i) := of_event _ rfl

theorem payloadDelivery (c : Nat) (id : Nat) : Statement (.payloadDelivery c id) := of_event _ rfl

theorem inflowPush (c : Nat) (id : Nat) : Statement (.inflowPush c id) := of_event _ rfl

theorem creditRefill (c : Nat) : Statement (.creditRefill c) := of_event _ rfl

theorem beaconSend (d : Nat) : Statement (.beaconSend d) := of_event _ rfl

theorem beaconReceive (d : Nat) (i : Nat) : Statement (.beaconReceive d i) := of_event _ rfl

theorem beaconTimeout (d : Nat) (d2 : Nat) : Statement (.beaconTimeout d d2) := of_event _ rfl

theorem releaseSend (c : Nat) : Statement (.releaseSend c) := of_event _ rfl

theorem releaseReceive (d : Nat) (i : Nat) : Statement (.releaseReceive d i) := of_event _ rfl

theorem palignExitTick (d : Nat) (p : Nat) : Statement (.palignExitTick d p) := of_event _ rfl

theorem palignLocalResume (c : Nat) : Statement (.palignLocalResume c) := of_event _ rfl

theorem barrierArrival (c : Nat) (id : Nat) : Statement (.barrierArrival c id) := of_event _ rfl

theorem barrierDone (c : Nat) (b : Nat) : Statement (.barrierDone c b) := of_event _ rfl

theorem frzlimExpiry (c : Nat) : Statement (.frzlimExpiry c) := of_event _ rfl

theorem trapEntry (c : Nat) : Statement (.trapEntry c) := of_event _ rfl

theorem lateEntry (c : Nat) : Statement (.lateEntry c) := of_event _ rfl

theorem replay (c : Nat) : Statement (.replay c) := of_event _ rfl

theorem preemptEntry (c : Nat) : Statement (.preemptEntry c) := of_event _ rfl

theorem prelimExpiry (c : Nat) : Statement (.prelimExpiry c) := of_event _ rfl

theorem shareEnd (c : Nat) : Statement (.shareEnd c) := of_event _ rfl

theorem launchStop (c : Nat) : Statement (.launchStop c) := of_event _ rfl

theorem tileEntry (c : Nat) : Statement (.tileEntry c) := of_event _ rfl

theorem parameterSwapIn (c : Nat) : Statement (.parameterSwapIn c) := of_event _ rfl

theorem parameterSwapOut (c : Nat) : Statement (.parameterSwapOut c) := of_event _ rfl

theorem launchCompletion (p : Nat) : Statement (.launchCompletion p) := of_event _ rfl

theorem submit (p : Nat) (j : Nat) : Statement (.submit p j) := of_event _ rfl

theorem launchReady (p : Nat) (i : Nat) : Statement (.launchReady p i) := of_event _ rfl

theorem agingStep (p : Nat) (i : Nat) : Statement (.agingStep p i) := of_event _ rfl

theorem acceptance (p : Nat) : Statement (.acceptance p) := of_event _ rfl

theorem staging (p : Nat) (i : Nat) : Statement (.staging p i) := of_event _ rfl

theorem startToken (c : Nat) : Statement (.startToken c) := of_event _ rfl

theorem hardwareFlip (c : Nat) : Statement (.hardwareFlip c) := of_event _ rfl

theorem outrankPreempt (p : Nat) (i : Nat) : Statement (.outrankPreempt p i) := of_event _ rfl

theorem translationWalk (c : Nat) (id : Nat) (i : Nat) : Statement (.translationWalk c id i) := of_event _ rfl

theorem podRetransmit (pkg : Nat) : Statement (.podRetransmit pkg) := of_event _ rfl

theorem watchdogExpiry (c : Nat) : Statement (.watchdogExpiry c) := of_event _ rfl

theorem clockMark (p : Nat) (d : Nat) : Statement (.clockMark p d) := of_event _ rfl

theorem debugStop (c : Nat) (code : Nat) : Statement (.debugStop c code) := of_event _ rfl

theorem stepEnd (c : Nat) : Statement (.stepEnd c) := of_event _ rfl

theorem retrainEntry (ch : Nat) (grp : Nat) : Statement (.retrainEntry ch grp) := of_event _ rfl

theorem retrainWaitExpiry (ch : Nat) : Statement (.retrainWaitExpiry ch) := of_event _ rfl

theorem mailboxTake (r : Route) : Statement (.mailboxTake r) := of_event _ rfl

theorem hostWrite (o : Nat) (data : List Byte) (ep : Bool) : Statement (.hostWrite o data ep) := of_event _ rfl

theorem hostRead (o : Nat) (len : Nat) : Statement (.hostRead o len) := of_event _ rfl

theorem registerWrite (r : HostReg) (v : Word) : Statement (.registerWrite r v) := of_event _ rfl

theorem errorEvent (d : Nat) (ev : ErrEv) : Statement (.errorEvent d ev) := of_event _ rfl

theorem retrainExit (ch : Nat) (ok : Bool) : Statement (.retrainExit ch ok) := of_event _ rfl

theorem ctxWrite (c : Nat) (v : BitVec 32) : Statement (.ctxWrite c v) := of_event _ rfl

theorem frzlimWrite (c : Nat) (v : Word) : Statement (.frzlimWrite c v) := of_event _ rfl

theorem rtailWrite (p : Nat) (j : Nat) (v : Word) : Statement (.rtailWrite p j v) := of_event _ rfl

theorem rbaseWrite (p : Nat) (j : Nat) (v : Word) : Statement (.rbaseWrite p j v) := of_event _ rfl

theorem szWrite (p : Nat) (v : Word) : Statement (.szWrite p v) := of_event _ rfl

theorem rerrClear (p : Nat) : Statement (.rerrClear p) := of_event _ rfl

theorem errorBankRead (d : Nat) (b : Nat) : Statement (.errorBankRead d b) := of_event _ rfl

theorem errorRecordClear (d : Nat) (b : Nat) : Statement (.errorRecordClear d b) := of_event _ rfl

theorem frameRetry (l : LinkRef) (ok : Bool) : Statement (.frameRetry l ok) := of_event _ rfl

theorem podFrameReceive (fr : PodFrame) : Statement (.podFrameReceive fr) := of_event _ rfl

theorem blotterUnfreeze (c : Nat) : Statement (.blotterUnfreeze c) := of_event _ rfl

theorem debugRun (c : Nat) : Statement (.debugRun c) := of_event _ rfl

theorem debugStep (c : Nat) (n : Nat) : Statement (.debugStep c n) := of_event _ rfl

theorem debugWrite (c : Nat) (t : DbgTarget) (v : BitVec 4096) : Statement (.debugWrite c t v) := of_event _ rfl

theorem frequencyChange (mhz : Nat) : Statement (.frequencyChange mhz) := of_event _ rfl

theorem clockStretch (d : Nat) : Statement (.clockStretch d) := of_event _ rfl

theorem thermalLower : Statement (.thermalLower) := of_event _ rfl

theorem thermalRaise : Statement (.thermalRaise) := of_event _ rfl

theorem thermalStop : Statement (.thermalStop) := of_event _ rfl

theorem powerOn (im : BootImages) : Statement (.powerOn im) := of_event _ rfl

theorem dieWarm (d : Nat) : Statement (.dieWarm d) := of_event _ rfl

theorem moduleWarm (ch : Nat) : Statement (.moduleWarm ch) := of_event _ rfl

theorem selfTest (fd : Findings) : Statement (.selfTest fd) := of_event _ rfl

theorem startReady : Statement (.startReady) := of_event _ rfl

theorem startFail (why : BitVec 8) : Statement (.startFail why) := of_event _ rfl

theorem nibInfo : Statement (.nibInfo) := of_event _ rfl

theorem nibNonce : Statement (.nibNonce) := of_event _ rfl

theorem nibQuote : Statement (.nibQuote) := of_event _ rfl

theorem nibUnlock : Statement (.nibUnlock) := of_event _ rfl

theorem nibExtend : Statement (.nibExtend) := of_event _ rfl

theorem nibPartset : Statement (.nibPartset) := of_event _ rfl

theorem nibKeygen : Statement (.nibKeygen) := of_event _ rfl

theorem nibKeyclr : Statement (.nibKeyclr) := of_event _ rfl

theorem nibRecover : Statement (.nibRecover) := of_event _ rfl

theorem nibClrfail : Statement (.nibClrfail) := of_event _ rfl

theorem powerLoss : Statement (.powerLoss) := of_event _ rfl

theorem partReset : Statement (.partReset) := of_event _ rfl

theorem functionLevelReset : Statement (.functionLevelReset) := of_event _ rfl

theorem hostLinkRecovery : Statement (.hostLinkRecovery) := of_event _ rfl

theorem dieReadsZeroCelsius : Statement (.dieReadsZeroCelsius) := of_event _ rfl

end Sys2Proof.Laws.RoundTrip
end

