-- ==== Sys2Proof/Laws/Words.lean ====
section
/-! SUPPORT. What issuing a word of each kind of stream does, said once: the equations that the proofs about single
instructions start from. -/

namespace Sys2Proof.Machine

/-! ### The bank in use -/

@[simp] theorem Seq.setBank_bank (q : Seq) : q.setBank q.bank = q := by
  simp only [Seq.setBank, Seq.bank]; split <;> rfl

@[simp] theorem Seq.bank_setBank (q : Seq) (b : Bank) : (q.setBank b).bank = b := by
  cases h : q.sup <;> simp [Seq.setBank, Seq.bank, h]

/-! ### Going on -/

theorem fallThrough_none {s : State} (h : innermost s.core.seq.bank s.core.seq.pc = none) (n : Nat) :
    s.fallThrough n = s.goTo (s.core.seq.pc + 1) n := by
  have hr : loopEnd s.core.seq.pc 4 s.core.seq.bank none = (s.core.seq.bank, none, none) := by simp [loopEnd, h]
  unfold State.fallThrough
  simp only [hr, State.onCore, Seq.setBank_bank, Option.getD_none]
  rfl

/-! ### Sequencer words -/

/-- A word that may issue, its guard holding, with no check failing beside it, ends as its effect says. -/
theorem issueSeq_body {s : State} {o : SKind} {h : Head} (body : State → SRes)
    (hp : o.priv = true → s.core.seq.sup = true) (hg : guardHolds s.core.seq.bank h.guard = true)
    (hr : o.reads.any s.issues.badScalar = false) (hc : s.core.seq.pipe = false) :
    s.issueSeq o h body = ((body s.issues).finish s.issues h.gap.toNat).seqChecked.bump := by
  have hs : s.issues.core.seq = s.core.seq := rfl
  by_cases hq : o.priv = true
  · rw [State.issueSeq]; simp only [hs, hg, hq, hp hq, hr, hc]; rfl
  · rw [State.issueSeq]; simp only [hs, hg, hq, hr, hc]; rfl

/-- A word that reads a poisoned scalar raises POISON and has no effect (R367). -/
theorem issueSeq_poison {s : State} {o : SKind} {h : Head} (body : State → SRes)
    (hp : o.priv = true → s.core.seq.sup = true) (hg : guardHolds s.core.seq.bank h.guard = true)
    (hr : o.reads.any s.issues.badScalar = true) :
    s.issueSeq o h body = (s.issues.seqTrap 0x19 0 0 false).seqChecked.bump := by
  have hs : s.issues.core.seq = s.core.seq := rfl
  by_cases hq : o.priv = true
  · rw [State.issueSeq]; simp only [hs, hg, hq, hp hq, hr]; rfl
  · rw [State.issueSeq]; simp only [hs, hg, hq, hr]; rfl

/-- A guard that fails leaves only the way to the next word. -/
theorem issueSeq_skip {s : State} {o : SKind} {h : Head} (body : State → SRes)
    (hp : o.priv = true → s.core.seq.sup = true) (hg : guardHolds s.core.seq.bank h.guard = false) :
    s.issueSeq o h body =
      (if o.excl then s.issues.goTo (s.core.seq.pc + 1) (1 + h.gap.toNat)
       else s.issues.fallThrough (1 + h.gap.toNat + o.idle)).seqChecked.bump := by
  by_cases hq : o.priv = true
  · simp [State.issueSeq, hg, hq, hp hq]
  · simp [State.issueSeq, hg, hq]

/-- A privileged word in user state raises PRIV, whatever its guard. -/
theorem issueSeq_priv {s : State} {o : SKind} {h : Head} (body : State → SRes) (hp : o.priv = true)
    (hu : s.core.seq.sup = false) : s.issueSeq o h body = (s.issues.seqTrap 0x02 0 0 false).seqChecked.bump := by
  simp [State.issueSeq, hp, hu]

/-- A word whose effect goes on to the next word. -/
theorem issueSeq_next {s t : State} {o : SKind} {h : Head} {body : State → SRes}
    (hp : o.priv = true → s.core.seq.sup = true) (hg : guardHolds s.core.seq.bank h.guard = true)
    (hr : o.reads.any s.issues.badScalar = false) (hc : s.core.seq.pipe = false)
    (hb : body s.issues = .next t) (hl : innermost t.core.seq.bank t.core.seq.pc = none) :
    s.issueSeq o h body = (t.goTo (t.core.seq.pc + 1) (1 + h.gap.toNat)).seqChecked.bump := by
  rw [issueSeq_body body hp hg hr hc, hb]
  simp [SRes.finish, fallThrough_none hl]

/-! ### Engine words -/

theorem issues_eng (s : State) (e : Stream) : s.issues.core.eng e = s.core.eng e := by cases e <;> rfl

/-- An engine word whose effect is done goes on to the section's next word. -/
theorem issueEng_ok {s u : State} {e : Stream} {g : BitVec 5} {body : State → ERes} (hc : (s.core.eng e).pipe = false)
    (hb : body s.issues = .ok u) :
    s.issueEng e g body =
      ((u.onCore (fun k => k.modEng e (fun x => { x with run := x.run.map (fun (r : Running) => r.advance g.toNat) }))).engChecked e).bump := by
  rw [State.issueEng]; simp only [issues_eng, hc, hb]; rfl

/-- An engine word that traps performs nothing; its section stops at it. -/
theorem issueEng_trap {s : State} {e : Stream} {g : BitVec 5} {body : State → ERes} {c u : BitVec 8} {a : Word}
    (hb : body s.issues = .trap c u a) : s.issueEng e g body = ((s.issues.engTrap e c u a).engChecked e).bump := by
  have h : (if (s.issues.core.eng e).pipe then (body s.issues).spoil else body s.issues) = .trap c u a := by
    rw [hb]; split <;> rfl
  simp only [State.issueEng, h]

/-- One whose check fails raises PIPE where it would have gone on (R368). -/
theorem issueEng_pipe {s u : State} {e : Stream} {g : BitVec 5} {body : State → ERes} (hc : (s.core.eng e).pipe = true)
    (hb : body s.issues = .ok u) : s.issueEng e g body = ((s.issues.engTrap e 0x1A 0 0).engChecked e).bump := by
  rw [State.issueEng]; simp only [issues_eng, hc, hb]; rfl

/-! ### Events -/

theorem atCore_ok {s : State} {c : Nat} {ok : State → Bool} (f : State → State) (h : ok (s.focus c) = true) :
    s.atCore c ok f = .next (f (s.focus c)).bump := by simp [State.atCore, h]

theorem atCore_not {s : State} {c : Nat} {ok : State → Bool} (f : State → State) (h : ok (s.focus c) = false) :
    s.atCore c ok f = .next s := by simp [State.atCore, h]

theorem whenOk_ok {s : State} {ok : Bool} (f : State → State) (h : ok = true) : s.whenOk ok f = .next (f s).bump := by
  simp [State.whenOk, h]

theorem whenOk_not {s : State} {ok : Bool} (f : State → State) (h : ok = false) : s.whenOk ok f = .next s := by
  simp [State.whenOk, h]

end Sys2Proof.Machine
end

