-- ==== Sys2Proof/Tests/Slice0.lean ====
section
/-! SUPPORT. Tests: words written out from the spec's encodings, ill-formed words, witnesses that meet the hypotheses of the
statements clause by clause, and small steps whose results the spec gives. -/

open Sys2Proof Sys2Proof.Machine

namespace Sys2Proof.Tests

set_option Elab.async false

/-- The machine at reset with its core in focus changed. -/
def onCore (f : Core → Core) : State := { State.reset with core := f State.reset.core }

/-- The same with the sequencer changed. -/
def onSeq (f : Seq → Seq) : State := onCore (fun k => { k with seq := f k.seq })

/-- The same with the thread bank changed. -/
def onBank (f : Bank → Bank) : State := onSeq (fun q => { q with thr := f q.thr })

/-- Scalar `s[i]` of the thread bank. -/
def withReg (i : Nat) (v : Word) (s : State) : State :=
  { s with core := { s.core with seq := { s.core.seq with thr := { s.core.seq.thr with s := s.core.seq.thr.s.setIfInBounds i v } } } }

/-- No GAP and no guard; and a guard `?p0`, which fails at reset. -/
def h0 : Head := ⟨0, none⟩
def hp : Head := ⟨3, some ⟨false, 0⟩⟩

/-- An access with nothing in it, for the tests to fill in. -/
def acc0 : Acc :=
  { id := 0, strm := .x, ord := 0, secno := 0, widx := 0, cls := 0, reach := 0, foot := [], acq := 0, rel := 0, after := [],
    due := none, by_ := none, sup := false, snap := [], raced := [], kind := .land none 0 0 0 0 }

/-- An exchange of one near slot with one far block. -/
def xch0 : Xch :=
  { form := .nm, near := [1], far := [7], pkg := 0, farVal := 0, xl := [.wait], out := [], inn := [], arrived := false, taken := false }

/-- A shape image of `r` rows and `c` columns. -/
def shape (r c : Nat) : BitVec 512 := BitVec.ofNat 512 (r + c * 2 ^ 13)

/-- The same with shape register 1 holding an image. -/
def withShape (x : BitVec 512) (s : State) : State :=
  { s with core := { s.core with vec := { s.core.vec with sh := s.core.vec.sh.set 1 x } } }

/-- Quads `q` to `q + n − 1` of die 0 as a partition. -/
def desc0 (q n : Nat) : Config.Descriptor :=
  { members := .quads 0 q n, asid := 5, tokbase := 0, swblk := 0, sen := true, profiles := [⟨[], [], 4, 100, 4, 100, 1, 100⟩],
    chanEntries := [], fadEntries := [], windows := [(0, 16)], bindings := [⟨5, 4096, 0, true⟩], home := none }

/-- Partition 3 of the machine: the first two quads of die 0. -/
def withPart (f : Part → Part) (s : State) : State := { s with parts := [(3, f (Part.fresh (desc0 0 2) 0))] }

/-- The same over dies 0 and 1. -/
def onTwoDies (s : State) : State := { s with parts := [(3, Part.fresh { desc0 0 2 with members := .dies 3 } 0)] }

/-- The link of dies 0 and 1 failed. -/
def cutLink (s : State) : State := { s with dies := s.dies.set 0 { Die.reset with failed := 2 } }

/-- Slot tables in which partition 3 owns the first opportunity of every channel and direction. -/
def withSlots (s : State) : State :=
  { s with chanTab := (List.range 24).map (fun c => (512 * c, 3)), fadTab := (List.range 12).map (fun c => (1024 * c, 3)) }

/-- A result of the control stream that raises no flag and is no matrix row. -/
def plainRes (r : Result) : Bool :=
  r.flags == 0 && r.strm == .seq && (match r.land with
    | .row .. => false
    | .tflgSet .. => false
    | _ => true)

theorem landsNow_of_plain {k : Core} {i : Nat} {r : Result} (h : k.x.flight[i]? = some r) (hd : r.due = 0 ∨ r.exact = false)
    (hp : plainRes r = true) : LandsNow k i r := by
  obtain ⟨strm, ord, widx, due, exact, raced, flags, land⟩ := r
  refine ⟨h, hd, fun q _ _ hc => ?_, fun q _ hq => by simp_all [plainRes]⟩
  cases land <;> simp_all [plainRes, clearsFlags]

/-- A machine that answers a next state. -/
def goes (r : Host.Outcome State Fault Refusal) : Bool :=
  match r with
  | .next _ => true
  | _ => false

theorem next_of_goes {r : Host.Outcome State Fault Refusal} (h : goes r = true) : ∃ t, r = .next t := by
  cases r with
  | next t => exact ⟨t, rfl⟩
  | fault _ => simp [goes] at h
  | refused _ => simp [goes] at h

/-- X section 1 of the listing in spec file 02, its header and one word, alone in a plane. -/
def plane0 : Plane :=
  (Plane.empty.place 24 (bytesOfNat 4 32 ++ bytesOfNat 4 20)).place 32 (bytesOfNat 8 0xA001001FFFFFF800)

/-- A running section of an engine, in user or supervisor state, with parameters. -/
def section0 (sup : Bool) (k : Vector Word 4) : Running :=
  { entry := { QEntry.none with sup := sup, k := k }, hdr := { Header.none with tag := 0b1010, len := 1 }, base := 32, next := 0,
    wait := 0, stopped := false }

/-- The machine at reset, core 0 one of a partition and running X under a section with parameter k0. -/
def onX (sup : Bool) (k0 : Word) (f : XEng → XEng) : State :=
  withPart id (onCore (fun k =>
    { k with
      x := f k.x, share := { k.share with n := 1 }, ex := { k.ex with run := some (section0 sup #v[k0, 0, 0, 0]) } }))

/-- A result of the control stream in flight, due or not. -/
def res0 (due : Nat) (exact : Bool) (l : Land) : Result :=
  { strm := .seq, ord := 0, widx := 0, due := due, exact := exact, raced := [], flags := 0, land := l }

/-- The machine at reset with results in flight. -/
def flying (l : List Result) : State := onCore (fun k => { k with x := { k.x with flight := l } })

/-- The machine at reset with accesses under way and payloads landed. -/
def pending (l : List Acc) (p : List Payload) : State := onCore (fun k => { k with x := { k.x with accs := l, landing := p, nid := 9 } })

/-- Format SR (R162), the guard and GAP. -/
theorem test_decode_scalar_register : [
      bitsAt [(88, 0x1), (73, 3), (68, 1), (63, 31)],
      bitsAt [(88, 0x2), (83, 7), (82, 1), (81, 1), (78, 5), (73, 4), (68, 6), (63, 30)],
      bitsAt [(88, 0x3), (83, 14), (82, 1), (78, 2), (73, 5), (68, 11), (63, 29)],
      bitsAt [(88, 0x4), (83, 21), (73, 6), (68, 16), (63, 28)],
      bitsAt [(88, 0x5), (83, 28), (82, 1), (81, 1), (78, 5), (73, 7), (68, 21), (63, 27)],
      bitsAt [(88, 0x6), (83, 3), (82, 1), (78, 2), (73, 8), (68, 26), (63, 26)],
      bitsAt [(88, 0x7), (83, 10), (73, 9), (68, 31), (63, 25)],
      bitsAt [(88, 0x8), (83, 17), (82, 1), (81, 1), (78, 5), (73, 10), (68, 4), (63, 24)],
      bitsAt [(88, 0x9), (83, 24), (82, 1), (78, 2), (73, 11), (68, 9), (63, 23)],
      bitsAt [(88, 0xa), (83, 31), (73, 12), (68, 14), (63, 22)],
      bitsAt [(88, 0xb), (83, 6), (82, 1), (81, 1), (78, 5), (73, 13), (68, 19), (63, 21)],
      bitsAt [(88, 0xc), (83, 13), (82, 1), (78, 2), (73, 14), (68, 24), (63, 20)],
      bitsAt [(88, 0xd), (83, 20), (73, 15), (68, 29), (63, 19)],
      bitsAt [(88, 0xe), (83, 27), (82, 1), (81, 1), (78, 5), (73, 16), (68, 2), (63, 18)],
      bitsAt [(88, 0xf), (83, 2), (82, 1), (78, 2), (73, 17), (68, 7), (63, 17)]].map (decode .seq) =
    [
      some (.add ⟨0, none⟩ ⟨3, 1, 31⟩),
      some (.sub ⟨7, some ⟨true, 5⟩⟩ ⟨4, 6, 30⟩),
      some (.andS ⟨14, some ⟨false, 2⟩⟩ ⟨5, 11, 29⟩),
      some (.orS ⟨21, none⟩ ⟨6, 16, 28⟩),
      some (.xorS ⟨28, some ⟨true, 5⟩⟩ ⟨7, 21, 27⟩),
      some (.shl ⟨3, some ⟨false, 2⟩⟩ ⟨8, 26, 26⟩),
      some (.shr ⟨10, none⟩ ⟨9, 31, 25⟩),
      some (.sar ⟨17, some ⟨true, 5⟩⟩ ⟨10, 4, 24⟩),
      some (.mul ⟨24, some ⟨false, 2⟩⟩ ⟨11, 9, 23⟩),
      some (.mulhu ⟨31, none⟩ ⟨12, 14, 22⟩),
      some (.mulh ⟨6, some ⟨true, 5⟩⟩ ⟨13, 19, 21⟩),
      some (.minS ⟨13, some ⟨false, 2⟩⟩ ⟨14, 24, 20⟩),
      some (.maxS ⟨20, none⟩ ⟨15, 29, 19⟩),
      some (.minu ⟨27, some ⟨true, 5⟩⟩ ⟨16, 2, 18⟩),
      some (.maxu ⟨2, some ⟨false, 2⟩⟩ ⟨17, 7, 17⟩)] := by rfl

/-- Format SI (R162). -/
theorem test_decode_scalar_immediate : [
      bitsAt [(88, 0x11), (83, 31), (73, 4), (68, 5), (4, 0xfffffffffffffffe)],
      bitsAt [(88, 0x12), (83, 1), (82, 1), (81, 1), (78, 5), (73, 31), (4, 0x8000000000000001)],
      bitsAt [(88, 0x13), (73, 1), (68, 2), (4, 255)],
      bitsAt [(88, 0x14), (82, 1), (78, 2), (73, 2), (68, 30), (4, 1)],
      bitsAt [(88, 0x15), (73, 9), (68, 10), (4, 0xffffffffffffffff)],
      bitsAt [(88, 0x16), (73, 1), (68, 1), (4, 63)],
      bitsAt [(88, 0x17), (73, 3), (68, 4), (4, 1)],
      bitsAt [(88, 0x18), (73, 3), (68, 4), (4, 32)],
      bitsAt [(88, 0x19), (83, 16), (73, 3), (68, 4), (4, 10)]].map (decode .seq) =
    [
      some (.addi ⟨31, none⟩ ⟨4, 5, 0xfffffffffffffffe⟩),
      some (.li ⟨1, some ⟨true, 5⟩⟩ ⟨31, 0, 0x8000000000000001⟩),
      some (.andi ⟨0, none⟩ ⟨1, 2, 255⟩),
      some (.ori ⟨0, some ⟨false, 2⟩⟩ ⟨2, 30, 1⟩),
      some (.xori ⟨0, none⟩ ⟨9, 10, 0xffffffffffffffff⟩),
      some (.shli ⟨0, none⟩ ⟨1, 1, 63⟩),
      some (.shri ⟨0, none⟩ ⟨3, 4, 1⟩),
      some (.sari ⟨0, none⟩ ⟨3, 4, 32⟩),
      some (.muli ⟨16, none⟩ ⟨3, 4, 10⟩)] := by rfl

/-- Formats SP, PL, SB, SL, SD, SW, SQ, SS and SZ (R162). -/
theorem test_decode_compares_and_control : [
      bitsAt [(88, 0x20), (82, 1), (81, 1), (78, 5), (75, 6), (72, 5), (67, 17), (62, 18)],
      bitsAt [(88, 0x21), (83, 2), (75, 1), (72, 2), (67, 3), (3, 0xffffffffffffffff)],
      bitsAt [(88, 0x22), (75, 1), (72, 2), (69, 3)],
      bitsAt [(88, 0x23), (75, 7), (72, 6), (69, 5)],
      bitsAt [(88, 0x24), (75, 4), (69, 1)],
      bitsAt [(88, 0x25), (75, 2), (72, 3)],
      bitsAt [(88, 0x30), (83, 3), (82, 1), (78, 2), (59, 0x2abc)],
      bitsAt [(88, 0x31), (59, 1)],
      bitsAt [(88, 0x32), (83, 4), (82, 1), (81, 1), (78, 5)],
      bitsAt [(88, 0x34), (76, 2), (62, 0x3fff), (57, 9)],
      bitsAt [(88, 0x35), (76, 3), (62, 200), (30, 0xffffffff)],
      bitsAt [(88, 0x40), (83, 5), (76, 2), (64, 0xffe), (59, 1), (54, 2), (49, 3), (44, 31)],
      bitsAt [(88, 0x41), (62, 0xffff)],
      bitsAt [(88, 0x42), (82, 1), (81, 1), (78, 5)],
      bitsAt [(88, 0x43)],
      bitsAt [(88, 0x44), (83, 1), (73, 7), (70, 4)],
      bitsAt [(88, 0x45), (73, 5)],
      bitsAt [(88, 0x46), (82, 1), (78, 2), (73, 6)],
      bitsAt [(88, 0x47), (73, 31)],
      bitsAt [(88, 0x54), (74, 15), (69, 16), (64, 3)],
      bitsAt [(88, 0x55), (83, 2), (82, 1), (81, 1), (78, 5), (74, 1), (69, 2), (64, 4)],
      bitsAt [(88, 0x70), (82, 1), (78, 2), (62, 0x1234)],
      bitsAt [(88, 0x71), (83, 9)],
      bitsAt [(88, 0xfd), (82, 1), (81, 1), (78, 5), (62, 0x8001), (59, 5)],
      bitsAt [(88, 0xfe), (83, 31), (82, 1), (78, 2)]].map (decode .seq) =
    [
      some (.cmp ⟨0, some ⟨true, 5⟩⟩ ⟨6, 5, 17, 18⟩),
      some (.cmpi ⟨2, none⟩ ⟨1, 2, 3, 0xffffffffffffffff⟩),
      some (.pand ⟨0, none⟩ ⟨1, 2, 3⟩),
      some (.por ⟨0, none⟩ ⟨7, 6, 5⟩),
      some (.pxor ⟨0, none⟩ ⟨4, 0, 1⟩),
      some (.pnot ⟨0, none⟩ ⟨2, 3, 0⟩),
      some (.br ⟨3, some ⟨false, 2⟩⟩ ⟨0x2abc⟩),
      some (.call ⟨0, none⟩ ⟨1⟩),
      some (.ret ⟨4, some ⟨true, 5⟩⟩),
      some (.loopReg ⟨0, none⟩ ⟨2, 0x3fff, 9⟩),
      some (.loopi ⟨0, none⟩ ⟨3, 200, 0xffffffff⟩),
      some (.disp ⟨5, none⟩ ⟨2, 0xffe, 1, 2, 3, 31⟩),
      some (.waitWord ⟨0, none⟩ ⟨0xffff⟩),
      some (.nextTile ⟨0, some ⟨true, 5⟩⟩),
      some (.endShareWord ⟨0, none⟩),
      some (.palign ⟨1, none⟩ ⟨7, 4⟩),
      some (.rdtick ⟨0, none⟩ ⟨5, 0⟩),
      some (.rdscyc ⟨0, some ⟨false, 2⟩⟩ ⟨6, 0⟩),
      some (.rdlbt ⟨0, none⟩ ⟨31, 0⟩),
      some (.shset ⟨0, none⟩ ⟨15, 16, 3⟩),
      some (.shget ⟨2, some ⟨true, 5⟩⟩ ⟨1, 2, 4⟩),
      some (.trapWord ⟨0, some ⟨false, 2⟩⟩ ⟨0x1234⟩),
      some (.brk ⟨9, none⟩),
      some (.fence .seq ⟨0, some ⟨true, 5⟩⟩ ⟨0x8001, 5⟩),
      some (.nop .seq ⟨31, some ⟨false, 2⟩⟩)] := by rfl

/-- Formats SM and SN (R162). -/
theorem test_decode_scalar_memory_and_barriers : [
      bitsAt [(88, 0x50), (73, 6), (68, 7), (44, 0xfffff8), (42, 3), (41, 1), (39, 1), (36, 3), (32, 5), (16, 200)],
      bitsAt [(88, 0x51), (82, 1), (81, 1), (78, 5), (73, 1), (44, 0x3ff000), (42, 1), (39, 2), (36, 5), (32, 15)],
      bitsAt [(88, 0x53), (83, 1), (73, 15), (68, 2), (44, 64), (42, 3), (32, 1)],
      bitsAt [(88, 0x60), (69, 0x1ff), (66, 2), (61, 9)],
      bitsAt [(88, 0x61), (83, 2), (82, 1), (78, 2), (69, 0x100), (66, 5)],
      bitsAt [(88, 0x62), (69, 1), (66, 3)],
      bitsAt [(88, 0x63), (83, 7), (69, 2), (66, 4)],
      bitsAt [(88, 0x64), (69, 3), (66, 3), (61, 4), (56, 5), (53, 5)]].map (decode .seq) =
    [
      some (.ld ⟨0, none⟩ ⟨6, 7, 0xfffff8, 3, true, 1, 3, 5, 200⟩),
      some (.st ⟨0, some ⟨true, 5⟩⟩ ⟨1, 0, 0x3ff000, 1, false, 2, 5, 15, 0⟩),
      some (.shld ⟨1, none⟩ ⟨15, 2, 64, 3, false, 0, 0, 1, 0⟩),
      some (.barInit ⟨0, none⟩ ⟨0x1ff, 2, 9, 0, 0⟩),
      some (.barArr ⟨2, some ⟨false, 2⟩⟩ ⟨0x100, 5, 0, 0, 0⟩),
      some (.barWait ⟨0, none⟩ ⟨1, 3, 0, 0, 0⟩),
      some (.barSync ⟨7, none⟩ ⟨2, 4, 0, 0, 0⟩),
      some (.barRed ⟨0, none⟩ ⟨3, 3, 4, 5, 5⟩)] := by rfl

/-- Format SX (R162). -/
theorem test_decode_privileged : [
      bitsAt [(88, 0xe0), (73, 3), (61, 127)],
      bitsAt [(88, 0xe1), (83, 1), (82, 1), (81, 1), (78, 5), (73, 31), (61, 0x200)],
      bitsAt [(88, 0xe2)],
      bitsAt [(88, 0xe3)],
      bitsAt [(88, 0xe4), (83, 3)],
      bitsAt [(88, 0xe5), (82, 1), (78, 2)],
      bitsAt [(88, 0xe6)],
      bitsAt [(88, 0xe7), (73, 5)],
      bitsAt [(88, 0xe8), (82, 1), (81, 1), (78, 5), (73, 6)],
      bitsAt [(88, 0xe9), (83, 8)],
      bitsAt [(88, 0xea), (73, 7), (61, 0x380)],
      bitsAt [(88, 0xeb), (73, 8)],
      bitsAt [(88, 0xec), (73, 9), (61, 0xf80)],
      bitsAt [(88, 0xed), (73, 10)]].map (decode .seq) =
    [
      some (.rdsys ⟨0, none⟩ ⟨3, 127⟩),
      some (.wrsys ⟨1, some ⟨true, 5⟩⟩ ⟨31, 0x200⟩),
      some (.sret ⟨0, none⟩),
      some (.lres ⟨0, none⟩),
      some (.labn ⟨3, none⟩),
      some (.drain ⟨0, some ⟨false, 2⟩⟩),
      some (.pswap ⟨0, none⟩),
      some (.tlbiVa ⟨0, none⟩ ⟨5, 0⟩),
      some (.tlbiAsid ⟨0, some ⟨true, 5⟩⟩ ⟨6, 0⟩),
      some (.tlbiAll ⟨8, none⟩),
      some (.errrd ⟨0, none⟩ ⟨7, 0x380⟩),
      some (.errclr ⟨0, none⟩ ⟨8, 0⟩),
      some (.parkrd ⟨0, none⟩ ⟨9, 0xf80⟩),
      some (.barKill ⟨0, none⟩ ⟨10, 0⟩)] := by rfl

/-- Format VA (R163), arithmetic words. -/
theorem test_decode_vector_arithmetic : [
      bitsAt [(88, 0x1), (77, 3), (70, 63), (63, 5), (56, 72), (44, 1)],
      bitsAt [(88, 0x2), (83, 3), (81, 1), (77, 4), (70, 62), (63, 6), (56, 75), (45, 1), (44, 1), (41, 1)],
      bitsAt [(88, 0x3), (83, 6), (81, 2), (77, 5), (70, 61), (63, 7), (56, 34), (45, 2), (44, 1), (41, 2)],
      bitsAt [(88, 0x4), (83, 9), (81, 3), (77, 3), (70, 60), (63, 8), (56, 72), (49, 64), (45, 3), (44, 1), (41, 3)],
      bitsAt [(88, 0x5), (83, 12), (77, 4), (70, 59), (63, 9), (56, 75), (49, 64), (45, 4), (44, 1), (41, 4)],
      bitsAt [(88, 0x6), (83, 15), (81, 1), (77, 5), (70, 58), (63, 10), (56, 37), (49, 64), (45, 5), (44, 1), (41, 5)],
      bitsAt [(88, 0x7), (83, 18), (81, 2), (77, 3), (70, 57), (63, 11), (56, 72), (45, 6), (44, 1), (41, 6)],
      bitsAt [(88, 0x8), (83, 21), (81, 3), (77, 4), (70, 56), (63, 12), (45, 7), (44, 1), (41, 7)],
      bitsAt [(88, 0x9), (83, 24), (77, 5), (70, 55), (63, 13), (56, 40), (45, 8), (44, 1)],
      bitsAt [(88, 0xa), (83, 27), (77, 3), (70, 54), (63, 14), (56, 72), (45, 9), (44, 1), (41, 1)],
      bitsAt [(88, 0xb), (83, 30), (77, 4), (70, 53), (63, 15), (45, 10), (44, 1), (41, 2)],
      bitsAt [(88, 0xc), (83, 1), (77, 5), (70, 52), (63, 16), (45, 11), (44, 1), (41, 3)],
      bitsAt [(88, 0xd), (83, 4), (70, 51), (63, 17), (56, 72), (45, 12), (44, 1), (41, 4)],
      bitsAt [(88, 0xe), (83, 7), (77, 1), (70, 50), (63, 18), (56, 75), (45, 13), (44, 1), (41, 5)],
      bitsAt [(88, 0xf), (83, 10), (77, 2), (70, 49), (63, 19), (56, 46), (45, 14), (44, 1), (41, 6)]].map (decode .v) =
    [
      some (.vadd 0 ⟨0, 3, 63, 5, 72, 0, 0, true, 0, 0, 0⟩),
      some (.vsub 3 ⟨1, 4, 62, 6, 75, 0, 1, true, 1, 0, 0⟩),
      some (.vmul 6 ⟨2, 5, 61, 7, 34, 0, 2, true, 2, 0, 0⟩),
      some (.vfma 9 ⟨3, 3, 60, 8, 72, 64, 3, true, 3, 0, 0⟩),
      some (.vfms 12 ⟨0, 4, 59, 9, 75, 64, 4, true, 4, 0, 0⟩),
      some (.vfnma 15 ⟨1, 5, 58, 10, 37, 64, 5, true, 5, 0, 0⟩),
      some (.vdiv 18 ⟨2, 3, 57, 11, 72, 0, 6, true, 6, 0, 0⟩),
      some (.vsqrt 21 ⟨3, 4, 56, 12, 0, 0, 7, true, 7, 0, 0⟩),
      some (.vmin 24 ⟨0, 5, 55, 13, 40, 0, 8, true, 0, 0, 0⟩),
      some (.vmax 27 ⟨0, 3, 54, 14, 72, 0, 9, true, 1, 0, 0⟩),
      some (.vabs 30 ⟨0, 4, 53, 15, 0, 0, 10, true, 2, 0, 0⟩),
      some (.vneg 1 ⟨0, 5, 52, 16, 0, 0, 11, true, 3, 0, 0⟩),
      some (.vadds 4 ⟨0, 0, 51, 17, 72, 0, 12, true, 4, 0, 0⟩),
      some (.vsubs 7 ⟨0, 1, 50, 18, 75, 0, 13, true, 5, 0, 0⟩),
      some (.vmulh 10 ⟨0, 2, 49, 19, 46, 0, 14, true, 6, 0, 0⟩)] := by rfl

/-- Format VA (R163), bitwise words. -/
theorem test_decode_vector_bits : [
      bitsAt [(88, 0x10), (77, 10), (70, 40), (63, 1), (56, 73), (45, 15), (44, 1), (41, 3)],
      bitsAt [(88, 0x11), (83, 1), (70, 41), (63, 2), (56, 73), (45, 14), (44, 1), (41, 4)],
      bitsAt [(88, 0x12), (83, 2), (77, 1), (70, 42), (63, 3), (56, 73), (45, 13), (44, 1), (41, 5)],
      bitsAt [(88, 0x13), (83, 3), (77, 2), (70, 43), (63, 4), (45, 12), (44, 1), (41, 6)],
      bitsAt [(88, 0x14), (83, 4), (77, 10), (70, 44), (63, 5), (56, 73), (45, 11), (44, 1), (41, 7)],
      bitsAt [(88, 0x15), (83, 5), (70, 45), (63, 6), (56, 73), (45, 10), (44, 1)],
      bitsAt [(88, 0x16), (83, 6), (77, 1), (70, 46), (63, 7), (56, 73), (45, 9), (44, 1), (41, 1)],
      bitsAt [(88, 0x17), (83, 7), (77, 2), (70, 47), (63, 8), (56, 73), (45, 8), (44, 1), (41, 2)],
      bitsAt [(88, 0x18), (83, 8), (77, 10), (70, 48), (63, 9), (56, 73), (45, 7), (44, 1), (41, 3), (7, 1)],
      bitsAt [(88, 0x19), (83, 9), (70, 49), (63, 10), (45, 6), (44, 1), (41, 4)],
      bitsAt [(88, 0x1a), (83, 10), (77, 1), (70, 50), (63, 11), (45, 5), (44, 1), (41, 5)],
      bitsAt [(88, 0x1b), (83, 11), (77, 2), (70, 51), (63, 12), (56, 73), (45, 4), (44, 1)],
      bitsAt [(88, 0x1c), (83, 12), (77, 2), (70, 52), (63, 13), (45, 3), (7, 0xffffffff)],
      bitsAt [(88, 0x1d), (83, 13), (70, 53), (63, 14), (45, 2), (7, 128)],
      bitsAt [(88, 0x1e), (83, 14), (77, 8), (70, 54), (63, 15), (45, 1), (44, 1), (41, 1)],
      bitsAt [(88, 0x1f), (83, 15), (77, 3), (70, 55), (44, 1), (41, 2), (7, 0x3f800000)]].map (decode .v) =
    [
      some (.vand 0 ⟨0, 10, 40, 1, 73, 0, 15, true, 3, 0, 0⟩),
      some (.vor 1 ⟨0, 0, 41, 2, 73, 0, 14, true, 4, 0, 0⟩),
      some (.vxor 2 ⟨0, 1, 42, 3, 73, 0, 13, true, 5, 0, 0⟩),
      some (.vnot 3 ⟨0, 2, 43, 4, 0, 0, 12, true, 6, 0, 0⟩),
      some (.vshl 4 ⟨0, 10, 44, 5, 73, 0, 11, true, 7, 0, 0⟩),
      some (.vshr 5 ⟨0, 0, 45, 6, 73, 0, 10, true, 0, 0, 0⟩),
      some (.vsar 6 ⟨0, 1, 46, 7, 73, 0, 9, true, 1, 0, 0⟩),
      some (.vrot 7 ⟨0, 2, 47, 8, 73, 0, 8, true, 2, 0, 0⟩),
      some (.vclmul 8 ⟨0, 10, 48, 9, 73, 0, 7, true, 3, 0, 1⟩),
      some (.vpopc 9 ⟨0, 0, 49, 10, 0, 0, 6, true, 4, 0, 0⟩),
      some (.vclz 10 ⟨0, 1, 50, 11, 0, 0, 5, true, 5, 0, 0⟩),
      some (.vsel 11 ⟨0, 2, 51, 12, 73, 0, 4, true, 0, 0, 0⟩),
      some (.vbidx 12 ⟨0, 2, 52, 13, 0, 0, 3, false, 0, 0, 0xffffffff⟩),
      some (.vbcmp 13 ⟨0, 0, 53, 14, 0, 0, 2, false, 0, 0, 128⟩),
      some (.vmov 14 ⟨0, 8, 54, 15, 0, 0, 1, true, 1, 0, 0⟩),
      some (.vsplat 15 ⟨0, 3, 55, 0, 0, 0, 0, true, 2, 0, 0x3f800000⟩)] := by rfl

/-- Format VA (R163), compares, masks and conversions. -/
theorem test_decode_masks_and_conversions : [
      bitsAt [(88, 0x20), (77, 1), (70, 7), (63, 3), (56, 4), (45, 2), (44, 1), (41, 5), (7, 5)],
      bitsAt [(88, 0x21), (70, 1), (63, 2), (56, 3)],
      bitsAt [(88, 0x22), (70, 7), (63, 6), (56, 5)],
      bitsAt [(88, 0x23), (83, 1), (70, 4), (63, 4), (56, 4)],
      bitsAt [(88, 0x24), (70, 3), (63, 7)],
      bitsAt [(88, 0x25), (70, 2), (63, 64)],
      bitsAt [(88, 0x26), (70, 63), (63, 5)],
      bitsAt [(88, 0x30), (81, 2), (77, 3), (70, 8), (63, 9), (45, 1), (7, 2)],
      bitsAt [(88, 0x38), (77, 5), (70, 62), (63, 1), (45, 3)],
      bitsAt [(88, 0x39), (83, 2), (81, 3), (77, 4), (70, 1), (63, 2), (56, 3), (45, 4)]].map (decode .v) =
    [
      some (.vcmp 0 ⟨0, 1, 7, 3, 4, 0, 2, true, 5, 0, 5⟩),
      some (.mand 0 ⟨0, 0, 1, 2, 3, 0, 0, false, 0, 0, 0⟩),
      some (.mor 0 ⟨0, 0, 7, 6, 5, 0, 0, false, 0, 0, 0⟩),
      some (.mxor 1 ⟨0, 0, 4, 4, 4, 0, 0, false, 0, 0, 0⟩),
      some (.mnot 0 ⟨0, 0, 3, 7, 0, 0, 0, false, 0, 0, 0⟩),
      some (.mfromv 0 ⟨0, 0, 2, 64, 0, 0, 0, false, 0, 0, 0⟩),
      some (.mtov 0 ⟨0, 0, 63, 5, 0, 0, 0, false, 0, 0, 0⟩),
      some (.vcvt 0 ⟨2, 3, 8, 9, 0, 0, 1, false, 0, 0, 2⟩),
      some (.vmxq 0 ⟨0, 5, 62, 1, 0, 0, 3, false, 0, 0, 0⟩),
      some (.vmxd 2 ⟨3, 4, 1, 2, 3, 0, 4, false, 0, 0, 0⟩)] := by rfl

/-- Format VA (R163), AX. -/
theorem test_decode_reductions_and_scans : [
      bitsAt [(88, 0x40), (81, 1), (77, 3), (70, 10), (63, 20)],
      bitsAt [(88, 0x41), (83, 1), (77, 3), (70, 11), (63, 21), (45, 1), (39, 1)],
      bitsAt [(88, 0x42), (83, 2), (77, 3), (70, 12), (63, 22), (45, 2), (39, 2)],
      bitsAt [(88, 0x43), (83, 3), (77, 10), (70, 13), (63, 23), (45, 3)],
      bitsAt [(88, 0x44), (83, 4), (77, 10), (70, 14), (63, 24), (45, 4), (39, 1)],
      bitsAt [(88, 0x45), (83, 5), (77, 10), (70, 15), (63, 25), (45, 5), (39, 2)],
      bitsAt [(88, 0x46), (83, 6), (81, 1), (77, 3), (70, 16), (63, 26), (45, 6), (7, 1)],
      bitsAt [(88, 0x47), (83, 7), (77, 3), (70, 17), (63, 27), (45, 7), (39, 1), (7, 1)],
      bitsAt [(88, 0x48), (83, 8), (77, 3), (70, 18), (63, 28), (45, 8), (39, 2), (7, 1)],
      bitsAt [(88, 0x49), (83, 9), (77, 10), (70, 19), (63, 29), (45, 9), (7, 1)]].map (decode .v) =
    [
      some (.vredadd 0 ⟨1, 3, 10, 20, 0, 0, 0, false, 0, 0, 0⟩),
      some (.vredmin 1 ⟨0, 3, 11, 21, 0, 0, 1, false, 0, 1, 0⟩),
      some (.vredmax 2 ⟨0, 3, 12, 22, 0, 0, 2, false, 0, 2, 0⟩),
      some (.vredand 3 ⟨0, 10, 13, 23, 0, 0, 3, false, 0, 0, 0⟩),
      some (.vredor 4 ⟨0, 10, 14, 24, 0, 0, 4, false, 0, 1, 0⟩),
      some (.vredxor 5 ⟨0, 10, 15, 25, 0, 0, 5, false, 0, 2, 0⟩),
      some (.vscanadd 6 ⟨1, 3, 16, 26, 0, 0, 6, false, 0, 0, 1⟩),
      some (.vscanmin 7 ⟨0, 3, 17, 27, 0, 0, 7, false, 0, 1, 1⟩),
      some (.vscanmax 8 ⟨0, 3, 18, 28, 0, 0, 8, false, 0, 2, 1⟩),
      some (.vscanxor 9 ⟨0, 10, 19, 29, 0, 0, 9, false, 0, 0, 1⟩)] := by rfl

/-- Format VA (R163), permutes, flags, random numbers and the window. -/
theorem test_decode_permutes_and_flags : [
      bitsAt [(88, 0x50), (77, 7), (70, 1), (63, 2), (45, 3)],
      bitsAt [(88, 0x51), (77, 1), (70, 1), (63, 2), (56, 5), (45, 3), (44, 1), (41, 1)],
      bitsAt [(88, 0x52), (70, 1), (63, 2), (56, 6), (45, 3), (7, 3)],
      bitsAt [(88, 0x53), (70, 1), (63, 2), (56, 7), (45, 3), (7, 0x1000)],
      bitsAt [(88, 0x54), (77, 10), (70, 5), (63, 6), (45, 1), (44, 1), (41, 7)],
      bitsAt [(88, 0x55), (83, 3), (77, 4), (70, 5), (63, 6), (45, 1), (44, 1), (41, 2)],
      bitsAt [(88, 0x65), (7, 63)],
      bitsAt [(88, 0x66), (70, 33)],
      bitsAt [(88, 0x80), (77, 5), (70, 3), (45, 2), (44, 1), (41, 4), (7, 0xdeadbeef)],
      bitsAt [(88, 0x81), (7, 7)]].map (decode .v) =
    [
      some (.vtrn 0 ⟨0, 7, 1, 2, 0, 0, 3, false, 0, 0, 0⟩),
      some (.vperm 0 ⟨0, 1, 1, 2, 5, 0, 3, true, 1, 0, 0⟩),
      some (.vshuf 0 ⟨0, 0, 1, 2, 6, 0, 3, false, 0, 0, 3⟩),
      some (.vslide 0 ⟨0, 0, 1, 2, 7, 0, 3, false, 0, 0, 0x1000⟩),
      some (.vcompress 0 ⟨0, 10, 5, 6, 0, 0, 1, true, 7, 0, 0⟩),
      some (.vexpand 3 ⟨0, 4, 5, 6, 0, 0, 1, true, 2, 0, 0⟩),
      some (.vfclr 0 ⟨0, 0, 0, 0, 0, 0, 0, false, 0, 0, 63⟩),
      some (.vfrd 0 ⟨0, 0, 33, 0, 0, 0, 0, false, 0, 0, 0⟩),
      some (.vrng 0 ⟨0, 5, 3, 0, 0, 0, 2, true, 4, 0, 0xdeadbeef⟩),
      some (.vrotw 0 ⟨0, 0, 0, 0, 0, 0, 0, false, 0, 0, 7⟩)] := by rfl

/-- Format VA (R163), log-path words. -/
theorem test_decode_log_path : [
      bitsAt [(88, 0x70), (77, 3), (70, 30), (63, 63)],
      bitsAt [(88, 0x71), (83, 1), (81, 1), (77, 4), (70, 31), (63, 62), (45, 1)],
      bitsAt [(88, 0x72), (83, 2), (77, 10), (70, 32), (63, 61), (56, 74), (45, 2)],
      bitsAt [(88, 0x73), (83, 3), (77, 10), (70, 33), (63, 60), (56, 74), (45, 3)],
      bitsAt [(88, 0x74), (83, 4), (77, 10), (70, 34), (63, 59), (45, 4), (7, 16)],
      bitsAt [(88, 0x75), (83, 5), (77, 10), (70, 35), (63, 58), (45, 5), (7, 0xffff)],
      bitsAt [(88, 0x78), (83, 6), (81, 2), (77, 3), (70, 36), (63, 57), (45, 6)],
      bitsAt [(88, 0x79), (83, 7), (81, 3), (77, 4), (70, 37), (63, 56), (45, 7)],
      bitsAt [(88, 0x7a), (83, 8), (77, 5), (70, 38), (63, 55), (45, 8)],
      bitsAt [(88, 0x7b), (83, 9), (81, 1), (77, 3), (70, 39), (63, 54), (45, 9)],
      bitsAt [(88, 0x7c), (83, 10), (81, 2), (77, 4), (70, 40), (63, 53), (45, 10)],
      bitsAt [(88, 0x7d), (83, 11), (81, 3), (77, 5), (70, 41), (63, 52), (45, 11)],
      bitsAt [(88, 0x7e), (83, 12), (77, 3), (70, 42), (63, 51), (45, 12)],
      bitsAt [(88, 0x7f), (83, 13), (81, 1), (77, 4), (70, 43), (63, 50), (45, 13)]].map (decode .v) =
    [
      some (.vtol 0 ⟨0, 3, 30, 63, 0, 0, 0, false, 0, 0, 0⟩),
      some (.vfroml 1 ⟨1, 4, 31, 62, 0, 0, 1, false, 0, 0, 0⟩),
      some (.lmul 2 ⟨0, 10, 32, 61, 74, 0, 2, false, 0, 0, 0⟩),
      some (.ldiv 3 ⟨0, 10, 33, 60, 74, 0, 3, false, 0, 0, 0⟩),
      some (.lroot 4 ⟨0, 10, 34, 59, 0, 0, 4, false, 0, 0, 16⟩),
      some (.lpow 5 ⟨0, 10, 35, 58, 0, 0, 5, false, 0, 0, 0xffff⟩),
      some (.frsqrt 6 ⟨2, 3, 36, 57, 0, 0, 6, false, 0, 0, 0⟩),
      some (.frcp 7 ⟨3, 4, 37, 56, 0, 0, 7, false, 0, 0, 0⟩),
      some (.fsqrt 8 ⟨0, 5, 38, 55, 0, 0, 8, false, 0, 0, 0⟩),
      some (.fexp2 9 ⟨1, 3, 39, 54, 0, 0, 9, false, 0, 0, 0⟩),
      some (.flog2 10 ⟨2, 4, 40, 53, 0, 0, 10, false, 0, 0, 0⟩),
      some (.fsigm 11 ⟨3, 5, 41, 52, 0, 0, 11, false, 0, 0, 0⟩),
      some (.ftanh 12 ⟨0, 3, 42, 51, 0, 0, 12, false, 0, 0, 0⟩),
      some (.fsilu 13 ⟨1, 4, 43, 50, 0, 0, 13, false, 0, 0, 0⟩)] := by rfl

/-- Format VM (R163). -/
theorem test_decode_vector_memory : [
      bitsAt [(88, 0x60), (77, 9), (70, 63), (69, 1), (67, 3), (43, 0xffffff), (39, 5), (38, 1), (35, 6), (34, 1), (32, 1), (29, 4), (25, 9), (9, 0x8001)],
      bitsAt [(88, 0x61), (83, 2), (77, 2), (70, 1), (43, 0x7fffff), (39, 4), (32, 2), (29, 2), (25, 3)],
      bitsAt [(88, 0x62), (70, 7), (69, 1), (67, 2), (43, 32), (25, 4)],
      bitsAt [(88, 0x63), (70, 3), (43, 0xffffe0), (25, 15)],
      bitsAt [(88, 0xa0), (70, 15), (69, 1), (67, 1), (43, 0x108), (34, 1), (32, 1), (29, 1), (25, 2), (9, 1)],
      bitsAt [(88, 0xa1), (70, 14), (43, 8), (32, 2), (29, 3), (25, 6)]].map (decode .v) =
    [
      some (.vld 0 ⟨9, 63, true, 3, 0xffffff, 5, true, 6, true, 1, 4, 9, 0x8001⟩),
      some (.vst 2 ⟨2, 1, false, 0, 0x7fffff, 4, false, 0, false, 2, 2, 3, 0⟩),
      some (.mld 0 ⟨0, 7, true, 2, 32, 0, false, 0, false, 0, 0, 4, 0⟩),
      some (.mst 0 ⟨0, 3, false, 0, 0xffffe0, 0, false, 0, false, 0, 0, 15, 0⟩),
      some (.qld 0 ⟨0, 15, true, 1, 0x108, 0, false, 0, true, 1, 1, 2, 1⟩),
      some (.qst 0 ⟨0, 14, false, 0, 8, 0, false, 0, false, 2, 3, 6, 0⟩)] := by rfl

/-- Format VA (R163), quill words. -/
theorem test_decode_quills : [
      bitsAt [(88, 0x90), (77, 3), (70, 15), (63, 64), (45, 2)],
      bitsAt [(88, 0x91), (83, 1), (81, 1), (77, 5), (70, 63), (63, 14), (45, 3)],
      bitsAt [(88, 0x92), (83, 2), (81, 2), (77, 3), (70, 1), (63, 2), (56, 3)],
      bitsAt [(88, 0x93), (81, 3), (77, 3), (70, 4), (63, 5), (56, 6)],
      bitsAt [(88, 0x94), (83, 1), (70, 7), (63, 8), (56, 72), (7, 0x80000000)],
      bitsAt [(88, 0x95), (83, 2), (70, 1), (63, 15), (56, 14)],
      bitsAt [(88, 0x96), (70, 2), (63, 3), (56, 4)],
      bitsAt [(88, 0x97), (83, 1), (70, 5), (63, 6), (56, 7), (7, 0x10000)],
      bitsAt [(88, 0x98), (83, 2), (70, 8), (63, 9)],
      bitsAt [(88, 0x99), (81, 1), (77, 5), (70, 10), (63, 11), (56, 12), (45, 13)],
      bitsAt [(88, 0x9a), (83, 1), (77, 15), (70, 62), (63, 1)],
      bitsAt [(88, 0x9b), (83, 2), (70, 20), (63, 3)],
      bitsAt [(88, 0x9c), (70, 4), (63, 33)],
      bitsAt [(88, 0x9d), (83, 1), (70, 7), (63, 6), (7, 0x3ff)],
      bitsAt [(88, 0x9e), (83, 2), (70, 15), (63, 1)],
      bitsAt [(88, 0xfd), (83, 4), (62, 0xffff), (59, 1)],
      bitsAt [(88, 0xfe), (83, 1)]].map (decode .v) =
    [
      some (.qfrom 0 ⟨0, 3, 15, 64, 0, 0, 2, false, 0, 0, 0⟩),
      some (.qto 1 ⟨1, 5, 63, 14, 0, 0, 3, false, 0, 0, 0⟩),
      some (.qcos 2 ⟨2, 3, 1, 2, 3, 0, 0, false, 0, 0, 0⟩),
      some (.qdot 0 ⟨3, 3, 4, 5, 6, 0, 0, false, 0, 0, 0⟩),
      some (.qscl 1 ⟨0, 0, 7, 8, 72, 0, 0, false, 0, 0, 0x80000000⟩),
      some (.qadd 2 ⟨0, 0, 1, 15, 14, 0, 0, false, 0, 0, 0⟩),
      some (.qsub 0 ⟨0, 0, 2, 3, 4, 0, 0, false, 0, 0, 0⟩),
      some (.qlerp 1 ⟨0, 0, 5, 6, 7, 0, 0, false, 0, 0, 0x10000⟩),
      some (.qneg 2 ⟨0, 0, 8, 9, 0, 0, 0, false, 0, 0, 0⟩),
      some (.qrms 0 ⟨1, 5, 10, 11, 12, 0, 13, false, 0, 0, 0⟩),
      some (.qq8 1 ⟨0, 15, 62, 1, 0, 0, 0, false, 0, 0, 0⟩),
      some (.qnget 2 ⟨0, 0, 20, 3, 0, 0, 0, false, 0, 0, 0⟩),
      some (.qnset 0 ⟨0, 0, 4, 33, 0, 0, 0, false, 0, 0, 0⟩),
      some (.qcls 1 ⟨0, 0, 7, 6, 0, 0, 0, false, 0, 0, 0x3ff⟩),
      some (.qmov 2 ⟨0, 0, 15, 1, 0, 0, 0, false, 0, 0, 0⟩),
      some (.fence .v ⟨4, none⟩ ⟨0xffff, 1⟩),
      some (.nop .v ⟨1, none⟩)] := by rfl

/-- Format MC (R164). -/
theorem test_decode_matrix : [
      bitsAt [(88, 0x10), (77, 1), (75, 1), (67, 255), (59, 254), (55, 9), (47, 7)],
      bitsAt [(88, 0x20), (83, 31), (76, 1), (75, 1), (67, 7), (59, 9), (55, 4), (51, 6), (47, 3)],
      bitsAt [(88, 0x30), (83, 31), (76, 1)],
      bitsAt [(88, 0x40), (76, 1), (67, 1), (59, 2), (55, 3), (51, 15), (47, 5)],
      bitsAt [(88, 0x50), (76, 1), (67, 128), (47, 6)],
      bitsAt [(88, 0x51), (83, 2), (76, 1)],
      bitsAt [(88, 0xfd), (62, 1), (59, 2)],
      bitsAt [(88, 0xfe), (83, 3)]].map (decode .m) =
    [
      some (.mwld 0 ⟨true, false, true, 255, 254, 9, 0, 7⟩),
      some (.macc 31 ⟨false, true, true, 7, 9, 4, 6, 3⟩),
      some (.mclr 31 ⟨false, true, false, 0, 0, 0, 0, 0⟩),
      some (.mepi 0 ⟨false, true, false, 1, 2, 3, 15, 5⟩),
      some (.mflg 0 ⟨false, true, false, 128, 0, 0, 0, 6⟩),
      some (.mfclr 2 ⟨false, true, false, 0, 0, 0, 0, 0⟩),
      some (.fence .m ⟨0, none⟩ ⟨1, 2⟩),
      some (.nop .m ⟨3, none⟩)] := by rfl

/-- Formats XE, XT and XA (R165). -/
theorem test_decode_exchange : [
      bitsAt [(88, 0x10), (75, 240), (70, 3), (54, 0xffff), (50, 15), (46, 8), (30, 1)],
      bitsAt [(88, 0x11), (83, 1), (75, 16), (70, 1), (54, 0x7fff), (46, 1), (30, 0x280)],
      bitsAt [(88, 0x12), (74, 1), (72, 2), (70, 3), (54, 5), (50, 3), (46, 4), (30, 0xffff)],
      bitsAt [(88, 0x13), (75, 3), (70, 2), (50, 1), (46, 2), (30, 9)],
      bitsAt [(88, 0x14), (75, 63), (70, 1), (46, 3), (30, 77)],
      bitsAt [(88, 0x20), (73, 0x200), (72, 1), (70, 3), (46, 0xfffffe), (44, 2), (40, 5)],
      bitsAt [(88, 0x21), (73, 1), (46, 0x100), (44, 1), (40, 6), (24, 0x1f4)],
      bitsAt [(88, 0x22), (83, 2), (73, 100), (72, 1), (70, 1), (46, 7), (44, 3), (40, 7)],
      bitsAt [(88, 0x30), (79, 9), (77, 2), (75, 1), (73, 2), (71, 3), (70, 1), (68, 2), (44, 64), (42, 3), (39, 4), (35, 2), (19, 0x12c), (18, 1)],
      bitsAt [(88, 0x31), (79, 7), (77, 3), (75, 3), (73, 1), (42, 2), (39, 3), (35, 4)],
      bitsAt [(88, 0x38), (75, 1), (73, 2), (42, 2), (39, 5), (35, 1), (18, 1)],
      bitsAt [(88, 0x39), (75, 2), (73, 3), (35, 9)],
      bitsAt [(88, 0x3a), (75, 3), (70, 1), (68, 3), (44, 0xfffffc), (42, 1), (39, 4), (35, 10), (19, 44), (18, 1)],
      bitsAt [(88, 0xfd), (62, 2), (59, 4)],
      bitsAt [(88, 0xfe)]].map (decode .x) =
    [
      some (.xchNd 0 ⟨240, false, 0, 3, 0xffff, 15, 8, 1⟩),
      some (.xchNm 1 ⟨16, false, 0, 1, 0x7fff, 0, 1, 0x280⟩),
      some (.xchDm 0 ⟨0, true, 2, 3, 5, 3, 4, 0xffff⟩),
      some (.xchNp 0 ⟨3, false, 0, 2, 0, 1, 2, 9⟩),
      some (.xchAm 0 ⟨63, false, 0, 1, 0, 0, 3, 77⟩),
      some (.xsend 0 ⟨0x200, true, 3, 0xfffffe, 2, 5, 0⟩),
      some (.xland 0 ⟨1, false, 0, 0x100, 1, 6, 0x1f4⟩),
      some (.xpush 2 ⟨100, true, 1, 7, 3, 7, 0⟩),
      some (.xatom 0 ⟨9, 2, 1, 2, 3, true, 2, 64, 3, 4, 2, 0x12c, true⟩),
      some (.xred 0 ⟨7, 3, 3, 1, 0, false, 0, 0, 2, 3, 4, 0, false⟩),
      some (.xbinit 0 ⟨0, 0, 1, 2, 0, false, 0, 0, 2, 5, 1, 0, true⟩),
      some (.xbadd 0 ⟨0, 0, 2, 3, 0, false, 0, 0, 0, 0, 9, 0, false⟩),
      some (.xbread 0 ⟨0, 0, 3, 0, 0, true, 3, 0xfffffc, 1, 4, 10, 44, true⟩),
      some (.fence .x ⟨0, none⟩ ⟨2, 4⟩),
      some (.nop .x ⟨0, none⟩)] := by rfl

/-- The worked words of the sequencer map in spec files 08, 14, 16, 17 and 22, as the spec prints them. -/
theorem test_worked_sequencer : [
      0x0100_081B_0000_0000_0000_0000,
      0x5000_0200_FF00_0C00_0000_0000,
      0x4000_0007_10C0_0000_0000_0000,
      0x4400_0F00_0000_0000_0000_0000,
      0x6400_050D_0900_0000_0000_0000,
      0x3500_0003_4000_0000_C000_0000,
      0x6300_00EC_0000_0000_0000_0000,
      0x3400_000A_4400_0000_0000_0000,
      0x50F8_1AC0_0000_0AC3_0040_0000,
      0xE000_0A00_2000_0000_0000_0000,
      0xE100_0600_C000_0000_0000_0000,
      0xE200_0000_2000_0000_0000_0000,
      0xEC00_0E40_0000_0000_0000_0000,
      0x7000_0000_4000_0000_0000_0000,
      0x5100_0A00_0B00_2000_0000_0000,
      0x4000_2F01_1000_0000_0000_0000,
      0x2100_1450_0000_0000_0000_0010,
      0xE100_1000_6000_0000_0000_0000].map (decode .seq) =
    [
      some (.add ⟨0, none⟩ ⟨4, 1, 22⟩),
      some (.ld ⟨0, none⟩ ⟨1, 0, 1044480, 3, false, 0, 0, 0, 0⟩),
      some (.disp ⟨0, none⟩ ⟨0, 7, 2, 3, 0, 0⟩),
      some (.palign ⟨0, none⟩ ⟨7, 4⟩),
      some (.barRed ⟨0, none⟩ ⟨40, 3, 8, 9, 0⟩),
      some (.loopi ⟨0, none⟩ ⟨0, 13, 3⟩),
      some (.barSync ⟨0, none⟩ ⟨7, 3, 0, 0, 0⟩),
      some (.loopReg ⟨0, none⟩ ⟨0, 41, 2⟩),
      some (.ld ⟨31, none⟩ ⟨13, 12, 0, 2, true, 1, 4, 3, 64⟩),
      some (.rdsys ⟨0, none⟩ ⟨5, 1⟩),
      some (.wrsys ⟨0, none⟩ ⟨3, 6⟩),
      some (.sretFault ⟨0, none⟩),
      some (.parkrd ⟨0, none⟩ ⟨7, 512⟩),
      some (.trapWord ⟨0, none⟩ ⟨1⟩),
      some (.st ⟨0, none⟩ ⟨5, 0, 45058, 0, false, 0, 0, 0, 0⟩),
      some (.disp ⟨0, none⟩ ⟨2, 0xF01, 2, 0, 0, 0⟩),
      some (.cmpi ⟨0, none⟩ ⟨2, 4, 10, 2⟩),
      some (.wrsys ⟨0, none⟩ ⟨8, 3⟩)] := by rfl

/-- The worked words of the vector map in spec files 09, 10, 13, 14, 15 and 16, as the spec prints them. -/
theorem test_worked_vector : [
      0x6038_0800_0880_0200_0400_0000,
      0x0A18_0810_4800_8000_0000_0000,
      0x6100_0800_0880_0200_0400_0000,
      0xFD00_0001_0800_0000_0000_0000,
      0x9000_6044_0000_A000_0000_0000,
      0x9400_0080_8000_0000_0080_0000,
      0x6500_0000_0000_0000_0000_1F80,
      0x3858_6080_0000_2000_0000_0000,
      0x6100_00C0_0284_0200_0200_0000,
      0x6608_0100_0000_0000_0000_0000,
      0x5000_8200_0000_4000_0000_0000,
      0x1C00_2440_0000_2000_0000_8000,
      0x6100_8268_0010_0084_0000_0000,
      0x5101_4200_0600_C000_0000_0000,
      0x9A01_E101_0000_0000_0000_0000,
      0x9300_6502_0600_0000_0000_0000,
      0x1D00_0080_0000_2000_0000_1600,
      0x1801_4100_C900_4000_0000_0000].map (decode .v) =
    [
      some (.vld 7 ⟨0, 32, false, 0, 0x11000, 4, false, 0, false, 0, 0, 2, 0⟩),
      some (.vmax 3 ⟨0, 0, 32, 32, 0x48, 0, 4, false, 0, 0, 0⟩),
      some (.vst 0 ⟨0, 32, false, 0, 0x11000, 4, false, 0, false, 0, 0, 2, 0⟩),
      some (.fence .v ⟨0, none⟩ ⟨4, 1⟩),
      some (.qfrom 0 ⟨0, 3, 1, 8, 0, 0, 5, false, 0, 0, 0⟩),
      some (.qscl 0 ⟨0, 0, 2, 1, 0, 0, 0, false, 0, 0, 0x10000⟩),
      some (.vfclr 0 ⟨0, 0, 0, 0, 0, 0, 0, false, 0, 0, 0x3F⟩),
      some (.vmxq 11 ⟨0, 3, 2, 0, 0, 0, 1, false, 0, 0, 0⟩),
      some (.vst 0 ⟨0, 3, false, 0, 20608, 4, false, 0, false, 0, 0, 1, 0⟩),
      some (.vfrd 1 ⟨0, 0, 4, 0, 0, 0, 0, false, 0, 0, 0⟩),
      some (.vtrn 0 ⟨0, 4, 8, 0, 0, 0, 2, false, 0, 0, 0⟩),
      some (.vbidx 0 ⟨0, 1, 17, 0, 0, 0, 1, false, 0, 0, 256⟩),
      some (.vst 0 ⟨4, 9, true, 1, 512, 1, false, 0, true, 0, 0, 0, 0⟩),
      some (.vperm 0 ⟨0, 10, 8, 0, 6, 0, 6, false, 0, 0, 0⟩),
      some (.qq8 0 ⟨0, 15, 4, 2, 0, 0, 0, false, 0, 0, 0⟩),
      some (.qdot 0 ⟨0, 3, 20, 4, 6, 0, 0, false, 0, 0, 0⟩),
      some (.vbcmp 0 ⟨0, 0, 2, 0, 0, 0, 1, false, 0, 0, 0x2C⟩),
      some (.vclmul 0 ⟨0, 10, 4, 1, 0x49, 0, 2, false, 0, 0, 0⟩)] := by rfl

/-- The worked words of the matrix map in spec files 11 and 15, as the spec prints them. -/
theorem test_worked_matrix : [
      0x1000_0008_0080_0000_0000_0000,
      0x30F8_0000_0000_0000_0000_0000,
      0x20F8_0080_0100_0000_0000_0000,
      0x4000_0088_0180_0000_0000_0000,
      0x20F0_0060_6C78_0000_0000_0000].map (decode .m) =
    [
      some (.mwld 0 ⟨false, false, false, 1, 0, 1, 0, 0⟩),
      some (.mclr 31 ⟨false, false, false, 0, 0, 0, 0, 0⟩),
      some (.macc 31 ⟨false, false, false, 16, 0, 2, 0, 0⟩),
      some (.mepi 0 ⟨false, false, false, 17, 0, 3, 0, 0⟩),
      some (.macc 30 ⟨false, false, false, 12, 13, 8, 15, 0⟩)] := by rfl

/-- The worked words of the exchange map in spec files 07, 12, 13, 14, 15, 16 and 22, as the spec prints them. -/
theorem test_worked_exchange : [
      0x1100_8000_0000_40A0_0000_0000,
      0x1000_1040_00C4_4096_0000_0000,
      0x2000_2000_1410_0300_0000_0000,
      0x2100_2000_1800_0301_1800_0000,
      0x3000_6200_0900_8010_0960_0000,
      0x1100_2800_0000_40A0_0000_0000,
      0x1018_1000_0040_4096_0000_0000,
      0x1100_0800_0040_40A0_0000_0000,
      0x2100_1000_1808_0101_2C00_0000,
      0x1100_5800_0000_40A0_0000_0000].map (decode .x) =
    [
      some (.xchNm 0 ⟨16, false, 0, 0, 0, 0, 1, 640⟩),
      some (.xchNd 0 ⟨2, false, 0, 1, 3, 1, 1, 600⟩),
      some (.xsend 0 ⟨16, false, 0, 20544, 0, 3, 0⟩),
      some (.xland 0 ⟨16, false, 0, 24576, 0, 3, 280⟩),
      some (.xatom 0 ⟨0, 3, 0, 1, 0, false, 0, 36872, 0, 0, 2, 300, false⟩),
      some (.xchNm 0 ⟨5, false, 0, 0, 0, 0, 1, 640⟩),
      some (.xchNd 3 ⟨2, false, 0, 0, 1, 0, 1, 600⟩),
      some (.xchNm 0 ⟨1, false, 0, 0, 1, 0, 1, 640⟩),
      some (.xland 0 ⟨8, false, 0, 24608, 0, 1, 300⟩),
      some (.xchNm 0 ⟨11, false, 0, 0, 0, 0, 1, 640⟩)] := by rfl

/-- Ill-formed sequencer words, one for each condition of `wf` (R157-R161, R170, R171 and the entries); `wf` refuses each. -/
theorem test_ill_formed_sequencer : ([
      .li ⟨0, none⟩ ⟨1, 2, 3⟩, .shli ⟨0, none⟩ ⟨1, 2, 64⟩, .shri ⟨0, none⟩ ⟨1, 2, 64⟩, .sari ⟨0, none⟩ ⟨1, 2, 64⟩,
      .cmp ⟨0, none⟩ ⟨0, 6, 0, 0⟩, .cmpi ⟨0, none⟩ ⟨0, 6, 0, 0⟩, .pnot ⟨0, none⟩ ⟨0, 0, 1⟩,
      .disp ⟨0, none⟩ ⟨3, 1, 0, 0, 0, 0⟩, .disp ⟨0, none⟩ ⟨0, 0xFFF, 0, 0, 0, 0⟩, .nextTile ⟨1, none⟩,
      .endShareWord ⟨1, none⟩, .palign ⟨0, none⟩ ⟨0, 1⟩, .palign ⟨0, none⟩ ⟨0, 5⟩, .palign ⟨0, some ⟨false, 1⟩⟩ ⟨0, 2⟩,
      .rdtick ⟨0, none⟩ ⟨0, 1⟩, .rdscyc ⟨0, none⟩ ⟨0, 1⟩, .rdlbt ⟨0, none⟩ ⟨0, 1⟩,
      .ld ⟨0, none⟩ ⟨0, 0, 0, 0, false, 2, 1, 0, 0⟩, .ld ⟨0, none⟩ ⟨0, 0, 0, 0, false, 1, 0, 0, 0⟩,
      .ld ⟨0, none⟩ ⟨0, 0, 0, 0, false, 1, 6, 0, 0⟩, .ld ⟨0, none⟩ ⟨0, 0, 0, 0, false, 0, 1, 0, 0⟩,
      .ld ⟨0, none⟩ ⟨0, 0, 0, 0, false, 3, 1, 0, 0⟩, .ld ⟨0, none⟩ ⟨0, 0, 0, 0, true, 0, 0, 0, 0⟩,
      .ld ⟨0, none⟩ ⟨0, 0, 0, 0, false, 0, 0, 0, 1⟩, .st ⟨0, none⟩ ⟨0, 0, 0, 0, false, 1, 1, 0, 0⟩,
      .st ⟨0, none⟩ ⟨0, 0, 0, 0, true, 0, 0, 0, 1⟩, .shld ⟨0, none⟩ ⟨16, 0, 0, 3, false, 0, 0, 0, 0⟩,
      .shld ⟨0, none⟩ ⟨0, 0, 0, 2, false, 0, 0, 0, 0⟩, .shld ⟨0, none⟩ ⟨0, 0, 0, 3, true, 0, 0, 0, 0⟩,
      .shld ⟨0, none⟩ ⟨0, 0, 0, 3, false, 1, 1, 0, 0⟩, .shld ⟨0, none⟩ ⟨0, 0, 0, 3, false, 0, 0, 0, 1⟩,
      .shset ⟨0, none⟩ ⟨0, 17, 0⟩, .shget ⟨0, none⟩ ⟨0, 17, 0⟩, .barInit ⟨0, none⟩ ⟨0, 1, 0, 0, 0⟩,
      .barInit ⟨0, none⟩ ⟨0, 2, 0, 1, 0⟩, .barInit ⟨0, none⟩ ⟨0, 2, 0, 0, 1⟩, .barArr ⟨0, none⟩ ⟨0, 6, 0, 0, 0⟩,
      .barArr ⟨0, none⟩ ⟨0, 2, 1, 0, 0⟩, .barArr ⟨0, none⟩ ⟨0, 2, 0, 1, 0⟩, .barArr ⟨0, none⟩ ⟨0, 2, 0, 0, 1⟩,
      .barWait ⟨0, some ⟨false, 1⟩⟩ ⟨0, 2, 0, 0, 0⟩, .barWait ⟨0, none⟩ ⟨0, 2, 1, 0, 0⟩,
      .barSync ⟨0, some ⟨false, 1⟩⟩ ⟨0, 2, 0, 0, 0⟩, .barSync ⟨0, none⟩ ⟨0, 2, 0, 1, 0⟩,
      .barRed ⟨0, none⟩ ⟨0, 2, 0, 0, 6⟩, .barRed ⟨0, some ⟨false, 1⟩⟩ ⟨0, 2, 0, 0, 0⟩,
      .barRed ⟨0, none⟩ ⟨0, 0, 0, 0, 0⟩, .rdsys ⟨0, none⟩ ⟨0, 0x00D⟩, .rdsys ⟨0, none⟩ ⟨0, 0x03F⟩,
      .rdsys ⟨0, none⟩ ⟨0, 0x067⟩, .rdsys ⟨0, none⟩ ⟨0, 0x080⟩, .wrsys ⟨0, none⟩ ⟨0, 0x1FF⟩,
      .wrsys ⟨0, none⟩ ⟨0, 0x480⟩, .sret ⟨0, some ⟨false, 1⟩⟩, .sretFault ⟨0, some ⟨false, 1⟩⟩,
      .lres ⟨0, some ⟨false, 1⟩⟩, .labn ⟨0, some ⟨false, 1⟩⟩, .tlbiVa ⟨0, none⟩ ⟨0, 1⟩, .tlbiAsid ⟨0, none⟩ ⟨0, 1⟩,
      .errrd ⟨0, none⟩ ⟨0, 1⟩, .errclr ⟨0, none⟩ ⟨0, 1⟩, .parkrd ⟨0, none⟩ ⟨0, 64⟩, .barKill ⟨0, none⟩ ⟨0, 1⟩,
      .fence .seq ⟨0, none⟩ ⟨1, 0⟩, .fence .seq ⟨0, none⟩ ⟨1, 6⟩, .fence .m ⟨0, some ⟨false, 1⟩⟩ ⟨1, 1⟩,
      .nop .x ⟨0, some ⟨false, 1⟩⟩] : List Instr).any wf = false := by decide

/-- Ill-formed vector words, one for each condition of `wf` (R157-R161, R170, R171 and the entries); `wf` refuses each. -/
theorem test_ill_formed_vector : ([
      .vadd 0 ⟨1, 1, 0, 0, 0, 0, 0, false, 0, 0, 0⟩, .vadd 0 ⟨0, 6, 0, 0, 0, 0, 0, false, 0, 0, 0⟩,
      .vadd 0 ⟨0, 10, 0, 0, 0, 0, 0, false, 0, 0, 0⟩, .vadd 0 ⟨0, 11, 0, 0, 0, 0, 0, false, 0, 0, 0⟩,
      .vadd 0 ⟨0, 0, 0x40, 0, 0, 0, 0, false, 0, 0, 0⟩, .vadd 0 ⟨0, 0, 0, 0x41, 0, 0, 0, false, 0, 0, 0⟩,
      .vadd 0 ⟨0, 0, 0, 0x47, 0, 0, 0, false, 0, 0, 0⟩, .vadd 0 ⟨0, 0, 0, 0, 0x4C, 0, 0, false, 0, 0, 0⟩,
      .vadd 0 ⟨0, 0, 0, 0, 0, 1, 0, false, 0, 0, 0⟩, .vadd 0 ⟨0, 0, 0, 0, 0, 0, 0, false, 1, 0, 0⟩,
      .vadd 0 ⟨0, 0, 0, 0, 0, 0, 0, false, 0, 1, 0⟩, .vadd 0 ⟨0, 0, 0, 0, 0, 0, 0, false, 0, 0, 1⟩,
      .vfma 0 ⟨0, 3, 0, 0, 4, 8, 0, false, 0, 0, 0⟩, .vfma 0 ⟨0, 3, 0, 1, 61, 33, 0, false, 0, 0, 0⟩,
      .vdiv 0 ⟨0, 2, 0, 0, 0, 0, 0, false, 0, 0, 0⟩, .vsqrt 0 ⟨0, 3, 0, 0, 1, 0, 0, false, 0, 0, 0⟩,
      .vsqrt 0 ⟨0, 0, 0, 0, 0, 0, 0, false, 0, 0, 0⟩, .vmin 0 ⟨1, 3, 0, 0, 0, 0, 0, false, 0, 0, 0⟩,
      .vabs 0 ⟨0, 0, 0, 0, 1, 0, 0, false, 0, 0, 0⟩, .vadds 0 ⟨0, 3, 0, 0, 0, 0, 0, false, 0, 0, 0⟩,
      .vsubs 0 ⟨0, 5, 0, 0, 0, 0, 0, false, 0, 0, 0⟩, .vmulh 0 ⟨0, 4, 0, 0, 0, 0, 0, false, 0, 0, 0⟩,
      .vand 0 ⟨0, 3, 0, 0, 0, 0, 0, false, 0, 0, 0⟩, .vand 0 ⟨0, 0, 0, 0, 0, 0, 0, false, 0, 0, 1⟩,
      .vnot 0 ⟨0, 0, 0, 0, 1, 0, 0, false, 0, 0, 0⟩, .vclmul 0 ⟨0, 0, 0, 0, 0, 0, 0, false, 0, 0, 2⟩,
      .vsel 0 ⟨0, 0, 0, 0, 0, 0, 0, false, 0, 0, 0⟩, .vsel 0 ⟨0, 3, 0, 0, 0, 0, 0, true, 0, 0, 0⟩,
      .vbidx 0 ⟨0, 0, 0, 0, 0, 0, 0, false, 0, 0, 0⟩, .vbidx 0 ⟨0, 1, 0, 0, 0, 0, 0, true, 0, 0, 0⟩,
      .vbcmp 0 ⟨0, 1, 0, 0, 0, 0, 0, false, 0, 0, 0⟩, .vbcmp 0 ⟨0, 0, 0, 0, 0, 0, 0, false, 0, 0, 256⟩,
      .vmov 0 ⟨0, 9, 0, 0, 0, 0, 0, false, 0, 0, 0⟩, .vmov 0 ⟨0, 11, 0, 0, 0, 0, 0, false, 0, 0, 0⟩,
      .vsplat 0 ⟨0, 0, 0, 0, 0, 0, 0, false, 0, 0, 256⟩, .vsplat 0 ⟨0, 8, 0, 0, 0, 0, 0, false, 0, 0, 16⟩,
      .vsplat 0 ⟨0, 0, 0, 1, 0, 0, 0, false, 0, 0, 0⟩, .vcmp 0 ⟨0, 3, 0, 0, 0, 0, 0, false, 0, 0, 4⟩,
      .vcmp 0 ⟨0, 0, 0, 0, 0, 0, 0, false, 0, 0, 6⟩, .vcmp 0 ⟨0, 0, 8, 0, 0, 0, 0, false, 0, 0, 0⟩,
      .vcmp 0 ⟨0, 10, 0, 0, 0, 0, 0, false, 0, 0, 0⟩, .mand 0 ⟨0, 0, 0, 8, 0, 0, 0, false, 0, 0, 0⟩,
      .mor 0 ⟨0, 0, 0, 0, 0, 0, 1, false, 0, 0, 0⟩, .mxor 0 ⟨0, 1, 0, 0, 0, 0, 0, false, 0, 0, 0⟩,
      .mnot 0 ⟨0, 0, 0, 0, 1, 0, 0, false, 0, 0, 0⟩, .mfromv 0 ⟨0, 0, 8, 0, 0, 0, 0, false, 0, 0, 0⟩,
      .mtov 0 ⟨0, 0, 0, 0, 0, 0, 0, true, 0, 0, 0⟩, .vcvt 0 ⟨0, 3, 0, 0, 0, 0, 0, false, 0, 0, 3⟩,
      .vcvt 0 ⟨0, 3, 0, 0, 0, 0, 0, false, 0, 0, 10⟩, .vcvt 0 ⟨0, 10, 0, 0, 0, 0, 0, false, 0, 0, 3⟩,
      .vcvt 0 ⟨1, 1, 0, 0, 0, 0, 0, false, 0, 0, 2⟩, .vcvt 0 ⟨1, 6, 0, 0, 0, 0, 0, false, 0, 0, 3⟩,
      .vmxq 0 ⟨0, 3, 1, 0, 0, 0, 0, false, 0, 0, 0⟩, .vmxq 0 ⟨1, 3, 0, 0, 0, 0, 0, false, 0, 0, 0⟩,
      .vmxq 0 ⟨0, 0, 0, 0, 0, 0, 0, false, 0, 0, 0⟩, .vmxd 0 ⟨0, 3, 0, 0, 0, 0, 0, true, 0, 0, 0⟩,
      .vredadd 0 ⟨0, 3, 0, 0, 0, 0, 0, false, 0, 3, 0⟩, .vredadd 0 ⟨0, 10, 0, 0, 0, 0, 0, false, 0, 0, 0⟩,
      .vredmin 0 ⟨1, 3, 0, 0, 0, 0, 0, false, 0, 0, 0⟩, .vredand 0 ⟨0, 3, 0, 0, 0, 0, 0, false, 0, 0, 0⟩,
      .vredadd 0 ⟨1, 2, 0, 0, 0, 0, 0, false, 0, 0, 0⟩, .vscanadd 0 ⟨0, 0, 0, 0, 0, 0, 0, false, 0, 0, 2⟩,
      .vscanmax 0 ⟨2, 4, 0, 0, 0, 0, 0, false, 0, 0, 0⟩, .vscanxor 0 ⟨0, 3, 0, 0, 0, 0, 0, false, 0, 0, 0⟩,
      .vtrn 0 ⟨0, 8, 0, 0, 0, 0, 0, false, 0, 0, 0⟩, .vtrn 0 ⟨0, 0, 0, 0, 0, 0, 0, true, 0, 0, 0⟩,
      .vperm 0 ⟨0, 0, 0, 0, 0, 0, 0, false, 0, 0, 1⟩, .vperm 0 ⟨0, 9, 0, 0, 0, 0, 0, false, 0, 0, 0⟩,
      .vshuf 0 ⟨0, 0, 0, 0, 0, 0, 0, false, 0, 0, 5⟩, .vshuf 0 ⟨0, 0, 0, 0, 1, 0, 0, false, 0, 0, 4⟩,
      .vslide 0 ⟨0, 0, 0, 0, 0, 0, 0, false, 0, 0, 4097⟩, .vcompress 0 ⟨0, 0, 0, 0, 0, 0, 0, false, 0, 0, 0⟩,
      .vexpand 0 ⟨0, 0, 0, 0, 0, 0, 0, false, 0, 0, 0⟩, .vfclr 0 ⟨0, 0, 0, 0, 0, 0, 0, false, 0, 0, 64⟩,
      .vfclr 0 ⟨0, 0, 1, 0, 0, 0, 0, false, 0, 0, 0⟩, .vfrd 0 ⟨0, 1, 0, 0, 0, 0, 0, false, 0, 0, 0⟩,
      .vrng 0 ⟨0, 6, 0, 0, 0, 0, 0, false, 0, 0, 0⟩, .vrng 0 ⟨0, 0, 0, 1, 0, 0, 0, false, 0, 0, 0⟩,
      .vrotw 0 ⟨0, 0, 0, 0, 0, 0, 0, false, 0, 0, 8⟩, .vrotw 0 ⟨0, 0, 0, 0, 0, 0, 1, false, 0, 0, 0⟩,
      .vtol 0 ⟨1, 3, 0, 0, 0, 0, 0, false, 0, 0, 0⟩, .vtol 0 ⟨0, 0, 0, 0, 0, 0, 0, false, 0, 0, 0⟩,
      .vfroml 0 ⟨0, 10, 0, 0, 0, 0, 0, false, 0, 0, 0⟩, .lmul 0 ⟨0, 3, 0, 0, 0, 0, 0, false, 0, 0, 0⟩,
      .ldiv 0 ⟨1, 10, 0, 0, 0, 0, 0, false, 0, 0, 0⟩, .lroot 0 ⟨0, 10, 0, 0, 0, 0, 0, false, 0, 0, 1⟩,
      .lroot 0 ⟨0, 10, 0, 0, 0, 0, 0, false, 0, 0, 17⟩, .lpow 0 ⟨0, 10, 0, 0, 0, 0, 0, false, 0, 0, 65536⟩,
      .frsqrt 0 ⟨0, 3, 0, 0, 0, 0, 0, false, 0, 0, 1⟩, .frcp 0 ⟨0, 3, 0, 0, 0, 0, 0, false, 0, 0, 1⟩,
      .fsqrt 0 ⟨0, 3, 0, 0, 0, 0, 0, false, 0, 0, 1⟩, .fexp2 0 ⟨0, 3, 0, 0, 0, 0, 0, false, 0, 0, 1⟩,
      .flog2 0 ⟨0, 3, 0, 0, 0, 0, 0, false, 0, 0, 1⟩, .fsigm 0 ⟨0, 3, 0, 0, 0, 0, 0, false, 0, 0, 1⟩,
      .ftanh 0 ⟨0, 3, 0, 0, 0, 0, 0, false, 0, 0, 1⟩, .fsilu 0 ⟨0, 3, 0, 0, 0, 0, 0, false, 0, 0, 1⟩,
      .vld 0 ⟨11, 0, false, 0, 0, 0, false, 0, false, 0, 0, 0, 0⟩,
      .vld 0 ⟨0, 64, false, 0, 0, 0, false, 0, false, 0, 0, 0, 0⟩,
      .vld 0 ⟨0, 0, false, 1, 0, 0, false, 0, false, 0, 0, 0, 0⟩,
      .vld 0 ⟨0, 0, false, 0, 0, 0, false, 1, false, 0, 0, 0, 0⟩,
      .vld 0 ⟨0, 0, false, 0, 0, 0, false, 0, false, 2, 1, 0, 0⟩,
      .vld 0 ⟨0, 0, false, 0, 0, 0, false, 0, true, 0, 0, 0, 0⟩,
      .vld 0 ⟨0, 0, false, 0, 0, 0, false, 0, false, 0, 0, 0, 1⟩,
      .vst 0 ⟨0, 0, false, 0, 0, 0, false, 0, false, 1, 1, 0, 0⟩,
      .vst 0 ⟨0, 0, false, 0, 0, 0, false, 0, true, 0, 0, 0, 1⟩,
      .mld 0 ⟨1, 0, false, 0, 0, 0, false, 0, false, 0, 0, 0, 0⟩,
      .mld 0 ⟨0, 8, false, 0, 0, 0, false, 0, false, 0, 0, 0, 0⟩,
      .mst 0 ⟨0, 0, false, 0, 0, 1, false, 0, false, 0, 0, 0, 0⟩,
      .mst 0 ⟨0, 0, false, 0, 0, 0, false, 0, true, 0, 0, 0, 0⟩,
      .mst 0 ⟨0, 0, false, 0, 0, 0, false, 0, false, 2, 1, 0, 0⟩,
      .qld 0 ⟨0, 16, false, 0, 0, 0, false, 0, false, 0, 0, 0, 0⟩,
      .qld 0 ⟨0, 0, false, 0, 0, 0, true, 0, false, 0, 0, 0, 0⟩,
      .qst 0 ⟨1, 0, false, 0, 0, 0, false, 0, false, 0, 0, 0, 0⟩,
      .qst 0 ⟨0, 0, false, 0, 0, 0, false, 0, true, 0, 0, 0, 1⟩, .qfrom 0 ⟨0, 3, 16, 0, 0, 0, 0, false, 0, 0, 0⟩,
      .qfrom 0 ⟨0, 0, 0, 0, 0, 0, 0, false, 0, 0, 0⟩, .qto 0 ⟨0, 3, 0, 16, 0, 0, 0, false, 0, 0, 0⟩,
      .qcos 0 ⟨0, 4, 0, 0, 0, 0, 0, false, 0, 0, 0⟩, .qdot 0 ⟨0, 3, 0, 0, 16, 0, 0, false, 0, 0, 0⟩,
      .qscl 0 ⟨0, 0, 0, 0, 1, 0, 0, false, 0, 0, 0⟩, .qscl 0 ⟨0, 0, 0, 0, 0, 0, 0, false, 0, 0, 0x01000000⟩,
      .qadd 0 ⟨0, 1, 0, 0, 0, 0, 0, false, 0, 0, 0⟩, .qsub 0 ⟨0, 0, 0, 0, 0, 0, 1, false, 0, 0, 0⟩,
      .qlerp 0 ⟨0, 0, 0, 0, 0, 0, 0, false, 0, 0, 65537⟩, .qneg 0 ⟨0, 0, 0, 0, 1, 0, 0, false, 0, 0, 0⟩,
      .qrms 0 ⟨0, 4, 0, 0, 0, 0, 0, false, 0, 0, 0⟩, .qq8 0 ⟨0, 15, 1, 0, 0, 0, 0, false, 0, 0, 0⟩,
      .qq8 0 ⟨0, 0, 0, 0, 0, 0, 0, false, 0, 0, 0⟩, .qnget 0 ⟨0, 0, 0, 0, 0, 0, 0, false, 0, 0, 1⟩,
      .qnset 0 ⟨0, 0, 0, 0x41, 0, 0, 0, false, 0, 0, 0⟩, .qcls 0 ⟨0, 0, 0, 0, 0, 0, 0, false, 0, 0, 1024⟩,
      .qcls 0 ⟨0, 0, 8, 0, 0, 0, 0, false, 0, 0, 0⟩, .qmov 0 ⟨0, 0, 0, 0, 0, 0, 0, true, 0, 0, 0⟩] : List Instr).any wf = false := by decide

/-- Ill-formed matrix words, one for each condition of `wf` (R157-R161, R170, R171 and the entries); `wf` refuses each. -/
theorem test_ill_formed_matrix : ([
      .mwld 0 ⟨false, true, false, 0, 0, 0, 0, 0⟩, .mwld 0 ⟨false, false, false, 0, 0, 0, 1, 0⟩,
      .mwld 0 ⟨false, false, false, 0, 1, 0, 0, 0⟩, .macc 0 ⟨true, false, false, 0, 0, 0, 0, 0⟩,
      .macc 0 ⟨false, false, false, 0, 0, 0, 3, 0⟩, .macc 0 ⟨false, false, false, 0, 1, 0, 0, 0⟩,
      .mclr 0 ⟨true, false, false, 0, 0, 0, 0, 0⟩, .mclr 0 ⟨false, false, true, 0, 0, 0, 0, 0⟩,
      .mclr 0 ⟨false, false, false, 1, 0, 0, 0, 0⟩, .mclr 0 ⟨false, false, false, 0, 1, 0, 0, 0⟩,
      .mclr 0 ⟨false, false, false, 0, 0, 1, 0, 0⟩, .mclr 0 ⟨false, false, false, 0, 0, 0, 1, 0⟩,
      .mclr 0 ⟨false, false, false, 0, 0, 0, 0, 1⟩, .mepi 0 ⟨false, false, true, 0, 0, 0, 0, 0⟩,
      .mepi 0 ⟨false, false, false, 0, 0, 0, 1, 0⟩, .mepi 0 ⟨false, false, false, 0, 1, 0, 0, 0⟩,
      .mepi 0 ⟨true, false, false, 0, 0, 0, 0, 0⟩, .mflg 0 ⟨false, false, false, 0, 0, 1, 0, 0⟩,
      .mflg 0 ⟨false, false, false, 0, 1, 0, 0, 0⟩, .mflg 0 ⟨false, false, false, 0, 0, 0, 1, 0⟩,
      .mflg 0 ⟨false, false, true, 0, 0, 0, 0, 0⟩, .mfclr 0 ⟨false, false, false, 1, 0, 0, 0, 0⟩,
      .mfclr 0 ⟨false, false, false, 0, 0, 0, 0, 1⟩] : List Instr).any wf = false := by decide

/-- Ill-formed exchange words, one for each condition of `wf` (R157-R161, R170, R171 and the entries); `wf` refuses each. -/
theorem test_ill_formed_exchange : ([
      .xchNd 0 ⟨0, true, 0, 0, 0, 0, 0, 9⟩, .xchNd 0 ⟨0, false, 1, 0, 0, 0, 0, 9⟩,
      .xchNd 0 ⟨255, false, 0, 0, 0, 1, 0, 9⟩, .xchNd 0 ⟨0, false, 0, 0, 0, 0, 0, 0⟩,
      .xchNm 0 ⟨241, false, 0, 0, 0, 15, 0, 9⟩, .xchNp 0 ⟨0, false, 0, 0, 0, 0, 0, 0⟩,
      .xchDm 0 ⟨0, false, 0, 0, 0, 0, 0, 9⟩, .xchDm 0 ⟨1, true, 0, 0, 0, 0, 0, 9⟩,
      .xchAm 0 ⟨64, false, 0, 0, 0, 0, 0, 9⟩, .xchAm 0 ⟨63, false, 0, 0, 0, 1, 0, 9⟩,
      .xsend 0 ⟨0, false, 0, 0, 0, 0, 0⟩, .xsend 0 ⟨513, false, 0, 0, 0, 0, 0⟩, .xsend 0 ⟨1, false, 0, 0, 0, 0, 1⟩,
      .xsend 0 ⟨1, false, 1, 0, 0, 0, 0⟩, .xland 0 ⟨1, false, 0, 0, 0, 0, 0⟩, .xland 0 ⟨0, false, 0, 0, 0, 0, 1⟩,
      .xpush 0 ⟨1, false, 0, 0, 0, 0, 1⟩, .xatom 0 ⟨10, 3, 0, 0, 0, false, 0, 0, 0, 0, 0, 1, false⟩,
      .xatom 0 ⟨0, 1, 0, 0, 0, false, 0, 0, 0, 0, 0, 1, false⟩,
      .xatom 0 ⟨0, 3, 0, 0, 1, false, 0, 0, 0, 0, 0, 1, false⟩,
      .xatom 0 ⟨0, 3, 0, 0, 0, false, 0, 0, 0, 0, 0, 0, false⟩,
      .xatom 0 ⟨0, 3, 0, 0, 0, false, 0, 0, 1, 0, 0, 1, false⟩,
      .xred 0 ⟨8, 3, 0, 0, 0, false, 0, 0, 0, 0, 0, 0, false⟩, .xred 0 ⟨0, 3, 0, 0, 1, false, 0, 0, 0, 0, 0, 0, false⟩,
      .xred 0 ⟨0, 3, 0, 0, 0, false, 0, 0, 1, 1, 0, 0, false⟩, .xred 0 ⟨0, 3, 0, 0, 0, false, 0, 0, 0, 0, 0, 1, false⟩,
      .xred 0 ⟨0, 3, 0, 0, 0, false, 0, 1, 0, 0, 0, 0, false⟩, .xred 0 ⟨0, 3, 0, 0, 0, true, 0, 0, 0, 0, 0, 0, false⟩,
      .xbinit 0 ⟨0, 3, 0, 0, 0, false, 0, 0, 0, 0, 0, 0, false⟩,
      .xbinit 0 ⟨1, 0, 0, 0, 0, false, 0, 0, 0, 0, 0, 0, false⟩,
      .xbadd 0 ⟨0, 0, 0, 0, 1, false, 0, 0, 0, 0, 0, 0, false⟩,
      .xbread 0 ⟨0, 0, 0, 0, 0, false, 0, 0, 0, 0, 0, 0, false⟩,
      .xbread 0 ⟨0, 0, 0, 1, 0, false, 0, 0, 0, 0, 0, 1, false⟩,
      .xbread 0 ⟨0, 0, 0, 0, 0, false, 0, 0, 2, 1, 0, 1, false⟩] : List Instr).any wf = false := by decide

/-- `StepRunsDecodedWord`: each stream's turn, a word of no meaning, and the fetches past SBASE and past the stream. -/
theorem test_witness_step_seq :
    let s := State.reset.withFetchWord 96 0x0100081B0000000000000000
    Quiet s ∧ TurnOf s.core .seq ∧ fetched s.core .seq = some (wordBytes 0x0100_081B_0000_0000_0000_0000) ∧
      decodeBytes .seq (wordBytes 0x0100_081B_0000_0000_0000_0000) = some (.add h0 ⟨4, 1, 22⟩, []) := by
  unfold Quiet TurnOf fetched; decide +kernel

theorem test_witness_step_x :
    let s := onCore (fun k => k.withEngWord .x (wordBytes 0x11008000000040A000000000))
    Quiet s ∧ TurnOf s.core .x ∧ fetched s.core .x = some (wordBytes 0x1100_8000_0000_40A0_0000_0000) := by
  unfold Quiet TurnOf fetched; decide +kernel

theorem test_witness_step_m :
    let s := onCore (fun k => k.withEngWord .m (wordBytes 0x30F800000000000000000000))
    Quiet s ∧ TurnOf s.core .m ∧ fetched s.core .m = some (wordBytes 0x30F8_0000_0000_0000_0000_0000) := by
  unfold Quiet TurnOf fetched; decide +kernel

theorem test_witness_step_v :
    let s := onCore (fun k => k.withEngWord .v (wordBytes 0x660801000000000000000000))
    Quiet s ∧ TurnOf s.core .v ∧ fetched s.core .v = some (wordBytes 0x6608_0100_0000_0000_0000_0000) := by
  unfold Quiet TurnOf fetched; decide +kernel

theorem test_witness_step_illegal :
    let s := onCore (fun k => k.withSeqWord (wordBytes 0))
    let e := onCore (fun k => k.withEngWord .m (wordBytes 0))
    (Quiet s ∧ TurnOf s.core .seq ∧ fetched s.core .seq = some (wordBytes 0) ∧ decodeBytes .seq (wordBytes 0) = none) ∧
      Quiet e ∧ TurnOf e.core .m ∧ fetched e.core .m = some (wordBytes 0) ∧ decodeBytes .m (wordBytes 0) = none := by
  unfold Quiet TurnOf fetched; decide +kernel

theorem test_witness_step_fetch_traps :
    let k := State.reset.core.withSeqWord (wordBytes 0)
    let s := onCore (fun _ => { k with seq := { k.seq with sbase := 0 } })
    let u := onCore (fun _ => { k with seq := { k.seq with pc := 1, sbase := 2 } })
    let w := onCore (fun _ => { k with cur := { k.cur with bad := [4] } })
    let x := onCore (fun k => { k.withEngWord .x (wordBytes 0) with cur := { (k.withEngWord .x (wordBytes 0)).cur with bad := [4] } })
    (Quiet s ∧ TurnOf s.core .seq ∧ s.core.seqReady = true ∧ s.core.cur.word s.core.seq.pc.toNat ≠ none ∧ s.core.seq.sup = false ∧
      s.core.seq.sbase ≤ s.core.seq.pc) ∧
    (Quiet u ∧ TurnOf u.core .seq ∧ u.core.seqReady = true ∧ u.core.cur.word u.core.seq.pc.toNat = none) ∧
    (Quiet w ∧ TurnOf w.core .seq ∧ w.core.seqReady = true ∧ w.core.cur.word w.core.seq.pc.toNat ≠ none ∧ w.core.seq.pc < w.core.seq.sbase ∧
      w.core.cur.wordBad w.core.seq.pc.toNat = true) ∧
    Quiet x ∧ TurnOf x.core .x ∧ (x.core.eng .x).run = some (section0 false #v[0, 0, 0, 0]) ∧ x.core.wordReady .x = true ∧
      x.core.cur.poisoned 32 12 = true := by
  unfold Quiet TurnOf; decide +kernel

theorem test_witness_step_script :
    let s : State := { State.reset with script := [.ev (.powerOn ⟨[], []⟩)] }
    let u : State := { State.reset with script := [.ev .partReset], nib := { State.reset.nib with power := false } }
    s.script = .ev (.powerOn ⟨[], []⟩) :: [] ∧ s.scriptWaits (.powerOn ⟨[], []⟩) = false ∧
      u.script = .ev .partReset :: [] ∧ u.scriptWaits .partReset = false ∧ u.nib.power = false := by decide +kernel

/-- `RegistersStayLegal`, `MemoriesStayCanonical`: a step from a state within the ranges, FRZLIM at either bound, and memories
with contents. -/
theorem test_witness_invariants :
    let s : State := { State.reset.withFetchWord 96 0x0100081B0000000000000000 with
      others := [(5, { Core.reset with seq := { Seq.reset with frzlim := 256 } }),
                 (6, { Core.reset with seq := { Seq.reset with frzlim := 0x1000000 }, near := Store.empty.write 7 [1] })],
      main := Store.empty.write 9 [1] }
    KeysOk s ∧ (∀ e ∈ s.cores, RegsLegal e.2) ∧ Canonical s ∧ ∃ t, step s = .next t := by
  refine ⟨?_, ?_, ?_, next_of_goes ?_⟩
  · unfold KeysOk; decide +kernel
  · unfold RegsLegal State.cores; decide +kernel
  · unfold Canonical; decide +kernel
  · decide +kernel

/-- `FocusChangesNothing`: a state with other cores in canonical form. -/
theorem test_witness_focus :
    let s : State := { State.reset with others := [(5, { Core.reset with near := Store.empty.write 7 [1] })] }
    KeysOk s ∧ Sparse.canon Core.reset s.others = true := by
  unfold KeysOk; decide +kernel

/-- `FrozenCoreStands`: a core frozen by each cause, and the one word that a frozen core still feeds. -/
theorem test_witness_frozen :
    let by_ := fun (f : Freeze → Freeze) => (onSeq (fun q => { q with frz := f q.frz })).core.frozen
    by_ (fun z => { z with bankOn := true, bank := 1 }) = true ∧ by_ (fun z => { z with lateOn := true }) = true ∧
      by_ (fun z => { z with align := some (4, 10) }) = true ∧ by_ (fun z => { z with bar := some ⟨0, 3, none⟩ }) = true ∧
      by_ (fun z => { z with bar := some ⟨0, 3, none⟩, start := true }) = false ∧
      (onCore (fun k => { k with x := { k.x with accs := [{ acc0 with due := some 0 }] } })).core.frozen = true ∧
      KeysOk State.reset ∧ State.reset.core.frozen = false := by
  unfold KeysOk; decide +kernel

/-- `ScalarArithmetic`, `PredicateWords` and every statement under `Runs`: with no guard, with a guard that holds, with a loop
that ends elsewhere; condition codes at the ends of their range. -/
theorem test_witness_runs :
    RunsOn h0 [31, 1, 0] State.reset ∧ RegsClean State.reset (scalars State.reset (scalarReads false (.addi h0 ⟨1, 31, 9⟩))) ∧
      Runs ⟨31, some ⟨true, 7⟩⟩ State.reset ∧ Runs hp (onBank (fun b => { b with p := 1 })) ∧
      Runs h0 (onBank (fun b => { b with lc := b.lc.set 0 1, lend := b.lend.set 0 1 })) ∧ (0 : BitVec 3).toNat < 6 ∧
      (5 : BitVec 3).toNat < 6 ∧ decode .seq (seqBits 0x12 h0 [(73, 1), (4, 9)]) = some (.li h0 ⟨1, 0, 9⟩) := by
  dsimp only [RunsOn, Runs, Acts, NoLoopEnds, RegsClean]; decide +kernel

/-- `GuardsAndPrivilege`: guards that fail, privileged words, a poisoned scalar, and a check that fails. -/
theorem test_witness_guards :
    let s := onSeq (fun q => { q with sup := true })
    let u := onBank (fun b => { b with lc := b.lc.set 0 1 })
    (headOf (.add hp ⟨1, 2, 3⟩) = some hp ∧ guardHolds State.reset.core.seq.bank hp.guard = false ∧
      (privWord (.add hp ⟨1, 2, 3⟩) = true → State.reset.core.seq.sup = true) ∧
      badLoop State.reset.core.seq.pc (.add hp ⟨1, 2, 3⟩) = false ∧ NoLoopEnds State.reset) ∧
    (headOf (.drain hp) = some hp ∧ guardHolds s.core.seq.bank hp.guard = false ∧ privWord (.drain hp) = true ∧ s.core.seq.sup = true ∧
      badLoop s.core.seq.pc (.drain hp) = false ∧ NoLoopEnds s) ∧
    (guardHolds u.core.seq.bank hp.guard = false ∧ exclWord (.brk hp) = true ∧ ¬NoLoopEnds u ∧ badLoop u.core.seq.pc (.brk hp) = false) ∧
    headOf (.disp hp ⟨0, 0xF00, 0, 0, 0, 0⟩) = some hp ∧ privWord (.disp hp ⟨0, 0xF00, 0, 0, 0, 0⟩) = true ∧
      privWord (.disp hp ⟨0, 0xEFF, 0, 0, 0, 0⟩) = false ∧ State.reset.core.seq.sup = false := by
  unfold NoLoopEnds; decide +kernel

theorem test_witness_failed_checks :
    let s := onCore (fun k => { k with badReg := [(5, 31, 0)] })
    let p := onSeq (fun q => { q with pipe := true })
    let e := onCore (fun k => { k with ex := { k.ex with pipe := true } })
    headOf (.add h0 ⟨1, 2, 31⟩) = some h0 ∧ guardHolds s.core.seq.bank h0.guard = true ∧ privWord (.add h0 ⟨1, 2, 31⟩) = false ∧
      badLoop s.core.seq.pc (.add h0 ⟨1, 2, 31⟩) = false ∧ ¬RegsClean s (scalars s (scalarReads s.core.seq.half (.add h0 ⟨1, 2, 31⟩))) ∧
      guardHolds p.core.seq.bank h0.guard = true ∧ p.core.seq.pipe = true ∧
      RegsClean p (scalars p (scalarReads p.core.seq.half (.add h0 ⟨1, 2, 31⟩))) ∧ Stream.x ≠ .seq ∧ (e.core.eng .x).pipe = true := by
  unfold RegsClean; decide +kernel

/-- `Branches`, `LoopWords`, `LoopEnd`: a return stack of depth 0, 15 and 16; an END just behind the loop word and at it; one
loop alone, and an outer one that counts on. -/
theorem test_witness_branches :
    let d := fun (n : BitVec 5) => onBank (fun b => { b with depth := n })
    Acts h0 (d 0) ∧ (d 0).core.seq.bank.depth = 0 ∧ (d 15).core.seq.bank.depth.toNat < 16 ∧
      (d 15).core.seq.bank.depth ≠ 0 ∧ 16 ≤ (d 16).core.seq.bank.depth.toNat ∧ State.reset.core.seq.pc.toNat < (1 : BitVec 14).toNat ∧
      (0 : BitVec 14).toNat ≤ State.reset.core.seq.pc.toNat ∧ RegsClean (d 0) (scalars (d 0) [1]) := by
  unfold Acts RegsClean; decide +kernel

theorem test_witness_loop_end :
    let s := onBank (fun b => { b with lc := b.lc.set 1 2 })
    let u := onBank (fun b => { b with lc := (b.lc.set 1 1).set 0 2, lstart := b.lstart.set 1 3 })
    let w := onBank (fun b => { b with lc := b.lc.set 3 1 })
    (LoopEndsHere s 1 ∧ s.core.seq.bank.lc[(1 : Fin 4)] ≠ 1 ∧ s.core.seq.pipe = false) ∧
    (LoopEndsHere u 1 ∧ (0 : Fin 4) ≠ 1 ∧ u.core.seq.bank.lc[(1 : Fin 4)] = 1 ∧ u.core.seq.bank.lc[(0 : Fin 4)] ≠ 0 ∧
      u.core.seq.bank.lc[(0 : Fin 4)] ≠ 1 ∧ u.core.seq.bank.lend[(0 : Fin 4)] = u.core.seq.pc ∧
      ∀ m : Fin 4, m ≠ 1 → m ≠ 0 → u.core.seq.bank.lc[m] ≠ 0 → u.core.seq.bank.lend[m] = u.core.seq.pc →
        u.core.seq.bank.lstart[m] < u.core.seq.bank.lstart[(0 : Fin 4)]) ∧
    (LoopEndsHere w 3 ∧ w.core.seq.bank.lc[(3 : Fin 4)] = 1 ∧
      ∀ k : Fin 4, k ≠ 3 → w.core.seq.bank.lc[k] ≠ 0 → w.core.seq.bank.lend[k] ≠ w.core.seq.pc) := by
  dsimp only [LoopEndsHere]; repeat' apply And.intro
  all_goals decide +kernel

/-- `DispatchWords`: 0, 15 and 16 entries queued, a section of the plane and none, a thread entry before a supervisor's DISP; the
header of the listing carries `tile`. -/
theorem test_witness_dispatch :
    let q := fun (n : Nat) => onCore (fun k => { k with cur := plane0, ex := { k.ex with queue := List.replicate n QEntry.none } })
    let f : SD := ⟨2, 1, 0, 0, 0, 0⟩
    let sv := onCore (fun k => { k with cur := plane0, seq := { k.seq with sup := true }, ex := { k.ex with queue := [QEntry.none] } })
    RunsOn h0 [0, 1, 2, 31] (q 0) ∧ f.eng.toNat < 3 ∧ f.secno.toNat < 0xF00 ∧ (q 0).core.cur.find .x 1 = some 32 ∧ engOf f.eng = .x ∧
      ((q 15).core.eng .x).queue.length < 16 ∧ 16 ≤ ((q 16).core.eng .x).queue.length ∧ (q 0).core.cur.find .x 2 = none ∧
      ¬((q 15).core.seq.sup = true ∧ (q 15).core.ex.queue.any (fun x => !x.sup) = true) ∧
      RunsOn h0 [0, 0, 0, 0] sv ∧ sv.core.seq.sup = true ∧ sv.core.ex.queue.any (fun x => !x.sup) = true ∧
      ((q 0).core.cur.header 32).tile = true ∧ (q 0).core.enginesIdle = true ∧ (q 15).core.enginesIdle = false := by
  dsimp only [RunsOn, Runs, Acts, NoLoopEnds, RegsClean]; repeat' apply And.intro
  all_goals decide +kernel

/-- `WaitAndNop`: a word of OP 0xFE with one more bit, fetched. -/
theorem test_witness_nop_reserved :
    let w : InstrWord := 0xFE00_0000_0000_0000_0000_0001
    let s := onCore (fun k => k.withSeqWord (wordBytes w))
    NoLoopEnds State.reset ∧ State.reset.core.seq.pipe = false ∧ fieldAt w 88 8 = 0xFE#8 ∧ decode .seq w = none ∧ Quiet s ∧ TurnOf s.core .seq ∧
      fetched s.core .seq = some (wordBytes w) := by
  unfold NoLoopEnds Quiet TurnOf fetched; decide +kernel

theorem bitsAt_even (l : List (Nat × Nat)) (h : ∀ e ∈ l, 1 ≤ e.1) : (bitsAt l).getLsbD 0 = false := by
  have sum : ∀ l : List (Nat × Nat), (∀ e ∈ l, 1 ≤ e.1) → ∃ k, (l.map (fun e => e.2 * 2 ^ e.1)).sum = 2 * k := by
    intro l
    induction l with
    | nil => exact fun _ => ⟨0, rfl⟩
    | cons e r ih =>
      intro h
      obtain ⟨k, hk⟩ := ih (fun d hd => h d (List.mem_cons_of_mem _ hd))
      obtain ⟨n, hn⟩ := Nat.exists_eq_add_of_le (h e (List.mem_cons_self ..))
      exact ⟨e.2 * 2 ^ n + k, by rw [List.map_cons, List.sum_cons, hk, hn, Nat.pow_add]; ring⟩
  obtain ⟨k, hk⟩ := sum l h
  rw [bitsAt, hk, BitVec.getLsbD_ofNat]; simp

theorem test_witness_nop_reserved_word : ∀ h : Head, (0xFE00_0000_0000_0000_0000_0001 : InstrWord) ≠ seqBits 0xFE h [] := by
  intro h e
  have w : (seqBits 0xFE h []).getLsbD 0 = false := by
    obtain ⟨g, u⟩ := h
    rcases u with _ | ⟨n, p⟩ <;> exact bitsAt_even _ (by simp)
  rw [← e] at w
  exact absurd w (by decide)

/-- `TilesAlignmentAndTicks`: the last tile and one before it; a target at the present tick and one above. -/
theorem test_witness_tiles :
    let s := onCore (fun k => { k with share := { k.share with n := 4, tile := 3, tiles := 8 } })
    let u := onCore (fun k => { k with share := { k.share with n := 4, tile := 4, tiles := 8 } })
    Acts h0 s ∧ s.core.share.tile + s.core.share.n < s.core.share.tiles ∧
      Acts h0 u ∧ u.core.share.tiles ≤ u.core.share.tile + u.core.share.n ∧ (3 : BitVec 3) ≠ 4 ∧
      RegsClean State.reset (scalars State.reset [1]) ∧ Runs h0 State.reset ∧
      (State.reset.reg 0 1).toNat ≤ State.reset.tick.toNat ∧ State.reset.tick.toNat < ((withReg 1 1 State.reset).reg 0 1).toNat ∧
      Runs h0 (withReg 1 1 State.reset) := by
  dsimp only [RunsOn, Runs, Acts, NoLoopEnds, RegsClean]; repeat' apply And.intro
  all_goals decide +kernel

/-- `Fences`: a pending access the fence orders. -/
theorem test_witness_fence :
    let a : Acc := { acc0 with strm := .seq, cls := 15, reach := 5 }
    let s := onCore (fun k => { k with x := { k.x with accs := [a] } })
    Runs h0 s ∧ a ∈ s.core.unperformed ∧ a.strm = .seq ∧ a.isArrive = false ∧ (0x8000 : BitVec 16).getLsbD a.cls.toNat = true ∧
      a.reach ≤ (5 : BitVec 3).toNat := by
  dsimp only [RunsOn, Runs, Acts, NoLoopEnds, RegsClean]; repeat' apply And.intro
  all_goals decide +kernel

/-- `NearLoadStore`: the last byte in range, the first beyond, a poisoned word, and a slot pending under an exchange. -/
theorem test_witness_near :
    let top : SM := ⟨1, 0, 0x0FFFFF, 0, false, 0, 0, 0, 0⟩
    let out : SM := ⟨1, 0, 0x0FFFFF, 1, false, 0, 0, 0, 0⟩
    let at_ : SM := ⟨1, 0, 0x001FF8, 3, false, 0, 0, 0, 0⟩
    let bad := onCore (fun k => { k with near := { Store.empty with poison := [0x1FF8 / 8] } })
    let pend := onCore (fun k => { k with x := { k.x with accs := [{ acc0 with kind := .xch xch0 }] } })
    RunsOn h0 [0] State.reset ∧ RegsClean State.reset (scalars State.reset [1]) ∧ smAddr State.reset top + 2 ^ top.w.toNat = 2 ^ 20 ∧ 2 ^ 20 < smAddr State.reset out + 2 ^ out.w.toNat ∧
      State.reset.core.near.poisoned (smAddr State.reset at_) 8 = false ∧ bad.core.near.poisoned (smAddr bad at_) 8 = true ∧
      (slotsOf (smAddr State.reset at_) 8).any State.reset.core.nearBusy = false ∧ State.reset.core.near.wf = true ∧
      RunsOn h0 [0] bad ∧ RunsOn h0 [0] pend ∧ RegsClean pend (scalars pend [1]) ∧ (slotsOf (smAddr pend at_) 8).any pend.core.nearBusy = true ∧ State.reset.core.nearNews = [] := by
  dsimp only [RunsOn, Runs, Acts, NoLoopEnds, RegsClean, smAddr]; repeat' apply And.intro
  all_goals decide +kernel

/-- `DieLoadStore`: the last byte of the partition's share, the first outside it, a die block pending under an exchange. -/
theorem test_witness_die :
    let s := withPart id State.reset
    let x : Xch := { xch0 with form := .nd, far := [0] }
    let pend := withPart id (onCore (fun k => { k with x := { k.x with accs := [{ acc0 with kind := .xch x }] } }))
    RunsOn h0 [0] s ∧ RegsClean s (scalars s [1]) ∧ s.dieOk 0 1 = true ∧ s.dieOk 4095 1 = true ∧ s.dieOk (2 ^ 28 - 1) 2 = false ∧
      (slotsOf 0 8).any s.core.diePendingOwn = false ∧ RunsOn h0 [0] pend ∧ RegsClean pend (scalars pend [1]) ∧ pend.dieOk 0 8 = true ∧
      (slotsOf 0 8).any pend.core.diePendingOwn = true ∧
      smAddr s ⟨1, 0, 4095, 0, true, 0, 0, 0, 9⟩ = 4095 := by
  dsimp only [RunsOn, Runs, Acts, NoLoopEnds, RegsClean, smAddr]; repeat' apply And.intro
  all_goals decide +kernel

/-- `ShapeWords`: the last image in range, the first beyond, an address off 64, a poisoned image; the first and last field. -/
theorem test_witness_shapes :
    let f := fun (o : BitVec 24) => ({ reg := 0, base := 0, off := o, w := 3, lvl := false, ordq := 0, scope := 0, cls := 0, arr := 0 } : SM)
    let bad := onCore (fun k => { k with near := { Store.empty with poison := [15] } })
    let a := fun o => smAddr State.reset (f o)
    let spoilt := onCore (fun k => { k with badReg := [(2, 15, 7)] })
    RunsOn h0 [0] State.reset ∧ a 0xFFFC0 % 64 = 0 ∧ a 0xFFFC0 + 64 = 2 ^ 20 ∧ State.reset.core.near.poisoned (a 0xFFFC0) 64 = false ∧
      a 0x100000 % 64 = 0 ∧ 2 ^ 20 < a 0x100000 + 64 ∧ a 63 % 64 ≠ 0 ∧ RunsOn h0 [0] bad ∧ a 64 % 64 = 0 ∧ bad.core.near.poisoned (a 64) 64 = true ∧
      (0 : BitVec 5).toNat < 17 ∧ (16 : BitVec 5).toNat < 17 ∧ Runs h0 State.reset ∧ RegsClean State.reset (scalars State.reset [1]) ∧
      RegsClean State.reset [(2, 15)] ∧ Runs h0 spoilt ∧ ¬RegsClean spoilt [(2, 15)] := by
  dsimp only [RunsOn, Runs, Acts, NoLoopEnds, RegsClean, smAddr]; repeat' apply And.intro
  all_goals decide +kernel

/-- `Barriers`: a count of 1, of the whole group and beyond it; each state of the marks, and the wait half. -/
theorem test_witness_barriers :
    let s := withPart id (withReg 1 1 (withReg 2 8 (withReg 3 9 State.reset)))
    let sl := fun (x : BSlot) => onSeq (fun q => { q with bslots := [(511, x)] })
    let ready := sl { BSlot.zero with c := 4, scope := 3 }
    let gone := sl { BSlot.zero with c := 4, scope := 3, arrived := true }
    let back := onSeq (fun q => { q with half := true, bslots := [(511, { BSlot.zero with c := 4, scope := 3, arrived := true })] })
    let half := onSeq (fun q => { q with half := true })
    let done := sl { BSlot.zero with c := 4, scope := 3, arrived := true, done := true }
    Runs h0 s ∧ (s.core.seq.slot 511).arrived = false ∧ s.reg 0 1 ≠ 0 ∧ (s.reg 0 2).toNat = s.groupSize 3 ∧
      s.groupSize 3 < (s.reg 0 3).toNat ∧ s.reg 0 0 = 0 ∧
      Runs h0 ready ∧ (ready.core.seq.slot 511).c ≠ 0 ∧ (ready.core.seq.slot 511).scope = 3 ∧ (ready.core.seq.slot 511).arrived = false ∧
        (ready.core.seq.slot 511).done = false ∧ ready.core.seq.half = false ∧
      Sparse.canon BSlot.zero s.core.seq.bslots = true ∧ Sparse.canon BSlot.zero ready.core.seq.bslots = true ∧ RegsClean s (scalars s [1]) ∧
      Runs h0 gone ∧ (gone.core.seq.slot 511).arrived = true ∧ (gone.core.seq.slot 511).done = false ∧ Runs h0 back ∧ back.core.seq.half = true ∧
        (back.core.seq.slot 511).arrived = true ∧ (back.core.seq.slot 511).done = false ∧ Runs h0 half ∧ half.core.seq.half = true ∧
        (half.core.seq.slot 511).arrived = false ∧ (half.core.seq.slot 511).done = false ∧
      Runs h0 done ∧ (done.core.seq.slot 511).done = true ∧ done.core.seq.results = [] ∧ (done.core.seq.slot 511).c ≠ 0 ∧
      (s.core.seq.slot 0).c = 0 := by
  dsimp only [RunsOn, Runs, Acts, NoLoopEnds, RegsClean]; repeat' apply And.intro
  all_goals decide +kernel

/-- `TrapWords` and every trap: a drained core with and without a supervisor, one with a result in flight, one with a double trap. -/
theorem test_witness_traps :
    let r : Result := { strm := .seq, ord := 0, widx := 0, due := 3, exact := false, raced := [], flags := 0, land := .tlbAll }
    let s := onSeq (fun q => { q with sen := true })
    let busy := onCore (fun k => { k with x := { k.x with flight := [r] } })
    let sv := onSeq (fun q => { q with sen := true, sup := true })
    s.core.quiet = true ∧ NoTraps s ∧ s.core.seq.sup = false ∧ s.core.seq.sen = true ∧ busy.core.quiet = false ∧
      State.reset.core.seq.sen = false ∧ State.reset.core.seq.late = none ∧ sv.core.quiet = true ∧ NoTraps sv ∧ sv.core.seq.late = none ∧
      guardHolds s.core.seq.bank h0.guard = true ∧ guardHolds s.core.seq.bank hp.guard = false := by
  unfold NoTraps; decide +kernel

/-- `SupervisorReturns`, `LateReturns`. -/
theorem test_witness_returns :
    let s := onSeq (fun q => { q with sup := true, tpcEnd := true })
    let fresh := onSeq (fun q => { q with sup := true, fresh := true })
    let stop := onCore (fun k => { k with seq := { k.seq with sup := true }, share := { k.share with stop := true } })
    let a : Acc := { acc0 with due := some 0, kind := .land none 1 2 4096 8 }
    let z : LateFrame := ⟨9, 2, false, { Freeze.none with bar := some ⟨1, 3, none⟩ }, 1, Vector.replicate 3 false⟩
    let late := onCore (fun k => { k with seq := { k.seq with sup := true, late := some z }, x := { k.x with accs := [a], nid := 1 } })
    let claimed := { late with core := { late.core with x := { late.core.x with landing := [⟨0, none, 1, 2, 8, Store.empty, false⟩] } } }
    Acts h0 s ∧ s.core.seq.sup = true ∧ s.core.share.stop = false ∧ s.core.seq.fresh = false ∧ s.core.seq.late = none ∧ Acts h0 fresh ∧
      fresh.core.seq.sup = true ∧ fresh.core.share.stop = false ∧ fresh.core.seq.fresh = true ∧ Acts h0 stop ∧ stop.core.seq.sup = true ∧
      stop.core.share.stop = true ∧ stop.core.seq.late = none ∧ Acts h0 late ∧ late.core.seq.sup = true ∧ late.core.seq.late = some z ∧
      a ∈ late.core.x.accs ∧ a.late = true ∧ a.id < z.nid ∧ late.core.claim a = none ∧ claimed.core.claim a = some 0 ∧
      claimed.core.x.accs.filter (fun b => b.late && decide (b.id < z.nid)) = [a] ∧ Sparse.canon BSlot.zero late.core.seq.bslots = true := by
  dsimp only [Acts]; repeat' apply And.intro
  all_goals decide +kernel

/-- `SupervisorWords`: an empty core and each way it is not empty; a near slot free and pending; scopes 1, 2, 5 and 6 of `bar.kill`. -/
theorem test_witness_supervisor_words :
    let s := withPart id (onSeq (fun q => { q with sup := true }))
    let kind1 := withPart (fun x => { x with swkind := 1 }) (onSeq (fun q => { q with sup := true }))
    let held := onCore (fun k => { k with em := { k.em with queue := [{ QEntry.none with held := true }] } })
    let pends := onCore (fun k => { k with x := { k.x with accs := [{ acc0 with kind := .xch xch0 }] } })
    let v := fun (n : Nat) => ((BitVec.ofNat 64 (512 * n)).extractLsb' 9 3).toNat
    Runs h0 s ∧ s.core.seq.sup = true ∧ NoLoopEnds s ∧ s.core.holding = false ∧ s.core.x.accs.any Acc.pends = false ∧
      s.core.enginesIdle = true ∧ held.core.holding = true ∧ pends.core.x.accs.any Acc.pends = true ∧ held.core.enginesIdle = false ∧
      s.core.nearBusy 1 = false ∧ pends.core.nearBusy 1 = true ∧ v 1 < 2 ∧ 2 ≤ v 2 ∧ v 5 ≤ 5 ∧ 5 < v 6 ∧ s.partNum < 128 ∧
      s.partNum = 3 ∧ RegsClean s (scalars s [1]) ∧ (s.die s.myDie).today = [] ∧ s.myPart = some (3, Part.fresh (desc0 0 2) 0) ∧
      Runs h0 kind1 ∧ kind1.myPart = some (3, { Part.fresh (desc0 0 2) 0 with swkind := 1 }) := by
  dsimp only [RunsOn, Runs, Acts, NoLoopEnds, RegsClean]; repeat' apply And.intro
  all_goals decide +kernel

/-- `SystemRegisters`: the first and last register number of each range. -/
theorem test_witness_sysregs :
    let s := onSeq (fun q => { q with sup := true })
    let bad := onCore (fun k => { k with seq := { k.seq with sup := true }, badReg := [(5, 31, 0)] })
    RunsOn h0 [1] s ∧ s.core.seq.sup = true ∧ Sparse.canon BSlot.zero s.core.seq.bslots = true ∧ sysClean s 0x05F ∧
      Runs h0 bad ∧ bad.core.seq.sup = true ∧ ¬sysClean bad 0x05F ∧
      ∀ n ∈ [0x000, 0x00C, 0x040, 0x05F, 0x066, 0x068, 0x07F, 0x200, 0x3FF, 0x400, 0x47F], sysregOk (BitVec.ofNat 12 n) = true := by
  dsimp only [RunsOn, Runs, Acts, NoLoopEnds, RegsClean, sysClean]; repeat' apply And.intro
  all_goals decide +kernel

/-- Every vector word acts: with sources in registers and in the inflow queue, under a mask and without; a register word it reads
is poisoned; a check fails beside it. -/
theorem test_witness_vector_acts :
    let pay : Payload := ⟨0, none, 0, 0, 512, Store.empty, true⟩
    let s := withShape (shape 16 16) (onCore (fun k => { k with x := { k.x with inflow := [pay] } }))
    let f : VA := ⟨0, 0, 63, 0x40, 2, 3, 1, true, 0, 0, 0⟩
    let bad := withShape (shape 16 16) (onCore (fun k => { k with badReg := [(0, 2, 63)] }))
    let pipe := withShape (shape 16 16) (onCore (fun k => { k with ev := { k.ev with pipe := true } }))
    let g := { f with sa := 1 }
    VActs s f [f.sa, f.sb, f.sc] [widthOf f.ty] ∧ VActs s f [f.sa] [widthOf f.ty, 8] ∧ VActs s f [] [8] ∧
      VActs s { f with me := false } [f.sa] [8] ∧ EngActs s .v (vecRegs s [f.sa, f.sb] ++ [(2, f.sh.toNat)]) ∧ VinReady s true ∧
      (tileOk (shapeOf bad g) [widthOf g.ty] g.me = true ∧ intTy g.ty = true ∧ ¬RegsClean bad (vecRegs bad [g.sa, g.sb] ++ tileRegs g)) ∧
      (tileOk (shapeOf pipe g) [widthOf g.ty] g.me = true ∧ RegsClean pipe (vecRegs pipe [g.sa, g.sb] ++ tileRegs g) ∧ VinReady pipe false ∧
        pipe.core.ev.pipe = true) := by
  dsimp only [VActs, EngActs, RegsClean, VinReady]; repeat' apply And.intro
  all_goals first | decide +kernel | exact fun _ => ⟨_, _, rfl, by decide +kernel⟩ | exact fun h => absurd h (by decide +kernel)

/-- Every vector word of one register file: a legal tile at the largest size a type allows, an illegal one, a ready inflow queue. -/
theorem test_witness_tiles_legal :
    let sh := shape 4 128
    let pay : Payload := ⟨0, none, 0, 0, 512, Store.empty, true⟩
    let s := withShape sh (onCore (fun k => { k with x := { k.x with inflow := [pay] } }))
    let f : VA := ⟨0, 0, 63, 0x40, 2, 3, 1, true, 0, 0, 0⟩
    intTy f.ty = true ∧ f.dst.toNat < 64 ∧ tileOk (shapeOf s { f with me := false }) [8] false = true ∧
      tileOk (shapeOf s f) [8] true = false ∧ tileOk (shape 16 16) [8] true = true ∧ tileOk (shape 16 16) [16] true = true ∧
      tileOk (shape 8 16) [32] true = true ∧ tileOk (shape 0 1) [8] false = false ∧ tileOk (shape 1 513) [8] false = false ∧
      (∃ p r, s.core.x.inflow = p :: r ∧ p.data.poisoned 0 512 = false) := by
  dsimp only; repeat' apply And.intro
  all_goals first | decide +kernel | exact ⟨_, _, rfl, by decide +kernel⟩

/-- `VectorFloats`, `VectorConversions`: types of every class, an odd tile of 4-bit elements, whole and broken blocks. -/
theorem test_witness_conversions :
    (∀ t ∈ [3#4, 4#4, 5#4], floatTy t = true) ∧ (∀ t ∈ [6#4, 7#4, 8#4], narrowTy t = true) ∧
      (∀ t ∈ [0#4, 1#4, 2#4, 3#4, 4#4, 5#4, 6#4, 7#4, 8#4, 9#4], cvtTy t = true) ∧ floatTy 9 = false ∧ narrowTy 9 = false ∧
      widthOf 8 = 4 ∧ widthOf 9 = 4 ∧ tileE (shape 1 3) % 2 = 1 ∧ ¬tileE (shape 1 2) % 2 = 1 ∧
      tileOk (shape 1 128) [32] false = true ∧ tileE (shape 1 128) % 32 = 0 ∧ tileE (shape 1 33) % 32 ≠ 0 ∧
      shBlock (shape 1 32 + (6#512 <<< 160)) = 6 ∧ shBlock (shape 1 32) = 0 := by decide +kernel

/-- `ReductionsAndScans`, `PermutesFlagsAndRandom`: each axis; a slide by the whole tile and by one more; an even tile. -/
theorem test_witness_permutes :
    let s := withShape (shape 2 4) State.reset
    let f : VA := ⟨0, 0, 1, 2, 3, 0, 1, false, 0, 0, 8⟩
    f.dst.toNat < 64 ∧ tileOk (shapeOf s f) [widthOf f.ty] f.me = true ∧ tileOk (shapeOf s f) [widthOf f.ty] true = true ∧
      f.imm.toNat = tileE (shapeOf s f) ∧ tileE (shapeOf s f) < (9 : BitVec 32).toNat ∧ tileE (shapeOf s f) % 2 = 0 ∧
      runCount 0 2 4 = 2 ∧ runCount 1 2 4 = 4 ∧ runCount 2 2 4 = 1 ∧ (2 : BitVec 2) ≠ 3 ∧ s.core.x.flight = [] := by decide +kernel

/-- The tile of two bytes at near 0xFFFFE that the memory tests use: shape register 1 with two columns of `.i8`. -/
def vm0 (lvl : Bool) : State := withPart id (withShape (shape 1 2 + (lvl.toNat * 2 ^ 30 : Nat)) State.reset)

/-- `VectorMemory`, `VectorTraps`, `PoisonAndInflow`: the last near bytes, the first beyond, a misaligned element, a poisoned one,
a slot pending, die bytes in and out of range. -/
theorem test_witness_vm_near :
    let s := vm0 false
    let f : VM := ⟨0, 5, false, 0, 0x0FFFFE, 1, false, 0, false, 0, 0, 1, 0⟩
    EngActs s .v (vmRegs f) ∧ RegsClean s [(0, s.phys (s.supOf .v) f.reg.toNat)] ∧ RegsClean s [(1, (f.reg.setWidth 3 : BitVec 3).toNat)] ∧ vmOk f (s.seeSh 10 f.sh) = true ∧ f.reg.toNat < 64 ∧ f.lvl = false ∧ vmAddr s f 0 = 0xFFFFE ∧ vmAddr s f 1 + 1 = 2 ^ 20 ∧
      (∀ e, vmMoves s f e → vmAddr s f e % 1 = 0 ∧ vmAddr s f e + 1 ≤ 2 ^ 20 ∧ s.core.near.poisoned (vmAddr s f e) 1 = false ∧
        (slotsOf (vmAddr s f e) 1).any s.core.nearBusy = false) ∧ s.core.near.wf = true ∧ s.core.nearNews = [] := by
  have small : ∀ e, vmMoves (vm0 false) ⟨0, 5, false, 0, 0x0FFFFE, 1, false, 0, false, 0, 0, 1, 0⟩ e → e < 2 := fun e he =>
    lt_of_lt_of_eq he.1 (by decide +kernel)
  dsimp only [EngActs, RegsClean]; repeat' apply And.intro
  all_goals first
    | decide +kernel
    | intro e he; have h := small e he; interval_cases e <;> decide +kernel

theorem test_witness_vm_die :
    let s := vm0 true
    let f : VM := ⟨0, 5, false, 0, 4094, 1, false, 0, true, 1, 3, 1, 9⟩
    EngActs s .v (vmRegs f) ∧ RegsClean s [(0, s.phys (s.supOf .v) f.reg.toNat)] ∧ vmOk f (s.seeSh 10 f.sh) = true ∧ f.reg.toNat < 64 ∧ f.lvl = true ∧
      (∀ e, vmMoves s f e → vmAddr s f e % 1 = 0 ∧ s.dieOk (vmAddr s f e) 1 = true ∧
        (slotsOf (vmAddr s f e) 1).any s.core.diePendingOwn = false) := by
  have small : ∀ e, vmMoves (vm0 true) ⟨0, 5, false, 0, 4094, 1, false, 0, true, 1, 3, 1, 9⟩ e → e < 2 := fun e he =>
    lt_of_lt_of_eq he.1 (by decide +kernel)
  dsimp only [EngActs, RegsClean]; repeat' apply And.intro
  all_goals first
    | decide +kernel
    | intro e he; have h := small e he; interval_cases e <;> decide +kernel

/-- `VectorMemory`: a load and a store whose mask clears every element. -/
theorem test_witness_vm_none :
    let f : VM := ⟨0, 5, false, 0, 0x0FFFFE, 1, true, 0, false, 0, 0, 1, 0⟩
    ¬∃ e, vmMoves (vm0 false) f e := by
  rintro f ⟨e, he⟩
  have h : e < 2 := lt_of_lt_of_eq he.1 (by decide +kernel)
  interval_cases e <;> exact absurd he.2 (by decide +kernel)

theorem test_witness_vm_traps :
    let s := vm0 false
    let d := vm0 true
    let out : VM := ⟨0, 5, false, 0, 0x0FFFFF, 1, false, 0, false, 0, 0, 1, 0⟩
    let dout : VM := ⟨0, 5, false, 0, 0xFFFFFF, 1, false, 0, true, 0, 0, 1, 1⟩
    let w := withShape (shape 1 2 + (1#512 <<< 26)) State.reset
    let odd : VM := ⟨1, 5, false, 0, 1, 1, false, 0, false, 0, 0, 1, 0⟩
    let pend := withShape (shape 1 2) (onCore (fun k => { k with x := { k.x with accs := [{ acc0 with kind := .xch xch0 }] } }))
    let busy : VM := ⟨0, 5, false, 0, 4095, 1, false, 0, false, 0, 0, 1, 0⟩
    let bad := withShape (shape 1 2) (onCore (fun k => { k with near := { Store.empty with poison := [4096 / 8] } }))
    vmOk odd (s.seeSh 10 1) = false ∧
    (vmOk out (s.seeSh 10 1) = true ∧ vmMoves s out 1 ∧ vmAddr s out 0 + 1 = 2 ^ 20 ∧ 2 ^ 20 < vmAddr s out 1 + 1) ∧
    (vmOk dout (d.seeSh 10 1) = true ∧ vmMoves d dout 0 ∧ d.dieOk (vmAddr d dout 0) 1 = false) ∧
    (vmOk odd (w.seeSh 10 1) = true ∧ vmMoves w odd 0 ∧ vmAddr w odd 0 % 2 ≠ 0) ∧
    (vmOk busy (pend.seeSh 10 1) = true ∧ vmMoves pend busy 1 ∧ (slotsOf (vmAddr pend busy 0) 1).any pend.core.nearBusy = false ∧
      (slotsOf (vmAddr pend busy 1) 1).any pend.core.nearBusy = true) ∧
    (vmOk busy (bad.seeSh 10 1) = true ∧ vmMoves bad busy 1 ∧ bad.core.near.poisoned (vmAddr bad busy 0) 1 = false ∧
      bad.core.near.poisoned (vmAddr bad busy 1) 1 = true) ∧
    RegsClean s ((0, s.phys (s.supOf .v) odd.reg.toNat) :: vmRegs odd) ∧ RegsClean s [(1, (odd.reg.setWidth 3 : BitVec 3).toNat)] ∧
    bad.core.near.poisoned 4096 32 = true ∧ bad.core.near.poisoned (4096 - 256) 264 = true ∧ (4096 : Nat) % 32 = 0 := by
  dsimp only [vmMoves, RegsClean]; repeat' apply And.intro
  all_goals decide +kernel

/-- `PoisonAndInflow`: an empty and a poisoned inflow queue. -/
theorem test_witness_inflow :
    let pay : Payload := ⟨0, none, 0, 0, 512, { Store.empty with poison := [0] }, true⟩
    let s := withShape (shape 1 2) (onCore (fun k => { k with x := { k.x with inflow := [pay] } }))
    let f : VA := ⟨0, 0, 1, 0x40, 3, 4, 1, false, 0, 0, 0⟩
    State.reset.core.x.inflow = [] ∧ f.sa = 0x40 ∧ tileOk (shapeOf s f) [8] false = true ∧ tileOk (shapeOf s f) [8, 8] false = true ∧
      s.core.x.inflow = pay :: [] ∧ pay.data.poisoned 0 512 = true ∧ VinReady s false ∧ RegsClean s (vecRegs s [f.sa] ++ tileRegs f) ∧
      ¬RegsClean { s with core := { s.core with badReg := [(0, 3, 5)] } } (vecRegs s [3] ++ tileRegs f) := by
  dsimp only [RegsClean, VinReady]; repeat' apply And.intro
  all_goals first
    | decide +kernel
    | intro h; cases h

/-- `Quills`: a tile of 128 elements, both signs of the immediate's top bit, images at the ends of the near store and of a die slot,
pairs at the ends of their class. -/
theorem test_witness_quills :
    let s := withPart id (withShape (shape 8 16) State.reset)
    let f : VA := ⟨0, 3, 62, 3, 4, 0, 1, false, 0, 0, 0⟩
    let q : Quill := { dir := 1#2048 <<< 14, norm := 0 }
    tileOk (shapeOf s f) [32] false = true ∧ tileE (shapeOf s f) = 128 ∧ f.dst.toNat < 63 ∧ f.imm.msb = false ∧
      (0x80000000 : BitVec 32).msb = true ∧ (0x100000 - 264) % 8 = 0 ∧ 0x100000 - 264 + 264 = 2 ^ 20 ∧ 2 ^ 20 < 0x100000 - 256 + 264 ∧
      State.reset.core.near.poisoned (0x100000 - 264) 264 = false ∧ (slotsOf (0x100000 - 264) 264).any s.core.nearBusy = false ∧
      s.core.near.wf = true ∧ s.dieOk 0 264 = true ∧ s.dieOk (2 ^ 28 - 256) 264 = false ∧ (12 : Nat) % 8 ≠ 0 ∧
      (slotsOf 0 264).any s.core.diePendingOwn = false ∧ Quill.zero.ok = true ∧ q.ok = true ∧
      ({ Quill.zero with dir := 1 } : Quill).ok = false ∧ (List.replicate 128 (Fp.fin false 0xFFFFFF 104)).length = 128 ∧
      (0xFFFFFF : Nat) < 2 ^ 24 ∧ EngActs s .v (vecRegs s [f.sa] ++ [(2, f.sh.toNat)]) ∧ EngActs s .v [(3, 3), (3, 4)] ∧
      RegsClean s (vecRegs s [f.sb]) ∧ RegsClean s [(2, f.sh.toNat)] ∧ VinReady s false := by
  dsimp only [EngActs, RegsClean, VinReady]; repeat' apply And.intro
  all_goals first
    | decide +kernel
    | intro h; cases h

/-- The shape of a 128 x 128 weight load, a feed of `m` rows, and an epilogue, with format codes. -/
def mshape (wfmt afmt ofmt m : Nat) : BitVec 512 :=
  BitVec.ofNat 512 (128 + 128 * 2 ^ 13 + m * 2 ^ 112 + wfmt * 2 ^ 128 + afmt * 2 ^ 132 + ofmt * 2 ^ 136)

/-- The matrix tests' state. -/
def onMat (sh : BitVec 512) (f : Mat → Mat) : State := withShape sh (onCore (fun k => { k with mat := f k.mat }))

/-- `MatrixWords`: the last slot a load fits in, a feed of one row and of 128, an empty pipeline. -/
theorem test_witness_matrix :
    let s := onMat (mshape 0xB 0 0 128) (fun m => { m with wl := m.wl.set 0 { Latch.empty with full := true, fmt := 0xB } })
    let f : MC := ⟨false, false, false, 224, 0, 1, 0, 0⟩
    let sh := s.seeSh 10 f.sh
    (0xB, 2, 1) ∈ planeTable ∧ (0x0, 1, 1) ∈ actTable ∧ shReserved sh = false ∧ shRows sh = 128 ∧ shCols sh = 128 ∧ shWfmt sh = 0xB ∧
      ¬(f.sc = true ∧ shTrans sh = true) ∧ 4096 * (255 : BitVec 8).toNat + 2048 * 2 = 2 ^ 20 ∧ 4096 * f.ns.toNat + 2048 * 2 ≤ 2 ^ 20 ∧
      two s.core.mat.used f.wl = 0 ∧ s.core.near.poisoned (4096 * f.ns.toNat) 128 = false ∧ shAfmt sh = f.fmt ∧ shM sh = 128 ∧
      shM (mshape 0 0 0 1) = 1 ∧ shRowStride sh = 0 ∧
      (∀ r < shM sh, (0 : Int) ≤ 4096 * f.ns.toNat + r * 128 ∧ 4096 * f.ns.toNat + r * 128 + 128 ≤ (2 ^ 20 : Int)) ∧
      (s.core.mat.wl[f.wl.toNat]?.getD Latch.empty).full = true ∧ (s.core.mat.wl[f.wl.toNat]?.getD Latch.empty).fmt = 0xB ∧
      two s.core.mat.load f.wl = 0 ∧ s.core.mat.feed = 0 ∧ s.core.held f.at_ = false ∧ two s.core.mat.clr f.at_ = 0 ∧
      s.core.mat.badRow f.at_ 128 = false ∧ two s.core.mat.macc f.at_ = 0 ∧ s.core.nearBusy f.ns.toNat = false ∧
      s.core.x.flight = [] ∧ s.core.nearNews = [] ∧ EngActs s .m [(2, f.sh.toNat), (4, f.wl.toNat)] := by
  dsimp only [EngActs, RegsClean]; repeat' apply And.intro
  all_goals decide +kernel

/-- An MX feed, whose scales are read as well. -/
theorem test_witness_matrix_mx :
    let sh := mshape 0xE 0xF 0xF 1
    (0xE, 6, 6) ∈ planeTable ∧ (0xF, 1, 1) ∈ actTable ∧ shReserved sh = false ∧ shAfmt sh = 0xF ∧ mxTy 0xF = true ∧ shM sh = 1 ∧
      State.reset.core.near.poisoned (4096 * 9) 4 = false := by decide +kernel

/-- `MatrixEpilogue`: a scaled and biased binary32 row at the last near slot, its vectors just below it. -/
theorem test_witness_epilogue :
    let s := onMat (BitVec.ofNat 512 (1 + 128 * 2 ^ 13 + 0xFEC00 * 2 ^ 32 + 3 * 2 ^ 136 + 3 * 2 ^ 152)) id
    let f : MC := ⟨false, false, false, 255, 0, 1, 3, 0⟩
    let sh := s.seeSh 10 f.sh
    (0x3, 4) ∈ outTable ∧ mepiOk f sh = true ∧ shRows sh = 1 ∧ shRowStride sh = 0 ∧ (shEpi sh).getLsbD 0 = true ∧
      (shEpi sh).getLsbD 1 = true ∧ shBase sh % 4 = 0 ∧ shBase sh + 1024 ≤ 2 ^ 20 ∧ s.core.near.poisoned (shBase sh) 512 = false ∧
      s.core.near.poisoned (shBase sh + 512) 512 = false ∧ (4096 * 255 + 128 * 4 : Nat) ≤ 2 ^ 20 ∧
      (∀ n ∈ slotsOf (4096 * 255) 512, s.core.nearBusy n = false) ∧ two s.core.mat.macc f.at_ = 0 ∧ two s.core.mat.clr f.at_ = 0 ∧
      s.core.mat.badRow f.at_ 1 = false ∧ s.core.nearNews = [] ∧ EngActs s .m [(2, f.sh.toNat)] := by
  dsimp only [EngActs, RegsClean]; repeat' apply And.intro
  all_goals decide +kernel

/-- `MatrixTraps`: each fate. -/
theorem test_witness_matrix_traps :
    let sh := mshape 0xB 0 0 1
    let f : MC := ⟨false, false, false, 0, 0, 1, 0, 0⟩
    let lat : Latch := { Latch.empty with full := true, fmt := 0xB }
    let s := onMat sh (fun m => { m with used := m.used.set 0 1, feed := 1, wl := m.wl.set 0 lat, macc := m.macc.set 0 1 })
    let ld := onMat sh (fun m => { m with load := m.load.set 0 1 })
    let cl := onMat sh (fun m => { m with wl := m.wl.set 0 lat, clr := m.clr.set 0 1 })
    let hold : Hold := { tile := false, ord := 0, widx := 0, slots := [] }
    let r : Result := { strm := .m, ord := 0, widx := 0, due := 9, exact := false, raced := [], flags := 0, land := .near [] }
    let hd := withShape sh (onCore (fun k => { k with mat := { k.mat with holds := [hold], wl := k.mat.wl.set 0 lat }, x := { k.x with flight := [r] } }))
    let pend := onCore (fun k => { k with x := { k.x with accs := [{ acc0 with kind := .xch xch0 }] } })
    shRows (shape 1 128) ≠ 128 ∧ (∀ row ∈ planeTable, shWfmt (mshape 1 0 0 1) ≠ row.1) ∧ two s.core.mat.used f.wl ≠ 0 ∧
      2 ^ 20 < 4096 * (255 : BitVec 8).toNat + 2048 * 3 ∧ shAfmt sh ≠ 1 ∧ shM (mshape 0 0 0 0) = 0 ∧ 128 < shM (mshape 0 0 0 129) ∧
      shRowStride (sh + (64#512 <<< 64)) % 128 ≠ 0 ∧ ¬(4096 * 255 + 128 * (32 : Int) + 128 ≤ 2 ^ 20) ∧ shM sh = 1 ∧
      two ld.core.mat.load f.wl ≠ 0 ∧ (State.reset.core.mat.wl[0]?.getD Latch.empty).full = false ∧ s.core.mat.feed ≠ 0 ∧
      two s.core.mat.load f.wl = 0 ∧ (s.core.mat.wl[0]?.getD Latch.empty).full = true ∧ two cl.core.mat.clr f.at_ ≠ 0 ∧
      cl.core.held f.at_ = false ∧ cl.core.mat.feed = 0 ∧ hd.core.held f.at_ = true ∧ hd.core.mat.feed = 0 ∧ two hd.core.mat.load f.wl = 0 ∧
      two s.core.mat.macc f.at_ ≠ 0 ∧ s.core.held f.at_ = false ∧ pend.core.nearBusy 1 = true ∧ mepiOk f (mshape 0 0 1 1) = false ∧
      mepiOk f (sh + (64#512 <<< 64)) = true ∧ RegsClean s [(2, f.sh.toNat), (4, f.wl.toNat)] ∧
      ({ State.reset.core.mat with bad := [5] } : Mat).badRow false 1 = true ∧ (0x1, 2, 2) ∈ actTable ∧ (0x3, 4) ∈ outTable := by
  dsimp only [RegsClean]; repeat' apply And.intro
  all_goals decide +kernel

/-- `Exchanges`: an exchange of 16 blocks that fits the buffer's 32, and each thing that forbids one. -/
theorem test_witness_exchanges :
    let s := onX false 0 id
    let sv := onX true 0 id
    let full := onX false 0 (fun x => { x with wbs := [{ id := 0, homes := [], blocks := 17, sup := false, token := 0 }] })
    let half := onX false 0 (fun x => { x with wbs := [{ id := 0, homes := [], blocks := 16, sup := false, token := 0 }] })
    let pend := onX false 0 (fun x => { x with accs := [{ acc0 with kind := .xch xch0 }], nid := 1 })
    let late := onX false 0 (fun x => { x with nid := 1, accs :=
      [{ acc0 with due := some 10, foot := [{ sp := .near, addr := 0, len := 4096 }], reach := 1, kind := .land none 0 0 0x100000 8 }] })
    let tile := onCore (fun k => { k with mat := { k.mat with clr := k.mat.clr.set 0 1 } })
    let foot := s.xchFoot .nm [0] [0] 0
    s.supOf .x = false ∧ sv.supOf .x = true ∧ s.xchIn .nm 0 (2 ^ 40 - 16) 16 = true ∧ s.xchIn .nm 0 (2 ^ 40 - 15) 16 = false ∧
      s.xchIn .nd 0 0 1 = true ∧ s.xchIn .np 0 (2 ^ 50 - 1) 1 = true ∧ s.xchIn .np 0 (2 ^ 50) 1 = false ∧ s.xchIn .dm 0 0 1 = true ∧
      sv.xchIn .am 0 0 1 = true ∧ s.xchBusy .nm [0] [0] = false ∧ pend.xchBusy .nm [1] [0] = true ∧ 16 + half.core.buffered = Config.xchBufferBlocks ∧
      ¬(16 + full.core.buffered ≤ Config.xchBufferBlocks) ∧ tile.core.tileBusy (decide (32 ≤ 31)) = true ∧
      sv.core.tileBusy (decide (32 ≤ 63)) = false ∧ s.xord 0 foot 4 0 9 = false ∧ late.xord 0 foot 4 0 9 = true ∧
      late.xord 0 foot 4 0 10 = false ∧ s.core.ex.pipe = false ∧ sv.core.ex.pipe = false ∧ (s.kpar .x 0 + (0 : BitVec 16).signExtend 64).toNat = 0 := by
  dsimp only; repeat' apply And.intro
  all_goals decide +kernel

/-- `Messages`: a payload that ends at the end of the near store, one beyond, one off 8 bytes; descriptors good and bad; a slot pending,
a landing due later. -/
theorem test_witness_messages :
    let s := onX false 0 id
    let t := onX false 1 id
    let push := onX false 0x1000 id
    let pod := onX false 0x80200000 id
    let pend := onX false 0 (fun x => { x with accs := [{ acc0 with kind := .xch xch0 }], nid := 1 })
    let late := onX false 0 (fun x => { x with nid := 1, accs :=
      [{ acc0 with due := some 10, foot := [{ sp := .near, addr := 0, len := 8 }], reach := 1, kind := .land none 0 0 0x100000 8 }] })
    let foot : List Foot := [{ sp := .near, addr := 0, len := 8 }]
    ¬BadDescriptor s (s.kpar .x 0) false ∧ ¬BadDescriptor s (s.kpar .x 0) true ∧ BadDescriptor t (t.kpar .x 0) false ∧
      BadDescriptor push (push.kpar .x 0) true ∧ ¬BadDescriptor push (push.kpar .x 0) false ∧
      ¬BadDescriptor pod (pod.kpar .x 0) false ∧ BadDescriptor s 0x80000000 false ∧ BadDescriptor s 0x200 false ∧
      (0x0FFE00 : Nat) % 8 = 0 ∧ 0x0FFE00 + (512 : BitVec 10).toNat = 2 ^ 20 ∧ 2 ^ 20 < 0x0FFE08 + (512 : BitVec 10).toNat ∧ (4 : Nat) % 8 ≠ 0 ∧
      (slotsOf 4096 8).any s.core.nearBusy = false ∧ (slotsOf 4096 8).any pend.core.nearBusy = true ∧
      s.xord 0 foot 1 0 9 = false ∧ late.xord 0 foot 1 0 9 = true ∧ (slotsOf 0 8).any late.core.nearBusy = false ∧
      s.core.ex.pipe = false := by
  dsimp only [BadDescriptor]; repeat' apply And.intro
  all_goals decide +kernel

/-- `Atomics`: the last address in range and the first beyond, on the die and in main memory; misaligned, pending, marked, early. -/
theorem test_witness_atomics :
    let s := onX false 8 id
    let x : Xch := { xch0 with form := .nd, near := [9], far := [0] }
    let pend := onX false 8 (fun y => { y with accs := [{ acc0 with kind := .xch x }], nid := 1 })
    let late := onX false 8 (fun y => { y with nid := 1, accs :=
      [{ acc0 with due := some 10, foot := [{ sp := .near, addr := 64, len := 8 }], reach := 1, kind := .land none 0 0 0x100000 8 }] })
    let foot : List Foot := [{ sp := .die, addr := 8, len := 8 }, { sp := .near, addr := 64, len := 8 }]
    let f : XA := ⟨9, 3, 0, 1, 2, false, 0, 64, 0, 0, 1, 9, false⟩
    (atomTable f).length = 5 ∧ s.kpar .x f.ka = 8 ∧ (8 : Nat) % 8 = 0 ∧ s.dieOk 8 8 = true ∧ s.dieOk (2 ^ 28) 8 = false ∧
      (2 ^ 52 - 8 + 8 : Nat) ≤ 2 ^ 52 ∧ ¬(2 ^ 52 - 8 + 32 ≤ 2 ^ 52) ∧ (0xFFFF8 + 8 : Nat) ≤ 2 ^ 20 ∧ ¬(0x100000 + 8 ≤ 2 ^ 20) ∧
      (slotsOf 8 8).any s.core.diePendingOwn = false ∧ (slotsOf 8 8).any pend.core.diePendingOwn = true ∧
      (slotsOf 64 8).any s.core.nearBusy = false ∧ (slotsOf 36864 8).any pend.core.nearBusy = true ∧
      s.xord 1 foot (s.reachDie s.myMembersOn 8 8) 0 9 = false ∧ late.xord 1 foot (s.reachDie s.myMembersOn 8 8) 0 9 = true ∧
      (slotsOf 64 8).any late.core.nearBusy = false ∧ (12 : Nat) % 8 ≠ 0 ∧ s.core.ex.pipe = false := by
  dsimp only; repeat' apply And.intro
  all_goals decide +kernel

/-- `Sections`: an entry that may start, in a plane whose header is sound; one whose AFTER field is met by a retired section and one
whose is not; each reason to stay; a section that has ended, and one of each kind of work still under way. -/
theorem test_witness_sections :
    let q : QEntry := { QEntry.none with secno := 1 }
    let s := onCore (fun k => { k with cur := plane0, ex := { k.ex with queue := [q] } })
    let h : Header := s.core.cur.header 32
    let m : QEntry := { q with last := #v[some (0, 7), none, none] }
    let ret := onCore (fun k => { k with em := { k.em with retired := 1 }, ex := { k.ex with queue := [m] } })
    let r := section0 false (Vector.replicate 4 0)
    let run := onCore (fun k => { k with ex := { k.ex with run := some { r with next := 1 } } })
    let res : Result := { strm := .x, ord := 0, widx := 0, due := 3, exact := false, raced := [], flags := 0, land := .tlbAll }
    (s.focus 0).core.ex.queue = [q] ∧ s.core.frozen = false ∧ s.core.ex.run = none ∧ s.core.ex.gap = 0 ∧ s.core.seq.draining = false ∧
      q.fresh = false ∧ q.held = false ∧ q.failed = false ∧ s.core.seq.traps = [] ∧ s.core.cur.poisoned 24 8 = false ∧
      { plane0 with bad := [3] }.poisoned 24 8 = true ∧ h.faulty .x = false ∧ h.after1 = 0xFFF ∧
      h.after2 = 0xFFF ∧ { h with len := 0 }.faulty .x = true ∧ { h with rot := true }.faulty .x = true ∧ { h with rot := true }.faulty .v = false ∧
      m.last[engIdx .m]?.getD none = some (0, 7) ∧ 0 < (ret.core.eng .m).retired ∧ ¬(0 < (s.core.eng .m).retired) ∧
      (run.core.eng .x).run = some { r with next := 1 } ∧ r.hdr.len.toNat ≤ 1 ∧ ¬(r.hdr.len.toNat ≤ r.next) ∧ run.core.x.flight = [] ∧
      run.core.x.accs = [] ∧ res.strm = .x ∧ res.ord = (run.core.eng .x).retired := by
  dsimp only; repeat' apply And.intro
  all_goals decide +kernel

/-- `ResultsLand`: a result of each kind at its bound, one before it that may land and one that may not; a park entry listed, the
first beyond the buffer; two results that meet; a core in the wait that `bar.kill` ends. -/
theorem test_witness_landings :
    let s := flying [res0 0 true (.sreg false 1 7), res0 5 false (.mask 0 1 1), res0 5 true (.tileClear false)]
    let vw : VWrite := ⟨3, 8, 0xFF, 0x12⟩
    let lands : List Land := [.vec [vw], .shape 1 1 1, .quill 0 Quill.zero, .vflgClear 1, .near [(5, 1)], .tflgClear true, .tflgSet false 1,
      .latch true Latch.empty, .row false 127 [[1]] false false]
    let met := flying [{ res0 0 false (.sreg false 1 7) with raced := [.sreg false 1 9] }]
    let kinds := [Land.kill 5 3, .tlbVa 5 0, .tlbAsid 5, .tlbAll, .errclr 15, .park 191 1 true 31, .park 192 1 true 31]
    let kill := flying (kinds.map (res0 0 false))
    LandsNow (s.focus 0).core 0 (res0 0 true (.sreg false 1 7)) ∧ LandsNow (s.focus 0).core 1 (res0 5 false (.mask 0 1 1)) ∧
      ¬LandsNow (s.focus 0).core 2 (res0 5 true (.tileClear false)) ∧ (s.focus 0).core.x.flight[3]? = none ∧ (s.focus 0).core.x.flight[0]? = some (res0 0 true (.sreg false 1 7)) ∧
      regLand (.sreg false 1 7) = true ∧ (res0 5 false (.mask 0 1 1)).exact = false ∧ (res0 5 true (.tileClear false)).due ≠ 0 ∧
      (lands.filter regLand).length = 4 ∧ (lands.filter matLand).length = 5 ∧ Sparse.canon 0 s.core.mat.cells = true ∧
      ([vw].map VWrite.reg).Nodup ∧ s.core.near.wf = true ∧ (([(5, 1)] : List (Nat × Nat)).map Prod.fst).Nodup ∧
      LandsNow (met.focus 0).core 0 { res0 0 false (.sreg false 1 7) with raced := [.sreg false 1 9] } ∧
      (∀ e ∈ kinds.zipIdx, LandsNow (kill.focus 0).core e.2 (res0 0 false e.1)) ∧ kill.myDie < 4 ∧ (31 : BitVec 5) ≠ 0 := by
  intro s vw lands met kinds kill; repeat' with_reducible apply And.intro
  all_goals first
    | decide +kernel
    | exact landsNow_of_plain (by decide +kernel) (by decide +kernel) (by decide +kernel)
    | exact fun h => absurd h.2.1 (by decide +kernel)
    | exact fun e he => landsNow_of_plain
        ((by decide +kernel : ∀ e ∈ kinds.zipIdx, (kill.focus 0).core.x.flight[e.2]? = some (res0 0 false e.1)) e he) (Or.inl rfl)
        ((by decide +kernel : ∀ e ∈ kinds.zipIdx, plainRes (res0 0 false e.1) = true) e he)

theorem test_witness_park :
    let p : Parked := ⟨Home.near 7, 0, Store.empty⟩
    let w : BarWait := ⟨5, 3, none⟩
    let s : State := withPart id { onSeq (fun q => { q with frz := { Freeze.none with bar := some w } }) with
      dies := State.reset.dies.set 0 { Die.reset with recovery := [(191, p)] } }
    Sparse.find (s.die 0).recovery 191 = some p ∧ Sparse.find (s.die 0).recovery 0 = none ∧ (s.partOf 0).map Prod.fst = some s.partNum ∧
      groupOf 0 3 = groupOf s.here 3 ∧ s.core.seq.frz.bar = some w := by decide +kernel

/-- `AccessesLand`: a load, a landing of the right and of the wrong length and an atomic in their arrival cycles; one before its
cycle, without its data; the conflict's last tick and one before; credits 15 and 16. -/
theorem test_witness_accesses_land :
    let pc : Piece := ⟨8, 4, [1, 2, 3, 4], [], true, false⟩
    let ld : Acc := { acc0 with due := some 0, kind := .load [pc] (.sreg false 1) }
    let bad : Acc := { acc0 with due := some 0, kind := .load [{ pc with poisoned := true }] (.sreg false 1) }
    let vl : Acc := { acc0 with due := some 0, kind := .load [pc] (.vreg 3 32 [(0, 8, false)] 0xFFFFFFFF) }
    let ql : Acc := { acc0 with due := some 0, kind := .load [pc] (.quill 15) }
    let la : Acc := { acc0 with due := some 0, kind := .land none 1 2 0xFFFF8 8 }
    let at_ : Acc := { acc0 with due := some 0, kind := .atom ⟨0, 8, false, 0, 1, 0, .ok ⟨0, 0, false, true⟩, some 0xFFFF8, false, some 7, true⟩ }
    let pay : Payload := ⟨0, none, 1, 2, 8, Store.empty, false⟩
    let ok := fun (s : State) (a : Acc) => (s.focus 0).core.acc? 0 = some a ∧ a.due = some 0 ∧ s.core.present a = true ∧ s.core.paused a = false ∧
      s.core.seq.frz.lateOn = false ∧ a.raced = []
    ok (pending [ld] []) ld ∧ ok (pending [bad] []) bad ∧ [{ pc with poisoned := true }].find? Piece.poisoned ≠ none ∧
      [pc].find? Piece.poisoned = none ∧ ok (pending [vl] []) vl ∧ ok (pending [ql] []) ql ∧ ok (pending [la] [pay]) la ∧
      (pending [la] [pay]).core.claim la = some 0 ∧ pay.len = 8 ∧ ok (pending [la] [{ pay with len := 9 }]) la ∧
      (pending [la] [{ pay with len := 9 }]).core.claim la = some 0 ∧ ok (pending [at_] []) at_ ∧ (pending [at_] []).core.near.wf = true ∧
      (pending [la] []).core.present la = false ∧ State.reset.core.acc? 0 = none ∧ { ld with due := some 1 }.due ≠ some 0 ∧
      (pending [{ ld with sup := false }] []).core.seq.frz.lateOn = false := by
  dsimp only; repeat' apply And.intro
  all_goals decide +kernel

theorem test_witness_conflicts_and_credits :
    let z := fun (n : Nat) => onSeq (fun q => { q with frz := { Freeze.none with bankOn := true, bank := n } })
    let c := fun (n m : Nat) => withPart id (onCore (fun k => { k with x := { k.x with credits := n, credit := m } }))
    ((z 0).focus 0).core.seq.frz.bankOn = true ∧ ((z 0).focus 0).core.seq.frz.bank = 0 ∧ ((z 1).focus 0).core.seq.frz.bank ≠ 0 ∧
      (c 0 0).figures.mrate = 4 ∧ ((c 15 4).focus 0).core.x.credits < 16 ∧ 4 ≤ ((c 15 4).focus 0).core.x.credit ∧
      16 ≤ ((c 16 4).focus 0).core.x.credits ∧ ((c 15 3).focus 0).core.x.credit < 4 := by decide +kernel

/-- `AccessesPerform`: a load and a store of the last bytes of a beat; a slot marked by an exchange; a line with an entry. -/
theorem test_witness_accesses_perform :
    let p : Piece := ⟨120, 8, [1, 2, 3, 4, 5, 6, 7, 8], [255, 255, 255, 255, 255, 255, 255, 255], false, false⟩
    let ld : Acc := { acc0 with due := some 9, foot := [⟨.die, 120, 8⟩], kind := .load [p] (.sreg false 1) }
    let st : Acc := { acc0 with foot := [⟨.die, 120, 8⟩], kind := .store [p] }
    let x : Acc := { acc0 with id := 5, kind := .xch { xch0 with form := .nd, far := [0], arrived := true } }
    let s := fun (l : List Acc) => withPart id (pending l [])
    let en : Entry := ⟨false, (diePlace (s [st]).myMembersOn 120).2 / 128, 0, 8, [⟨0, 7, 120, 0, 1⟩], false⟩
    let line : State := { s [st] with entries := [en] }
    let far : Piece := { p with addr := 2 ^ 26 + 120 }
    let lost := { acc0 with kind := .store [far] }
    let two := onTwoDies (pending [lost] [])
    ((s [ld]).focus 0).core.acc? 0 = some ld ∧ ld.pieces[0]? = some p ∧ p.done = false ∧ (s [ld]).core.clearFor ld = true ∧
      (s [ld]).lineHeld false ((diePlace (s [ld]).myMembersOn 120).2 / 128) = false ∧ ((s [st]).focus 0).core.acc? 0 = some st ∧
      (s [st]).core.clearFor st = true ∧ (s [st]).dieMarked 0 = false ∧ p.data.length = p.len ∧ p.en.length = p.len ∧
      p.addr % 128 + p.len = 128 ∧ dieBlockOk (s [st]).myMembersOn 0 = true ∧ (s [st]).dieStore.wf = true ∧
      (s [st, x]).dieMarked 0 = true ∧ line.lineHeld false ((diePlace line.myMembersOn 120).2 / 128) = true ∧
      { p with done := true }.done = true ∧ (s [st]).fadOpen ((s [st]).pieceWay st p).1 ((s [st]).pieceWay st p).2 = true ∧
      (s [st]).linkFailed 0 0 = false ∧ two.pieceWay lost far = (0, 1) ∧ (cutLink two).linkFailed 0 1 = true ∧ two.linkFailed 0 1 = false ∧
      two.fadOpen 0 1 = false ∧ (withSlots two).fadOpen 0 1 = true := by
  dsimp only; repeat' apply And.intro
  all_goals decide +kernel

/-- A part that runs: every channel carries traffic, partition 3 holds the first two quads and owns slots. -/
def h7 : Home := Home.near 7
def running0 (s : State) : State :=
  withSlots (withPart id { s with chans := Vector.replicate 24 { Channel.off with state := 4 } })

/-- `AtomicsPerform`: an atomic of each space that may perform, one that merges, one at a closed or faulted translation. -/
theorem test_witness_atomics_perform :
    let l : Leaf := ⟨7, 0, true, true⟩
    let x : Atom := ⟨9, 8, true, 4088, 1, 2, .ok l, some 64, false, none, false⟩
    let y : Atom := ⟨7, 4, false, 124, 1, 0, .ok l, none, false, none, false⟩
    let a := fun (z : Atom) => ({ acc0 with kind := .atom z } : Acc)
    let s := fun (z : Atom) => running0 (pending [a z] [])
    let far : Atom := { y with addr := 2 ^ 26 }
    let two := onTwoDies (pending [a far] [])
    let full := running0 (pending [a x] [⟨0, none, 0, 0, 65536, Store.empty, false⟩])
    let rot : State := { s x with main := ⟨[], [(4096 * 7 + 4088) / 8]⟩ }
    let off := withPart id (pending [a x] [])
    let lock : State := { s x with locks := [⟨h7, 0, 3, 2⟩] }
    let mark := running0 (pending [a y, { acc0 with id := 5, kind := .xch { xch0 with form := .nd, far := [0], arrived := true } }] [])
    let line : State := { s x with entries := [⟨true, (4096 * 7 + 4088) / 128, 0, 8, [⟨0, 7, 4096 * 7 + 4088, 0, 1⟩], false⟩] }
    ((s x).focus 0).core.acc? 0 = some (a x) ∧ (a x).kind = .atom x ∧ x.old = none ∧ x.joined = false ∧ (s x).core.clearFor (a x) = true ∧
      x.xl = .ok l ∧ (s x).carries 7 = true ∧ (s x).locked h7 = false ∧ lock.locked h7 = true ∧ off.carries 7 = false ∧ off.broken 7 = false ∧
      { x with xl := .bad 6 3 }.xl = .bad 6 3 ∧ { x with xl := .wait }.xl = .wait ∧ y.dst = none ∧ y.aop ≤ 7 ∧ y.main = false ∧
      (s y).dieMarked 0 = false ∧ mark.dieMarked 0 = true ∧ (s x).lineHeld true ((4096 * 7 + 4088) / 128) = false ∧
      line.lineHeld true ((4096 * 7 + 4088) / 128) = true ∧ (4096 * 7 + 4088) % 8 = 0 ∧ (8 : Nat) ∣ 128 ∧ (32 : Nat) ∣ 128 ∧
      (s x).dieStore.wf = true ∧ (s x).main.wf = true ∧ Sparse.canon 0 (s x).seals = true ∧
      ((s x).atomRead true 0 (4096 * 7 + 4088) 8).2 = false ∧ (s x).core.landingRoom 8 = true ∧ full.core.landingRoom 8 = false ∧
      (rot.atomRead true 0 (4096 * 7 + 4088) 8).2 = true ∧ rot.chanOf (4096 * 7 / 4096) < 24 ∧ two.homeDie far.addr = 1 ∧
      (cutLink two).linkFailed (cutLink two).myDie 1 = true ∧ two.linkFailed two.myDie 1 = false ∧ two.fadOpen two.myDie 1 = false ∧
      (withSlots two).fadOpen two.myDie 1 = true ∧ (s y).fadOpen (s y).myDie ((s y).homeDie y.addr) = true ∧ cellOk 0 = true ∧ cellOk (2 ^ 20) = false := by
  dsimp only; repeat' apply And.intro
  all_goals decide +kernel

/-- `MergedEntries`: the oldest entry of a line, one behind it, one at a locked home. -/
theorem test_witness_merged :
    let m : Member := ⟨0, 0, 124, 0, 5⟩
    let e : Entry := ⟨false, 0, 0, 4, [m], false⟩
    let h : Entry := ⟨true, 32 * 7, 0, 4, [⟨0, 0, 4096 * 7, 0, 5⟩], false⟩
    let s : State := { running0 (pending [acc0] []) with entries := [e, e, h], locks := [⟨h7, 0, 3, 2⟩] }
    let rot : State := { s with dieStore := ⟨[], [15]⟩ }
    s.entries[0]? = some e ∧ KeysOk s ∧ (s.atomRead false 0 124 4).2 = false ∧ (rot.atomRead false 0 124 4).2 = true ∧ 124 / Config.shareBytes < 512 ∧
      Sparse.canon 0 s.seals = true ∧ (∀ x ∈ s.entries.take 0, ¬(x.main = e.main ∧ x.line = e.line)) ∧ m.addr / 128 = e.line ∧ m.addr % 4 = 0 ∧ m.v.toNat < 2 ^ 32 ∧
      (4 : Nat) ∣ 128 ∧ s.dieStore.wf = true ∧ s.main.wf = true ∧ s.entries[1]? = some e ∧ e ∈ s.entries.take 1 ∧
      s.entries[2]? = some h ∧ s.locked (Home.near (h.line / 32)) = true ∧ s.carries (h.line / 32) = true ∧ KeysOk s ∧ (∀ x ∈ s.entries.take 2, ¬(x.main = true ∧ x.line = h.line)) := by
  unfold KeysOk; dsimp only; repeat' apply And.intro
  all_goals decide +kernel

/-- `FarSides`: an exchange whose far side may arrive; each reason it waits or is abandoned; a write-back with a home on a failed
channel. -/
theorem test_witness_far :
    let l : Leaf := ⟨7, 0, true, true⟩
    let x : Xch := { xch0 with xl := [.ok l] }
    let a : Acc := { acc0 with kind := .xch x }
    let s := running0 (pending [a] [])
    let lock : State := { s with locks := [⟨h7, 0, 3, 2⟩] }
    let park : State := { s with parked := [(h7, 0)] }
    let off := withPart id (pending [a] [])
    let bad := withPart id { pending [a] [] with chans := Vector.replicate 24 { Channel.off with state := 7 } }
    let en : Entry := ⟨true, 32 * 7 + 31, 0, 8, [⟨0, 7, 4096 * 7 + 31 * 128, 0, 1⟩], false⟩
    let held : State := { s with entries := [en] }
    let bare : State := { s with chanTab := [] }
    let full := running0 (pending [a] [⟨0, none, 0, 0, 65536, Store.empty, false⟩])
    let nd : Xch := { xch0 with form := .nd, far := [16384], xl := [] }
    let two := onTwoDies (pending [{ acc0 with kind := .xch nd }] [])
    let np : Xch := { xch0 with form := .np, far := [7], pkg := 1, xl := [] }
    let mid := withPart id (pending [{ acc0 with kind := .store [⟨2 ^ 26, 8, [], [], true, false⟩, ⟨2 ^ 26 + 8, 8, [], [], false, false⟩] }] [])
    let w : WriteBack := ⟨4, [⟨h7, 0, Store.empty, 0⟩, ⟨⟨true, 9⟩, 0, Store.empty, 0⟩], 2, false, 0⟩
    let wb := fun (c : State) => ({ c with core := { c.core with x := { c.core.x with accs := [], wbs := [w] } } } : State)
    (s.focus 0).core.acc? 0 = some a ∧ a.kind = .xch x ∧ x.arrived = false ∧ s.core.placeClear a = true ∧ firstBad x.xl = none ∧
      leavesOf x.xl = some [l] ∧ twice (s.xchHomes x [l]) = false ∧ twice (s.xchHomes x [l, l]) = true ∧ s.xchHomes x [l] = [(h7, 0)] ∧ s.xchCut x [l] = none ∧
      bad.xchCut x [l] = some (0x21, 4096 * 7) ∧ s.hasSlot s.partNum 7 = true ∧ bare.hasSlot bare.partNum 7 = false ∧ s.core.landingRoom 4096 = true ∧
      full.core.landingRoom 4096 = false ∧ nd.dieAt = some 1 ∧ two.xchCut nd [] = none ∧ two.fadOpen 1 two.myDie = false ∧
      (cutLink two).xchCut nd [] = some (0x30, 0) ∧ (cutLink two).chanOf 7 < 24 ∧ mid.core.midBeat 16384 = true ∧ twice (s.xchHomes np []) = false ∧
      s.core.midBeat 0 = false ∧ s.locked h7 = false ∧ s.carries 7 = true ∧ s.broken 7 = false ∧
      (∀ e ∈ s.xchLines x [l], s.lineHeld e.1 e.2 = false) ∧ (true, 32 * 7 + 31) ∈ held.xchLines x [l] ∧
      held.lineHeld true (32 * 7 + 31) = true ∧ lock.locked h7 = true ∧ park.isParked h7 = true ∧ s.isParked h7 = false ∧ a.sup = false ∧
      off.carries 7 = false ∧ off.broken 7 = false ∧ bad.broken 7 = true ∧ firstBad [.ok l, .bad 7 1] = some (1, 7, 1) ∧
      leavesOf [.wait] = none ∧ firstBad [.wait] = none ∧ x.dies = [] ∧ (wb bad).core.acc? 4 = none ∧ (wb bad).core.wb? 4 = some w ∧
      (wb bad).myDie < 4 ∧ (w.homes.map HomeWrite.home).Nodup ∧ ((wb bad).die 0).recovery = [] ∧ w.homes.length ≤ 32 ∧ (wb bad).broken 7 = true ∧
      (wb s).core.wb? 4 = some w ∧
      (∀ h ∈ w.homes, h.home.pod = true ∨ (wb s).carries h.home.pbn = true ∧ (wb s).hasSlot (wb s).partNum h.home.pbn = true) ∧ (wb s).keyIdent 0 ≠ none ∧ Store.empty.wf = true ∧
      (wb s).main.wf = true ∧ (wb s).remote.wf = true ∧ Sparse.canon 0 (wb s).seals = true ∧ (wb off).carries 7 = false := by
  dsimp only; repeat' apply And.intro
  all_goals decide +kernel

theorem test_witness_paths :
    let s := fun (k : AccKind) => (pending [{ acc0 with kind := k }] []).focus 0
    let p : Piece := ⟨8, 4, [0, 0, 0, 0], [], false, false⟩
    State.reset.core.acc? 0 = none ∧ State.reset.core.wb? 0 = none ∧
      (s (.send none 1 2 Store.empty 512)).core.acc? 0 = some { acc0 with kind := .send none 1 2 Store.empty 512 } ∧
      (s (.push none 1 Store.empty 512)).core.acc? 0 = some { acc0 with kind := .push none 1 Store.empty 512 } ∧
      (s (.store [p])).core.acc? 0 = some { acc0 with kind := .store [p] } ∧ acc0.due = none ∧
      (∀ x ∈ [xch0, { xch0 with form := .np, xl := [] }, { xch0 with form := .nd, xl := [] }, { xch0 with arrived := true }, { xch0 with xl := [.ok ⟨7, 0, true, true⟩] }],
        (s (.xch x)).core.acc? 0 = some { acc0 with kind := .xch x }) ∧ Xch.dies { xch0 with form := .nd, xl := [] } ≠ [] ∧
      (s (.xch xch0)).myDie < 4 ∧ leavesOf [.ok ⟨7, 0, true, true⟩] = some [⟨7, 0, true, true⟩] ∧
      (s (.atom ⟨9, 8, true, 8, 1, 2, .wait, some 64, false, none, false⟩)).core.acc? 0 =
        some { acc0 with kind := .atom ⟨9, 8, true, 8, 1, 2, .wait, some 64, false, none, false⟩ } ∧
      (s (.load [p] (.sreg false 1))).core.acc? 0 = some { acc0 with kind := .load [p] (.sreg false 1) } := by decide +kernel

/-- `ExchangesEnd`: an exchange of each form ready to commit; one before its cycle and one without its data. -/
theorem test_witness_commit :
    let b : Store := Store.empty.write 5 [1]
    let x := fun (f : Form) => ({ xch0 with form := f, far := [0], arrived := true, inn := [b], out := [b], xl := [.ok ⟨7, 0, true, true⟩] } : Xch)
    let a := fun (f : Form) => ({ acc0 with due := some 0, kind := .xch (x f) } : Acc)
    let s := fun (f : Form) => running0 (pending [a f] [])
    (∀ f ∈ [Form.nd, .nm, .dm, .np, .am], ((s f).focus 0).core.acc? 0 = some (a f) ∧ (a f).due = some 0 ∧ (x f).arrived = true ∧
      (s f).core.clearFor (a f) = true ∧ (s f).core.paused (a f) = false ∧ (s f).core.seq.frz.lateOn = false ∧
      (x f).inn.length = (x f).near.length ∧ (x f).out.length = (x f).far.length ∧ (∀ m ∈ (x f).inn ++ (x f).out, m.wf = true) ∧
      (x f).near.Nodup ∧ (x f).far.Nodup ∧ (∀ n ∈ (x f).near, n < 64 ∧ dieBlockOk (s f).myMembersOn n = true) ∧
      (∀ n ∈ (x f).far, dieBlockOk (s f).myMembersOn n = true) ∧ (s f).core.near.wf = true ∧ (s f).dieStore.wf = true ∧
      Sparse.canon 0 (s f).core.mat.cells = true) ∧ { x .nm with arrived := false }.arrived = false ∧ (0 < 65536) := by
  dsimp only; repeat' apply And.intro
  all_goals decide +kernel

/-- `PayloadsAndFrames`: a payload that fills the landing buffer to its last byte and one beyond, a full inflow queue, a switched-out
share, an abandoned landing, an ended share; a frame in turn and out of turn; the retransmission that is due, the ninth, and one not due. -/
theorem test_witness_payloads :
    let snd : Acc := { acc0 with kind := .send none 0 2 Store.empty 512 }
    let psh : Acc := { acc0 with kind := .push none 0 Store.empty 512 }
    let on := fun (a : Acc) (f : Share → Share) (g : XEng → XEng) =>
      withPart id (onCore (fun k => { k with share := f { k.share with phase := .running, launch := 1 }, x := g { k.x with accs := [a] } }))
    let pay := fun (n : Nat) => ({ launch := 1, pkg := none, src := 0, tag := 0, len := n, data := Store.empty, push := false } : Payload)
    let k := fun (s : State) => s.coreAt (s.coreOf s.partNum 0)
    let s := on snd id (fun x => { x with landing := [pay (65536 - 512)] })
    (s.focus 0).core.acc? 0 = some snd ∧ KeysOk s ∧ s.core.clearFor snd = true ∧ s.oldest snd = true ∧ (k s).holds 1 = true ∧
      (k s).accepts 1 = true ∧ payBytes (k s).x.landing + ((k s).x.accs.map Acc.landed).sum + 512 = 65536 ∧
      65536 < payBytes (k (on snd id (fun x => { x with landing := [pay (65537 - 512)] }))).x.landing + 512 ∧
      (k (on psh id (fun x => { x with inflow := List.replicate 7 (pay 512) }))).x.inflow.length < 8 ∧
      ¬((k (on psh id (fun x => { x with inflow := List.replicate 8 (pay 512) }))).x.inflow.length < 8) ∧
      (k (on snd (fun z => { z with ctx := some 9 }) id)).accepts 1 = false ∧ (k (on snd (fun z => { z with ctx := some 9 }) id)).holds 1 = true ∧
      (k (on snd (fun z => { z with phase := .done }) id)).holds 1 = false ∧
      (1, none, 0, 2) ∈ (k (on snd id (fun x => { x with voids := [(1, none, 0, 2)] }))).x.voids ∧
      payBytes (((s.die 0)).hold.map Held.pay) + 512 ≤ 262144 ∧ s.podSent 0 = false ∧ s.pushWaits 0 = false ∧
      (on psh id (fun x => { x with waiting := [(some (0, 0), pay 512)] })).pushWaits 0 = true ∧
      (k (on psh id (fun x => { x with waiting := [(none, pay 512)] }))).x.waiting ≠ [] ∧ (∀ h ∈ (s.die 0).hold, h.core ≠ s.coreOf s.partNum 0) ∧
      s.fadOpen s.myDie (dieOf (s.coreOf s.partNum 0)) = true ∧ (cutLink (onTwoDies s)).linkFailed s.myDie (dieOf ((onTwoDies s).coreOf 3 128)) = true ∧
      (onTwoDies s).linkFailed s.myDie 1 = false ∧ (onTwoDies s).fadOpen s.myDie 1 = false ∧ (withSlots (onTwoDies s)).fadOpen s.myDie 1 = true ∧
      s.coreOf s.partNum 0 < 512 ∧
      (on { snd with after := [1] } id (fun x => { x with accs := { acc0 with id := 1 } :: x.accs })).core.clearFor { snd with after := [1] } = false := by
  unfold KeysOk; dsimp only; repeat' apply And.intro
  all_goals decide +kernel

theorem test_witness_frames :
    let fr : PodFrame := ⟨1, 0, .send 3 0 2 1 [1, 2] [0]⟩
    let s := withPart id (onCore (fun k => { k with share := { k.share with phase := .running, launch := 1 } }))
    let p := fun (n age : Nat) => ({ s with peers := [⟨1, 1, 0, [(fr, 0, 9, n, age)]⟩] } : State)
    let pay : Payload := ⟨1, none, 0, 0, 65536, Store.empty, false⟩
    let q : State := { s with core := { s.core with x := { s.core.x with landing := [pay], inflow := List.replicate 8 pay } } }
    let bo : BarObj := podBar 3 5
    KeysOk s ∧ fr.seq = (s.peer fr.pkg).expect ∧ { fr with seq := 1 }.seq ≠ (s.peer fr.pkg).expect ∧ s.podCore 3 0 = some 0 ∧ s.podCore 3 8 = none ∧
      s.podCore 4 0 = none ∧ (s.coreAt 0).holds 1 = true ∧ (s.coreAt 0).accepts 1 = true ∧ (1, some 1, 2, 1) ∉ (s.coreAt 0).x.voids ∧
      (s.coreAt 0).landingUsed + 2 ≤ 65536 ∧ ¬((q.coreAt 0).landingUsed + 2 ≤ 65536) ∧ (s.coreAt 0).x.waiting = [] ∧
      (s.coreAt 0).x.inflow.length < 8 ∧ ¬((q.coreAt 0).x.inflow.length < 8) ∧ s.behind 0 (s.podPayload 0 1 2 1 [1, 2] [0] false) = false ∧
      s.platOf 512 / 2 ≤ 65536 ∧ ((p 0 50).peer 1).unacked = (fr, 0, 9, 0, 50) :: [] ∧ ((p 0 50).focus 0).figures.plat / 2 = 50 ∧
      ¬(((p 0 49).focus 0).figures.plat / 2 ≤ 49) ∧ ((p 7 50).peer 1).unacked = (fr, 0, 9, 7, 50) :: [] ∧ (8 : Nat) ≤ 8 ∧ (s.peer 1).unacked = [] ∧
      s.barriers.find? (fun y => y.same bo) = none ∧ ({ s with barriers := [bo] } : State).barriers.find? (fun y => y.same bo) = some bo := by
  unfold KeysOk; dsimp only; repeat' apply And.intro
  all_goals decide +kernel

/-- No ring of the one partition records. -/
theorem noRings (f : Part → Part) (s : State) (h : (f (Part.fresh (desc0 0 2) 0)).tren = false) : NoRings (withPart f s) := by
  intro p x hx
  simp only [State.part?, withPart, Sparse.find] at hx
  split at hx
  · cases hx; exact h
  · split at hx <;> cases hx

/-- Page tables: words of 8 bytes by physical address, under the table key, and a key slot bound to partition 3. -/
def tables (l : List (Nat × Nat)) : State :=
  running0 { State.reset with
    main := l.foldl (fun m e => m.write e.1 (bytesOfNat 8 e.2)) Store.empty
    keys := [(0, ⟨0, none⟩), (1, ⟨0, some 3⟩)] }

/-- Pointers down to a table at 0x40000 of level 3. -/
def ptrs : List (Nat × Nat) := [(4096, 0x20001), (0x20000, 0x30001), (0x30000, 0x40001)]

/-- A leaf under key slot 1 with W and AT. -/
def leaf0 (a : Nat) : Nat := a + 27 + 2 ^ 49

def entry0 (s : State) (a : Nat) : Word := BitVec.ofNat 64 (natOfBytes (s.mainRead 0 a 8).1)

/-- `WalkFollowsTables`: pointers to every level; a leaf of level 3 and one of level 1; each fault at its level. -/
theorem test_witness_walk :
    let s := tables (ptrs ++ [(0x40000, leaf0 0x50000)])
    let ptr := fun (a n : Nat) => (s.mainRead 0 a 8).2 = false ∧ entry0 s a &&& 0xF0010000000000E7 = 1 ∧ (entry0 s a).extractLsb' 49 11 = 0 ∧
      (entry0 s a).getLsbD 3 = false ∧ (entry0 s a).getLsbD 4 = false ∧ 256 * ((entry0 s a).extractLsb' 8 40).toNat = n
    s.part? 3 = some (Part.fresh (desc0 0 2) 0) ∧ s.part? 4 = none ∧ (desc0 0 2).bindings.find? (fun b => b.asid == 5) = some ⟨5, 4096, 0, true⟩ ∧
      (desc0 0 2).bindings.find? (fun b => b.asid == 6) = none ∧ ptr 4096 0x20000 ∧ ptr 0x20000 0x30000 ∧ ptr 0x30000 0x40000 ∧
      inWindow (desc0 0 2) 4096 65536 = true ∧ inWindow (desc0 0 2) 0x40000 256 = true ∧ inWindow (desc0 0 2) 0x50000 65536 = true ∧
      entry0 s 0x40000 &&& 0xF0010000000000E7 = 3 ∧ Sparse.find s.keys 1 = some ⟨0, some 3⟩ ∧
      s.walk 3 5 0 = .ok (BitVec.ofNat 64 (leaf0 0x50000), 3) ∧ s.walk 4 5 0 = .error (6, 0) ∧ s.walk 3 6 0 = .error (6, 0) ∧
      (tables (ptrs.take 1 ++ [(0x20000, leaf0 0)])).walk 3 5 0 = .error (4, 1) := by
  dsimp only; repeat' apply And.intro
  all_goals decide +kernel

/-- `PodFrames`: another package's exchange of a block here, open, locked and untranslated; its block coming home; the data and the
fault of an exchange of this core at another package; an acknowledgement that covers one frame of two. -/
theorem test_witness_pod_exchange :
    let s := tables (ptrs ++ [(0x40000, leaf0 0x50000)])
    let h := Home.near 0x50
    let lock : State := { s with locks := [⟨h, 1, 513, 9⟩] }
    let back : HomeWrite := ⟨h, 1, Store.empty, 0⟩
    let x : Xch := { xch0 with form := .np, pkg := 1, xl := [] }
    let a : Acc := { acc0 with id := 2, kind := .xch x }
    let u := running0 (pending [a] [])
    let full := running0 (pending [a] [⟨0, none, 0, 0, 65536, Store.empty, false⟩])
    let fr := fun (n : Nat) => (⟨0, n, .drop 0⟩ : PodFrame)
    let p : Peer := ⟨1, 2, 0, [(fr 0, 0, 4, 0, 0), (fr 1, 0, 5, 0, 0)]⟩
    s.podLeaves 3 [0] 0 = .ok [(h, 1)] ∧ ([(h, (1 : BitVec 11))].map Prod.fst).Nodup ∧ s.podOpen 3 h = true ∧ lock.podOpen 3 h = false ∧
      (tables []).podLeaves 3 [0] 0 = .error (0, 1, 0) ∧ lock.podLocks 1 9 = [⟨h, 1, 513, 9⟩] ∧ lock.carries h.pbn = true ∧
      lock.homeCut back = false ∧ lock.keyIdent 1 ≠ none ∧ lock.main.wf = true ∧ Sparse.canon 0 lock.seals = true ∧
      (u.coreAt ((2 * 512) % 512)).acc? ((2 * 512) / 512) = some a ∧ x.form = .np ∧ x.pkg = 1 ∧ x.arrived = false ∧
      (u.focus 0).mayArriveX a x = true ∧ (full.focus 0).mayArriveX a x = false ∧
      ({ s with peers := [p] } : State).peer 1 = p ∧ (0 : Nat) < 1 ∧
      (∀ w ∈ p.unacked, 1 ≤ w.1.seq → ¬(w.2.1 = 0 ∧ w.2.2.1 = 4)) := by
  dsimp only; repeat' apply And.intro
  all_goals decide +kernel

theorem test_witness_walk_faults :
    let w := fun (l : List (Nat × Nat)) => (tables l).walk 3 5 0
    inWindow (desc0 0 2) (2 ^ 20) 4096 = false ∧ w [(4096, 0x100001)] = .error (4, 1) ∧ w [(4096, 0)] = .error (1, 0) ∧ w [(4096, 5)] = .error (3, 0) ∧
      w [(4096, 3)] = .error (2, 0) ∧ w (ptrs.take 1 ++ [(0x20000, leaf0 0x10000)]) = .error (5, 1) ∧
      w (ptrs ++ [(0x40000, 3)]) = .error (0x13, 3) ∧ w (ptrs ++ [(0x40000, 1)]) = .error (2, 3) ∧ w [(4096, 9)] = .error (3, 0) ∧
      w [(4096, 0x20101)] = .error (5, 0) ∧ (tables ptrs).part? 3 ≠ none ∧
      ({ tables ptrs with main := ⟨[], [512]⟩ } : State).walk 3 5 0 = .error (0x13, 0) ∧
      ({ tables ptrs with parked := [(Home.near 1, 0)] } : State).walk 3 5 0 = .error (0x13, 0) ∧
      ({ tables ptrs with chans := Vector.replicate 24 { Channel.off with state := 7 } } : State).walk 3 5 0 = .error (0x13, 0) := by
  dsimp only; repeat' apply And.intro
  all_goals decide +kernel

/-- `WalksFinish`: an atomic's walk at the head of die 0's queue: translated, blocked by a locked table, kept by an entry on a
table's line, faulting, of an access gone; and a queue that it does not head. -/
theorem test_witness_walks :
    let x : Atom := ⟨9, 8, true, 8, 1, 2, .wait, some 64, false, none, false⟩
    let a : Acc := { acc0 with foot := [⟨.main 5, 8, 8⟩], kind := .atom x }
    let s := fun (l : List (Nat × Nat)) => (fun (t : State) => ({ t with core := { t.core with x := { t.core.x with accs := [a] } } } : State))
      { tables l with dies := (tables l).dies.set 0 { Die.reset with walks := [(0, 0, 0)] } }
    let good := s (ptrs ++ [(0x40000, leaf0 0x50000)])
    let lock : State := { good with locks := [⟨Home.near 1, 0, 3, 2⟩] }
    let held : State := { good with entries := [⟨true, 32, 0, 8, [⟨0, 7, 4096, 0, 1⟩], false⟩] }
    let dark : State := { good with chans := Vector.replicate 24 Channel.off }
    let gone : State := { good with core := { good.core with x := { good.core.x with accs := [] } } }
    (good.die 0).walks.head? = some (0, 0, 0) ∧ (State.reset.die 0).walks.head? ≠ some (0, 0, 0) ∧ KeysOk good ∧
      (good.partOf 0).map Prod.fst = some 3 ∧ good.walkWants (0, 0, 0) = some (5, 8, .atomic) ∧ good.walkBlocked 3 5 8 = false ∧
      lock.walkBlocked 3 5 8 = true ∧ 4096 ∈ held.walkReads 3 5 8 ∧ held.walkBlocked 3 5 8 = false ∧ held.lineHeld true (4096 / 128) = true ∧
      (∀ a ∈ good.walkReads 3 5 8, good.lineHeld true (a / 128) = false) ∧ good.walk 3 5 8 = .ok (BitVec.ofNat 64 (leaf0 0x50000), 3) ∧
      (s []).walk 3 5 8 = .error (1, 0) ∧ gone.walkWants (0, 0, 0) = none ∧ lock.locked (Home.near (4096 / 4096)) = true ∧
      4096 ∈ good.walkReads 3 5 8 ∧ dark.carries 1 = false ∧ dark.broken 1 = false ∧ (good.partOf 0).isSome = true := by
  unfold KeysOk; dsimp only; repeat' apply And.intro
  all_goals decide +kernel

/-- `BeaconsTravel`: a beacon due and one not, a message as old as its journey, from a die whose link failed and one whose did not, a
silence of 512 ticks. -/
theorem test_witness_beacons :
    let d : Die := { Die.reset with tick := 64, beaconed := false, side := [(.beacon 1 32, 38)], silent := #v[0, 512, 0, 0] }
    let s : State := { State.reset with dies := State.reset.dies.set 0 d }
    let f : State := { s with dies := s.dies.set 0 { d with failed := 2 } }
    (s.die 0).beaconed = false ∧ (s.die 0).tick.toNat % 32 = 0 ∧ (State.reset.die 0).beaconed = true ∧ (s.die 0).failed.getLsbD 1 = false ∧
      (s.die 1).warm = true ∧ (f.die 0).failed.getLsbD 1 = true ∧ (s.die 0).side[0]? = some (.beacon 1 32, 38) ∧
      512 ≤ (s.die 0).silent[1]?.getD 0 ∧ (38 : Nat) ≤ 38 := by
  dsimp only; repeat' apply And.intro
  all_goals decide +kernel

/-- `AlignmentEnds`: a core frozen over the package, its die's release due and not; a release received and one from a die behind a
failed link; an exit tick that has come and one that has not; a freeze of a core alone, at its target and before it. -/
theorem test_witness_alignment :
    let at_ := fun (sc : BitVec 3) (tick : Word) (rels : List Release) (fail : BitVec 4) =>
      (fun (t : State) => ({ t with dies := t.dies.set 0 { Die.reset with tick := tick, rels := rels, failed := fail, side := [(.release 1 3 100 , 38)] } } : State))
        (withPart id (onSeq (fun q => { q with frz := { q.frz with align := some (sc, 100) } })))
    let s := at_ 4 100 [] 0
    KeysOk s ∧ NoRings s ∧ (s.focus 0).core.inAlign = some (4, 100) ∧ (s.focus 0).myPart = some (3, Part.fresh (desc0 0 2) 0) ∧ (100 : Word) ≤ s.tick ∧ (s.die 0).tick = 100 ∧
      (∀ e < 4, e ≠ s.myDie → s.membersOn (Part.fresh (desc0 0 2) 0) e = []) ∧ (s.die 0).rels = [] ∧ s.myDie < 4 ∧
      ¬((100 : Word) ≤ (at_ 4 99 [] 0).tick) ∧ (s.die 0).side[0]? = some (.release 1 3 100, 38) ∧ (s.die 0).failed.getLsbD 1 = false ∧
      ((at_ 4 100 [] 2).die 0).failed.getLsbD 1 = true ∧ AlignedAt s 0 3 0 100 ∧
      ((at_ 4 140 [⟨3, 100, some 140⟩] 0).die 0).rels = [⟨3, 100, some 140⟩] ∧ AlignedAt (at_ 4 140 [⟨3, 100, some 140⟩] 0) 0 3 0 100 ∧
      ((at_ 4 140 [⟨3, 100, some 140⟩] 0).die 0).tick = 140 ∧ ((at_ 0 100 [] 0).focus 0).core.inAlign = some (0, 100) ∧
      (at_ 0 99 [] 0).tick < 100 ∧ ((State.reset).focus 0).core.inAlign = none := by
  unfold KeysOk AlignedAt; dsimp only
  refine ⟨?_, ?_, ?_⟩
  · decide +kernel
  · intro p x hx
    exact noRings id (onSeq (fun q => { q with frz := { q.frz with align := some (4, 100) } })) rfl p x hx
  · repeat' apply And.intro
    all_goals decide +kernel

/-- `AlignmentEnds`: no core of a partition without cores meets an exit tick. -/
theorem test_witness_no_exit : ∀ k, ¬∃ g, AlignedAt State.reset 0 3 k g ∧ ∃ r ∈ (State.reset.die 0).rels, r.part = 3 := by
  intro k ⟨g, _, r, hr, _⟩
  have h : (State.reset.die 0).rels = [] := by decide +kernel
  rw [h] at hr
  cases hr

/-- `BarrierGenerations`: an arrival that opens a generation, one that completes it, a mixed one, one over the pod; one held back. -/
theorem test_witness_arrivals :
    let a := fun (sc : BitVec 3) (n : BitVec 20) (fn : Option (BitVec 3)) => ({ acc0 with kind := .arrive 9 sc n fn 7 } : Acc)
    let b : BarObj := ⟨3, 9, 2, 0, [⟨1, 0, false, 2, some 0, 5⟩]⟩
    let s := fun (x : Acc) (l : List BarObj) => ({ withPart id (pending [x] []) with barriers := l, peers := [⟨1, 0, 0, []⟩] } : State)
    let u := fun (x : Acc) (l : List BarObj) => (s x l).focus 0
    let fresh : BarObj := ⟨3, 9, 2, groupOf 0 2, []⟩
    (u (a 2 2 none) []).core.acc? 0 = some (a 2 2 none) ∧ (u (a 2 2 none) []).core.clearFor (a 2 2 none) = true ∧
      (u (a 2 2 none) []).barriers.find? (fun y => y.same fresh) = none ∧ (fresh.got ++ [(⟨0, 0, false, 2, none, 7⟩ : Arrival)]).length < (2 : BitVec 20).toNat ∧
      (u (a 2 2 (some 0)) [b]).barriers.find? (fun y => y.same fresh) = some b ∧ ((b.got.head?.map Arrival.c).getD 0).toNat ≤ (b.got ++ [(⟨0, 0, false, 2, some 0, 7⟩ : Arrival)]).length ∧
      (u (a 2 3 (some 1)) [b]).core.acc? 0 = some (a 2 3 (some 1)) ∧ some (3 : BitVec 20) ≠ b.got.head?.map Arrival.c ∧ (0 : BitVec 3) ≠ 1 ∧
      (u (a 5 2 none) []).core.clearFor (a 5 2 none) = true ∧ ((u (a 5 2 none) []).peers.map Peer.pkg).Nodup ∧
      (pending [{ acc0 with id := 1 }, { a 2 2 none with after := [1] }] []).core.clearFor { a 2 2 none with after := [1] } = false := by
  dsimp only; repeat' apply And.intro
  all_goals decide +kernel

/-- `BarrierGenerations`: a completion for a core that waits for it, one that waits for another, a mixed one, a slot already done. -/
theorem test_witness_completions :
    let m := fun (bad : Bool) => (⟨0, 0, false, 9, 2, some 5, bad, 0⟩ : BarMsg)
    let s := fun (w : Option BarWait) (bad : Bool) => ({ onCore (fun k => { k with
      share := { k.share with phase := .running },
      seq := { k.seq with sen := true, bslots := [(9, ⟨2, 2, true, false⟩)], frz := { k.seq.frz with bar := w } } }) with barMsgs := [m bad] } : State)
    let late := onSeq (fun q => { q with bslots := [(9, ⟨2, 2, true, true⟩)], frz := { q.frz with bar := some ⟨9, 2, none⟩ } })
    let msg := fun (t : State) => t.barMsgs.find? (fun x => x.core == t.here && x.bar.toNat == 9)
    let u := s (some ⟨9, 2, none⟩) true
    msg (s none false) = some (m false) ∧ (s none false).core.share.launch = (m false).launch ∧ ((s none false).core.seq.slot 9).arrived = true ∧
      Sparse.canon BSlot.zero (s none false).core.seq.bslots = true ∧ (s none false).core.seq.frz.bar = none ∧
      (s (some ⟨8, 2, none⟩) false).core.seq.frz.bar = some ⟨8, 2, none⟩ ∧
      (s (some ⟨9, 2, some 4⟩) false).core.seq.frz.bar = some ⟨9, 2, some 4⟩ ∧ (s (some ⟨9, 2, some 4⟩) false).core.seq.frz.start = false ∧
      NoLoopEnds (s (some ⟨9, 2, some 4⟩) false) ∧ (u.focus 0).barMsgs = u.barMsgs ∧ NoTraps u ∧ u.core.quiet = true ∧ ¬DebugStops u ∧
      u.core.seq.sup = false ∧ u.core.seq.sen = true ∧ (late.core.seq.slot 9).done = true ∧ msg late = none ∧ State.reset.core.seq.frz.bar = none := by
  unfold NoTraps NoLoopEnds DebugStops; dsimp only; repeat' with_reducible apply And.intro
  all_goals decide +kernel

/-- A recorded trap with its engine. -/
def trap0 (cause : BitVec 8) (e : Stream) : TrapRec := ⟨cause, 0, e, 1, 2, 3, none, false⟩

/-- Traps recorded, the control stream drained or not. -/
def trapsIn (sen dr : Bool) (l : List TrapRec) : State := onSeq (fun q => { q with sen := sen, traps := l, draining := dr })

/-- `TrapsEnter`: a trap due at a boundary; those taken first of the engines' records, drained, with and without a supervisor; a
supervisor section's, and a thread's that waits under the supervisor. -/
theorem test_witness_trap_entry :
    let ready := fun (u : State) => u.core.quiet = true ∧ u.core.seq.replays = false ∧ u.core.frozen = false ∧ ¬DebugStops u ∧
      ¬(u.core.share.stop = true ∧ u.core.share.fault = true) ∧ u.core.seq.draining = true
    let taken := fun (u : State) (x : TrapRec) => u.core.seq.sup = false ∨ x.sup = true
    let first := fun (u : State) => TakenNext u.core.seq.traps (taken u)
    let b := trapsIn true false [trap0 1 .seq]
    let p := trapsIn true true [trap0 1 .seq, trap0 0x19 .m]
    let v := trapsIn true true [trap0 1 .x, trap0 1 .v]
    let x := trapsIn false true [trap0 1 .x]
    let mine := { trap0 1 .x with sup := true }
    let sv := onSeq (fun q => { q with sen := true, sup := true, traps := [trap0 1 .m, mine], draining := true })
    b.core.atBoundary = true ∧ b.core.seq.draining = false ∧ (∃ y ∈ b.core.seq.traps, taken b y) ∧ (b.focus 0).here < 512 ∧
      ready p ∧ first p (trap0 0x19 .m) [trap0 1 .seq] [] ∧ ready v ∧ first v (trap0 1 .v) [trap0 1 .x] [] ∧ ready x ∧
      first x (trap0 1 .x) [] [] ∧ x.core.seq.sen = false ∧ x.core.seq.late = none ∧ ready sv ∧ first sv mine [trap0 1 .m] [] ∧
      ¬taken sv (trap0 1 .m) ∧ State.reset.core.seq.traps = [] := by
  dsimp only [TakenNext, DebugStops]; repeat' with_reducible apply And.intro
  all_goals decide +kernel

/-- `WindowsReplay`: a POISON in a window that may be replayed, and at its third replay. -/
theorem test_witness_replay :
    let c : Ckpt := ⟨Bank.zero, 4, 9, 0, 0, Vector.replicate 2 0, Vector.replicate 3 none, 0⟩
    let s := fun (n : BitVec 8) => onSeq (fun q => { q with traps := [trap0 1 .v, trap0 0x19 .m], draining := true, rpl := true, ckpt := some c, count := n })
    let k := (s 2).core
    k.seq.ckpt = some c ∧ TakenNext k.seq.traps (fun x => x.cause = 0x19 ∨ x.cause = 0x1A) (trap0 0x19 .m) [trap0 1 .v] [] ∧ ((s 2).focus 0).here < 512 ∧ k.seq.draining = true ∧
      ¬(k.share.stop = true ∧ k.share.fault = true) ∧ k.seq.rpl = true ∧ k.seq.count.toNat < 3 ∧ k.seq.sup = false ∧ k.quiet = true ∧ k.frozen = false ∧
      ¬((s 3).core.seq.count.toNat < 3) ∧ Sparse.canon 0 k.mat.cells = true := by
  dsimp only [TakenNext]; repeat' apply And.intro
  all_goals decide +kernel

/-- `Preempts`: a request at a drain point, under FORCE, at no drain point, after PRELIM; none; a core that runs its sections out, has
run out, and has none. -/
theorem test_witness_preempt :
    let s := fun (f : Seq → Seq) (p : Phase) => onCore (fun k => { k with share := { k.share with phase := p }, seq := f { k.seq with sen := true, req := true } })
    let asked := fun (k : Core) => k.seq.req = true ∧ k.seq.sup = false ∧ k.seq.traps = [] ∧ k.seq.draining = false ∧ k.seq.pre = none ∧
      k.share.stop = false ∧ k.atBoundary = true
    let busy : State := onX false 0 id
    let b := { busy.core with seq := { busy.core.seq with req := true, sen := true }, share := { busy.core.share with phase := .running } }
    asked (s id .running).core ∧ (s id .running).core.drainPoint = true ∧ (s id .running).core.seq.force = false ∧
      asked (s (fun q => { q with force := true }) .aligning).core ∧ asked (s (fun q => { q with ended := true }) .entry).core ∧ asked (s id .ending).core ∧ asked (s id .done).core ∧ (s id .done).core.seq.sen = true ∧ asked b ∧
      b.drainPoint = false ∧ State.reset.core.seq.req = false ∧ State.reset.core.seq.pre = none ∧
      asked (s (fun q => { q with reqTicks := 0x100000 }) .running).core ∧ (0x100000 : BitVec 32).toNat ≤ 0x100000 ∧
      ¬((s id .running).core.seq.prelim.toNat ≤ (s id .running).core.seq.reqTicks) ∧
      ¬DebugStops (s id .running) ∧
      (let k := (s (fun q => { q with pre := some (true, 7) }) .running).core
       k.seq.pre = some (true, 7) ∧ k.seq.traps = [] ∧ k.share.stop = false ∧ k.enginesIdle = true ∧ k.quiet = true ∧ k.frozen = false ∧
         k.seq.sen = true ∧ k.seq.sup = false) ∧ b.enginesIdle = false := by
  dsimp only [DebugStops]; repeat' apply And.intro
  all_goals decide +kernel

/-- `FreezesExpire`: a run that has reached FRZLIM; LATE due with an exchange, a landing, a load and an atomic late, with none, and
without a supervisor or at a stop. -/
theorem test_witness_late :
    let l := fun (k : AccKind) => ({ acc0 with due := some 0, kind := k } : Acc)
    let accs := [l (.xch xch0), l (.land none 1 2 64 8), l (.load [] (.sreg false 1)), l (.atom ⟨0, 8, false, 0, 0, 0, .wait, none, false, none, false⟩)]
    let s := fun (as : List Acc) (f : Seq → Seq) => onCore (fun k => { k with x := { k.x with accs := as }, seq := f { k.seq with lateDue := true } })
    let r := onSeq (fun q => { q with frz := { q.frz with bar := some ⟨9, 2, none⟩, run := 65536 } })
    let ready := fun (t : State) => t.core.seq.lateDue = true ∧ t.core.obs.stopped = false ∧ t.core.x.flight = [] ∧ t.core.mat.loads = [] ∧
      t.core.mat.feeds = [] ∧ (∀ a ∈ t.core.x.accs, t.performsFirst a = false) ∧ t.core.seq.sup = false
    r.core.frozen = true ∧ r.core.seq.lateDue = false ∧ r.core.seq.frzlim.toNat ≤ r.core.seq.frz.run ∧ r.core.obs.stopped = false ∧
      r.core.seq.sup = false ∧ ¬(State.reset.core.frozen = true) ∧ ¬(State.reset.core.seq.lateDue = true) ∧ ready (s accs (fun q => { q with sen := true })) ∧
      (s accs (fun q => { q with sen := true })).core.x.accs.filter Acc.late = accs ∧
      ready (s [] (fun q => { q with sen := true, frz := { q.frz with bar := some ⟨9, 2, none⟩ } })) ∧
      ready (s [] (fun q => { q with sen := true, frz := { q.frz with align := some (2, 100) } })) ∧ ready (s accs id) ∧
      (s accs id).core.seq.sen = false ∧ 0 < r.core.seq.frz.run ∧ NoTraps (s accs id) ∧ ¬DebugStops (s accs id) ∧ ¬((s accs id).core.share.stop = true ∧ (s accs id).core.share.fault = true) := by
  dsimp only [NoTraps, DebugStops]; repeat' apply And.intro
  all_goals decide +kernel

/-- A record of R48: one core, an image at VBN 3, one dimension of two tiles, a prerequisite word, token 100, DONEVA 0x100. -/
def lnr (img prev : Nat) : List Nat := [2 ^ 48 + img, 2 ^ 40, 0, 2, 0, 0, prev, 100, 256]

/-- The launch it makes. -/
def launch0 (f : Launch → Launch) : Launch :=
  f { num := 1, ring := 0, lnrVa := 4096, raw := (lnr 3 0).flatMap (bytesOfNat 8) ++ List.replicate 56 0, seed := 9, prio := 0, age := 0,
      ready := true, resident := false, running := false, accepting := false, outrank := false, staged := false, sets := (0, 0, 0),
      tokens := [], lbt := 0, status := none }

/-- Partition 3 with a page from VA 0 on at 0x50000, and words in it. -/
def sched (ws : List (Nat × Nat)) (f : Part → Part) (s : State) : State :=
  let t := tables (ptrs ++ [(0x40000, leaf0 0x50000)] ++ ws.map (fun e => (0x50000 + e.1, e.2)))
  withPart f { s with main := t.main, keys := t.keys, chans := t.chans, chanTab := t.chanTab, fadTab := t.fadTab }

/-- `SharesBegin`: a flip, one whose plane is not the launch's, and a core that must wait. -/
theorem test_witness_flip :
    let l := launch0 (fun l => { l with accepting := true, staged := true })
    let s := fun (p : Plane) (h : Phase) => withPart (fun x => { x with table := [l] }) (onCore (fun k => { k with shd := p, share := { k.share with phase := h } }))
    let p : Plane := { Plane.empty with launch := some 1, init := true }
    let free := fun (k : Core) => k.seq.sup = false ∧ (k.seq.req = false ∨ k.seq.sen = false) ∧ k.obs.stopped = false ∧ k.seq.pre = none ∧ RunOut k
    { Part.fresh (desc0 0 2) 0 with table := [l] }.current = none ∧ ({ Part.fresh (desc0 0 2) 0 with table := [launch0 (fun l => { l with running := true })] } : Part).current ≠ none ∧
      free (s p .idle).core ∧ free (s p .done).core ∧ (s p .idle).myPart = some (3, { Part.fresh (desc0 0 2) 0 with table := [l] }) ∧
      [l].find? (fun l => l.accepting && l.staged && l.status.isNone && !l.resident) = some l ∧ p.launch = some l.num ∧ p.init = true ∧
      (s Plane.empty .idle).core.shd.init = false ∧ (s p .running).core.share.phase = .running := by
  unfold RunOut; dsimp only; repeat' apply And.intro
  all_goals decide +kernel

/-- `SharesBegin`: start tokens: with a parameter block, without one before and at LBT, for a core without a tile; none. -/
theorem test_witness_token :
    let s := fun (f : Launch → Launch) (c : Nat) => withPart (fun x => { x with table := [launch0 f] })
      { onCore (fun k => { k with share := { k.share with phase := .flipped, launch := 1 } }) with here := c, others := if c = 0 then [] else [(0, Core.reset)] }
    let lc := fun (t : State) => (t.members (Part.fresh (desc0 0 2) 0)).findIdx (· == t.here)
    let k := (s id 0).core
    ((s (fun l => { l with tokens := [0] }) 0).tokenFor).map (fun e => e.1) = some 3 ∧ k.seq.draining = false ∧ k.seq.pre = none ∧ k.seq.frz.align = none ∧
      lc (s id 0) = 0 ∧ ¬((launch0 id).ncore ≤ 0 ∨ (launch0 id).tiles ≤ 0) ∧ (launch0 id).parvbn = 0 ∧
      (launch0 (fun l => { l with raw := l.raw.set 8 7 })).parvbn ≠ 0 ∧ lc (s id 5) = 5 ∧ (launch0 id).ncore ≤ 5 ∧
      ((s (fun l => { l with tokens := [5] }) 5).tokenFor).map (fun e => e.1) = some 3 ∧ (s id 0).tokenFor = none ∧
      (s id 0).alignMet 4 100 = false ∧
      ({ s id 0 with dies := State.reset.dies.set 0 { Die.reset with tick := 200, rels := [⟨3, 100, none⟩] } } : State).alignMet 4 100 = true := by
  dsimp only; repeat' apply And.intro
  all_goals decide +kernel

/-- `SharesBegin`, `SharesEnd`: a parameter block that swaps, one whose home faults, and one that waits; a tile entry. -/
theorem test_witness_parameters :
    let s := fun (h : Phase) (b : Nat) (f : State → State) => f (sched [] id (onCore (fun k => { k with
      share := { k.share with phase := h, parvbn := b, dims := [2, 3], order := [1, 0] } })))
    let va := fun (t : State) => 4096 * (t.core.share.parvbn + t.core.share.lcore)
    let i := s .swapIn 4 id
    (i.translateP i.partNum .write (va i)).toOption = some ⟨0x54, 1, true, true⟩ ∧ i.broken 0x54 = false ∧ i.lostBlock 0x54 = false ∧
      i.blockWaits i.partNum 4 = false ∧ i.core.obs.stopped = false ∧ i.core.share.stop = false ∧ i.core.near.wf = true ∧ i.main.wf = true ∧
      Sparse.canon 0 i.seals = true ∧ (s .swapIn 99 id).paramHome = none ∧ (s .swapIn 99 id).blockWaits 3 99 = false ∧
      (s .swapIn 4 (fun t => { t with locks := [⟨Home.near 0x54, 0, 3, 2⟩] })).blockWaits 3 4 = true ∧
      (s .swapOut 4 id).core.share.phase = .swapOut ∧ (s .swapOut 99 id).paramHome = none ∧
      (let k := (s .entry 0 id).core
       k.share.phase = .entry ∧ k.seq.wait = 0 ∧ k.seq.sup = false ∧ k.share.stop = false ∧ k.seq.draining = false ∧ k.frozen = false ∧
         k.share.order.Nodup ∧ k.share.order[1]? = some 0 ∧ 5 ∉ k.share.order) := by
  dsimp only; repeat' apply And.intro
  all_goals decide +kernel

/-- `SharesEnd`: a share that may end, with payloads unclaimed and with none; a core that stops for a launch's fault, takes the stop, and
has drained. -/
theorem test_witness_share_end :
    let pay : Payload := { launch := 1, pkg := none, src := 0, tag := 0, len := 8, data := Store.empty, push := false }
    let s := fun (f : Share → Share) (ps : List Payload) => withPart id (pending [] ps) |> fun t =>
      ({ t with core := { t.core with share := f { t.core.share with launch := 1 } }, others := [(5, { Core.reset with share := { Share.idle with launch := 1, fault := true } })] } : State)
    let k := (s (fun h => { h with phase := .ending }) [pay]).core
    k.share.phase = .ending ∧ k.seq.sup = false ∧ k.seq.traps = [] ∧ k.seq.draining = false ∧ k.seq.pre = none ∧ k.share.stop = false ∧
      k.obs.stopped = false ∧ RunOut k ∧ (k.x.landing.filter (fun p => p.launch == k.share.launch)).length = 1 ∧
      (s (fun h => { h with phase := .ending }) []).core.x.landing = [] ∧ (s id []).myDie < 4 ∧
      (let d := (s (fun h => { h with phase := .running, stop := true, fault := true }) []).core
       d.share.stop = true ∧ d.share.fault = true ∧ d.quiet = true ∧ d.frozen = false ∧ d.seq.late = none ∧ d.share.phase ≠ .swapIn) ∧
      (let d := (s (fun h => { h with phase := .swapIn, stop := true, fault := true }) []).core; d.quiet = true ∧ d.frozen = false ∧ d.share.phase = .swapIn) ∧
      (let d := (s (fun h => { h with phase := .running, stop := true }) []).core
       d.share.fault = false ∧ d.atBoundary = true ∧ d.obs.stopped = false ∧ d.seq.sup = false) ∧
      (let t := s (fun h => { h with phase := .running }) []
       t.core.share.fault = false ∧ t.core.share.stop = false ∧ (5, { Core.reset with share := { Share.idle with launch := 1, fault := true } }) ∈ t.others ∧
         (t.partOf 5).map Prod.fst = some t.partNum) := by
  unfold RunOut; dsimp only; repeat' apply And.intro
  all_goals decide +kernel

/-- `SharesEnd`: a running launch whose cores have ended completes, OK and with FAULT; one whose status is decided; none. -/
theorem test_witness_completion :
    let s := fun (f : Launch → Launch) (b : Bool) => sched [] (fun x => { x with table := [launch0 f], desc := desc0 0 1 }) (onCore (fun k => { k with
      share := { k.share with phase := .done, launch := 1, fault := b } })) |> fun t =>
        ({ t with others := (List.range 15).map (fun i => (i + 1, { Core.reset with share := { Share.idle with phase := .done, launch := 1 } })) } : State)
    let run := s (fun l => { l with running := true }) false
    ((run.completing 3).map (fun e => e.2.2)) = some 0 ∧ (((s (fun l => { l with running := true }) true).completing 3).map (fun e => e.2.2)) = some 3 ∧
      (((s (fun l => { l with status := some 1 }) false).completing 3).map (fun e => e.2.2)) = some 1 ∧ (s id false).completing 3 = none ∧ KeysOk run ∧
      (run.translateP 3 .write 256).toOption = some ⟨0x50, 1, true, true⟩ ∧ run.lostBlock 0x50 = false ∧ run.keyIdent 1 = some 0 ∧
      256 % 8 = 0 ∧ (∀ a ∈ run.walkReads 3 5 100, a / 128 ≠ (4096 * 0x50 + 256) / 128) ∧
      ((sched [] (fun x => { x with desc := { x.desc with tokbase := 4096 } }) run).translateP 3 .write 4196).toOption = some ⟨0x51, 1, true, true⟩ := by
  unfold KeysOk; dsimp only; repeat' apply And.intro
  all_goals decide +kernel

/-- `ContextWrites`: a supervisor's writes of CTX to the old and to a new value, with payloads of both; and of FRZLIM out of its range. -/
theorem test_witness_context :
    let s := onSeq (fun q => { q with sup := true, ctx := 4 })
    s.core.seq.sup = true ∧ s.core.frozen = false ∧ s.core.seq.ctx = 4 ∧ (5 : BitVec 32) ≠ s.core.seq.ctx ∧ s.myDie < 4 ∧ State.reset.core.seq.sup = false ∧
      (255 : Word).toNat < 256 ∧ 2 ^ 24 < (0x1000001 : Word).toNat := by
  dsimp only; repeat' apply And.intro
  all_goals decide +kernel

/-- `LaunchWindow`: a partition and none; a base that stays, changes with rings empty, and changes with one not empty; sizes 3, 12 and 13. -/
theorem test_witness_window :
    let s := withPart id State.reset
    let x := Part.fresh (desc0 0 2) 0
    let y : Part := { x with rtail := #v[1, 0, 0, 0] }
    s.part? 3 = some x ∧ s.part? 4 = none ∧ ((0 : Word).extractLsb' 12 40 ++ 0#12 : BitVec 52) = x.rbase[0] ∧
      ((4096 : Word).extractLsb' 12 40 ++ 0#12 : BitVec 52) ≠ x.rbase[0] ∧ (∀ i : Fin 4, x.rtail[i] = x.rhead[i]) ∧ (¬∀ i : Fin 4, y.rtail[i] = y.rhead[i]) ∧
      ((3 : Word).extractLsb' 0 4 : BitVec 4).toNat < 4 ∧ ((12 : Word).extractLsb' 0 4 : BitVec 4).toNat = 12 ∧ (4 : BitVec 4) = x.sz := by
  dsimp only; repeat' apply And.intro
  all_goals decide +kernel

/-- `LaunchesSubmit`: a ring whose entry is submitted; one with a count past its size; an entry with a reserved bit; each address that
faults; a token still pending; 64 launches held; a home that waits. -/
theorem test_witness_submit :
    let rec_ := (lnr 3 0).zipIdx.map (fun e => (4096 + 8 * e.2, e.1))
    let x := fun (f : Part → Part) (y : Part) => f { y with en := true, rtail := #v[1, 0, 0, 0], rbase := #v[8192, 0, 0, 0] }
    let s := fun (ws : List (Nat × Nat)) (f : Part → Part) => sched ws (x f) State.reset
    let p := x id (Part.fresh (desc0 0 2) 0)
    let a := s ((8192, 4096) :: rec_) id
    a.part? 3 = some p ∧ p.en = true ∧ p.stopped.getLsbD 0 = false ∧ ((p.rtail[0]?.getD 0) - (p.rhead[0]?.getD 0)).toNat = 1 ∧
      (∀ i < 4, 0 < i → ((p.rtail[i]?.getD 0) - (p.rhead[i]?.getD 0)).toNat = 0) ∧ a.schedWaits 3 8192 = false ∧ a.schedRead 3 8192 8 = some (bytesOfNat 8 4096) ∧
      4096 % 128 = 0 ∧ a.schedWaits 3 4096 = false ∧ (a.schedRead 3 4096 128).map (fun b => b.take 72) = some ((lnr 3 0).flatMap (bytesOfNat 8)) ∧ 
      a.schedWaits 3 100 = false ∧ a.schedRead 3 100 1 = some [0] ∧ (a.translateP 3 .write 100).toOption = some ⟨0x50, 1, true, true⟩ ∧ a.lostBlock 0x50 = false ∧
      a.keyIdent 1 = some 0 ∧ a.main.wf = true ∧ Sparse.canon 0 a.seals = true ∧ 2 ^ p.sz.toNat < ((17 : BitVec 12) - 0).toNat ∧
      (s [(8192, 4097)] id).schedRead 3 8192 8 = some (bytesOfNat 8 4097) ∧ 4097 % 128 ≠ 0 ∧
      (s [] (fun y => { y with rbase := #v[65536, 0, 0, 0] })).schedRead 3 65536 8 = none ∧ a.schedRead 3 131072 128 = none ∧
      (s ((96, 0xFF00000000) :: (8192, 4096) :: rec_) id).schedRead 3 100 1 = some [0xFF] ∧
      ({ a with locks := [⟨Home.near 0x50, 0, 3, 2⟩] } : State).schedWaits 3 100 = true ∧ ({ a with locks := [⟨Home.near 0x52, 0, 3, 2⟩] } : State).schedWaits 3 8192 = true ∧
      64 ≤ (List.replicate 64 (launch0 id)).length ∧ (p.stopped.getLsbD 0 = false) := by
  dsimp only; repeat' apply And.intro
  all_goals decide +kernel

/-- `LaunchesSubmit`: a token byte that reads and cannot be written, under a leaf without W. -/
theorem test_witness_submit_readonly :
    let t := tables (ptrs ++ [(0x40000, leaf0 0x50000 - 8)])
    let s := withPart id { t with seals := [] }
    s.schedRead 3 100 1 = some [0] ∧ s.schedWaits 3 100 = false ∧ (s.schedWrite 3 100 [0xFF]).isNone = true := by
  dsimp only; repeat' apply And.intro
  all_goals decide +kernel

/-- `LaunchesReady`: prerequisites all OK, one not OK, one pending, one that faults, one whose home waits; an aging step due and one not. -/
theorem test_witness_ready :
    let l := fun (prev : Nat) => launch0 (fun l => { l with ready := false, raw := (lnr 3 prev).flatMap (bytesOfNat 8) ++ List.replicate 56 0 })
    let s := fun (b prev : Nat) => sched [(200, b)] (fun x => { x with age := 1000, table := [l prev] }) State.reset
    let on : Nat := 2 ^ 60 + 200
    (s 0 on).launchAt 3 0 = some ({ Part.fresh (desc0 0 2) 0 with age := 1000, table := [l on] }, l on) ∧ (s 0 on).launchAt 3 1 = none ∧
      (l on).ready = false ∧ (l on).status = none ∧ ((l on).w 6).getLsbD 60 = true ∧ ((l on).w 6).extractLsb' 0 20 = (200 : BitVec 20) ∧
      (s 0 on).schedWaits 3 200 = false ∧ (s 0 on).schedRead 3 200 1 = some [0] ∧ (s 3 on).schedRead 3 200 1 = some [3] ∧
      (s 255 on).schedRead 3 200 1 = some [0xFF] ∧ (s 0 on).schedRead 3 70000 1 = none ∧ (l 0).w 6 = 0 ∧ ((l (2 ^ 60 + 70000)).w 6).extractLsb' 0 20 = (70000 : BitVec 20) ∧
      ({ s 0 on with locks := [⟨Home.near 0x50, 0, 3, 2⟩] } : State).schedWaits 3 200 = true ∧
      (let m := launch0 (fun l => { l with age := 1000 }); m.ready = true ∧ m.running = false ∧ m.prio < 3 ∧ (1000 : BitVec 32).toNat ≤ m.age) ∧
      (launch0 id).age < (1000 : BitVec 32).toNat := by
  dsimp only; repeat' apply And.intro
  all_goals decide +kernel

/-- `LaunchesSwitch`: a launch that outranks the running one, good and bad; one staged, with the switch block free and locked. -/
theorem test_witness_outrank :
    let run := launch0 (fun l => { l with running := true })
    let l := fun (f : Launch → Launch) => launch0 (fun l => f { l with num := 2, ring := 2 })
    let s := fun (f : Launch → Launch) => sched [] (fun x => { x with pen := true, table := [run, l f] }) State.reset
    let st := fun (l : Launch) => ({ l with outrank := true, staged := true } : Launch)
    (s id).part? 3 = some { Part.fresh (desc0 0 2) 0 with pen := true, table := [run, l id] } ∧ [run, l id][1]? = some (l id) ∧ KeysOk (s id) ∧
      (l id).ready = true ∧ (l id).status = none ∧ (l id).resident = false ∧ (l id).running = false ∧ [run, l id].find? (fun m => m.running) = some run ∧
      run.status = none ∧ run.prio < (l id).startPrio ∧ (l id).bad 32 = false ∧ (l (fun l => { l with raw := l.raw.set 15 1 })).bad 32 = true ∧
      ([run, l id].filter (fun m => m.resident)).length < 4 ∧ ¬(∃ m ∈ [run, l id], (m.accepting = true ∨ m.outrank = true) ∧ m.status = none) ∧
      (st (l id)).outrank = true ∧ (st (l id)).ready = true ∧ (st (l id)).resident = false ∧ run.prio < (st (l id)).startPrio ∧ (st (l id)).staged = true ∧ (st (l id)).status = none ∧ (s st).schedWaits 3 0 = false ∧
      ({ s st with locks := [⟨Home.near 0x50, 0, 3, 2⟩] } : State).schedWaits 3 0 = true ∧ ((s st).translateP 3 .write 0).toOption = some ⟨0x50, 1, true, true⟩ ∧
      (s st).lostBlock 0x50 = false ∧ (s st).keyIdent 1 = some 0 ∧ (s st).main.wf = true ∧ Sparse.canon 0 (s st).seals = true := by
  unfold KeysOk; dsimp only; repeat' apply And.intro
  all_goals decide +kernel

/-- `LaunchesSwitch`: a resident launch chosen to resume, its cores still to be asked, and switched back. -/
theorem test_witness_resume :
    let l := launch0 (fun l => { l with resident := true, accepting := true, staged := true })
    let s := sched [] (fun x => { x with table := [l] }) State.reset
    let on := { Core.reset with share := { Share.idle with launch := 1 } }
    let b := sched [] (fun x => { x with table := [l], desc := desc0 0 1 }) { onCore (fun _ => on) with others := (List.range 15).map (fun i => (i + 1, on)) }
    [l].find? (fun m => m.accepting && m.status.isNone) = some l ∧ (∀ m ∈ [l], m.running = false) ∧ 0 ∈ s.members (Part.fresh (desc0 0 2) 0) ∧
      (s.coreAt 0).seq.req = false ∧ (s.coreAt 0).seq.sup = false ∧ (s.coreAt 0).share.launch ≠ l.num ∧ s.schedWaits 3 0 = false ∧
      ({ s with locks := [⟨Home.near 0x50, 0, 3, 2⟩] } : State).schedWaits 3 0 = true ∧
      (∀ c ∈ b.members (Part.fresh (desc0 0 1) 0), (b.coreAt c).share.launch = l.num ∧ (b.coreAt c).seq.sup = false ∧ (b.coreAt c).seq.req = false) ∧
      b.schedWaits 3 (l.lnrVa + 40) = false ∧ (s.translateP 3 .write 0).toOption = some ⟨0x50, 1, true, true⟩ ∧ s.lostBlock 0x50 = false ∧
      s.keyIdent 1 = some 0 ∧ s.main.wf = true ∧ Sparse.canon 0 s.seals = true := by
  dsimp only; repeat' apply And.intro
  all_goals decide +kernel

/-- `LaunchesStart`: a launch to be chosen, good and bad; held by HALT, by a channel and by a running launch; one under acceptance whose
cores have flipped and have not. -/
theorem test_witness_accept :
    let l := launch0 id
    let x := fun (f : Part → Part) => f { Part.fresh (desc0 0 2) 0 with table := [l] }
    let s := sched [] (fun _ => x id) State.reset
    let a := launch0 (fun l => { l with accepting := true, staged := true })
    let fl := { Core.reset with share := { Share.idle with launch := 1, phase := .flipped } }
    let b := sched [] (fun x => { x with table := [a], desc := desc0 0 1 }) { onCore (fun _ => fl) with others := (List.range 15).map (fun i => (i + 1, fl)) }
    s.part? 3 = some (x id) ∧ (∀ m ∈ (x id).table, m.accepting = false ∨ m.status ≠ none) ∧ (x id).halt = false ∧ (x (fun y => { y with halt := true })).halt = true ∧
      (∀ e ∈ (x id).desc.chanEntries, (s.chans[e / 512]?.getD Channel.off).expired = false) ∧ (∀ m ∈ (x id).table, m.running = false) ∧
      l.ready = true ∧ l.status = none ∧ l.running = false ∧ l.bad (s.members (x id)).length = false ∧ (launch0 (fun l => { l with raw := l.raw.set 15 1 })).bad 32 = true ∧
      (x id).desc.profiles[0]? ≠ none ∧ l.shareNo < (x id).desc.profiles.length ∧ Sparse.canon freeEntry s.chanTab = true ∧ Sparse.canon freeEntry s.fadTab = true ∧
      [a].find? (fun m => m.accepting && m.status.isNone) = some a ∧ a.staged = true ∧ a.resident = false ∧
      (∀ c ∈ b.members (Part.fresh (desc0 0 1) 0), (b.coreAt c).share.launch = a.num ∧ (b.coreAt c).share.phase = .flipped) ∧
      ¬(∀ c ∈ s.members (x id), (s.coreAt c).share.launch = a.num ∧ (s.coreAt c).share.phase = .flipped) ∧ b.schedWaits 3 (a.lnrVa + 40) = false ∧
      (b.translateP 3 .write 4136).toOption = some ⟨0x51, 1, true, true⟩ ∧ b.lostBlock 0x51 = false ∧ b.keyIdent 1 = some 0 ∧ 4096 % 128 = 0 ∧ b.main.wf = true ∧
      Sparse.canon 0 b.seals = true := by
  dsimp only; repeat' apply And.intro
  all_goals decide +kernel

/-- `LaunchesStart`: staging from an image with a header that breaks a limit, and from one that faults; a plane that lies in every core
already. -/
theorem test_witness_staging :
    let l := fun (img : Nat) => launch0 (fun l => { l with accepting := true, raw := (lnr img 0).flatMap (bytesOfNat 8) ++ List.replicate 56 0 })
    let s := fun (ws : List (Nat × Nat)) (img : Nat) => sched ws (fun x => { x with table := [l img] }) State.reset
    let pl : Plane := { Plane.empty with launch := some 1 }
    let have_ := sched [] (fun x => { x with table := [l 3], desc := desc0 0 1 }) { onCore (fun k => { k with shd := pl }) with
      others := (List.range 15).map (fun i => (i + 1, { Core.reset with shd := pl })) }
    (l 3).accepting = true ∧ (l 3).staged = false ∧ (l 3).status = none ∧ (s [] 99).hasPlane (Part.fresh (desc0 0 2) 0) (l 99) = false ∧
      (s [] 0).image 3 0 = .bad ∧ (s [] 99).image 3 99 = .fault ∧ (s [] 99).imageWaits 3 99 = false ∧
      have_.hasPlane (Part.fresh (desc0 0 1) 0) (l 3) = true ∧ KeysOk (s [] 3) := by
  unfold KeysOk; dsimp only; repeat' apply And.intro
  all_goals decide +kernel

/-- Memory that no key seals anew and that reads zero reads as zeros. -/
theorem mainBytes_zero (s : State) (hs : s.seals = []) (n a : Nat) (hz : ∀ b ≥ a, s.main.byte b = 0) : s.mainBytes 0 a n = List.replicate n 0 := by
  induction n generalizing a with
  | zero => rfl
  | succ n ih =>
    rw [State.mainBytes, ih (a + 1) (fun b hb => hz b (by omega)), List.replicate_succ]
    simp [State.mainByte, hs, Sparse.get, hz a (Nat.le_refl a)]

/-- Partition 3's page with an image of one word at its start. -/
def image0 : State :=
  sched [(0, 12)] (fun x => { x with table := [launch0 (fun l =>
    { l with accepting := true, raw := (lnr 0 0).flatMap (bytesOfNat 8) ++ List.replicate 56 0 })] }) State.reset

theorem image0_byte (a : Nat) (h : 0x50001 ≤ a) : image0.main.byte a = 0 := by
  have hb : ∀ e ∈ image0.main.bytes, e.1 < 0x50001 := by decide +kernel
  unfold Store.byte
  generalize image0.main.bytes = l at hb
  induction l with
  | nil => rfl
  | cons e r ih =>
    have h1 : e.1 < 0x50001 := hb e (List.mem_cons_self ..)
    have h2 := ih (fun x hx => hb x (List.mem_cons_of_mem _ hx))
    rw [Sparse.get, if_neg (by omega)]
    split
    · rfl
    · exact h2

theorem image0_read (va : Nat) (l : Leaf) (ht : (image0.translateP 3 .read va).toOption = some l) (hl : l.key = 1)
    (ha : 0x50001 ≤ 4096 * l.pbn + va % 4096) (hd : image0.lostBlock l.pbn = false) : image0.schedRead 3 va 4096 = some (List.replicate 4096 0) := by
  have hp : image0.main.poison = [] := by decide +kernel
  have hk : image0.keyIdent 1 = some 0 := by decide +kernel
  unfold State.schedRead
  cases hx : image0.translateP 3 .read va with
  | error f => simp [hx, Except.toOption] at ht
  | ok m =>
    obtain rfl : m = l := by simpa [hx, Except.toOption] using ht
    simp only [State.mainRead, hl, hk, hd, Store.poisoned, hp, List.any_nil, Bool.and_false, Bool.or_false]
    rw [mainBytes_zero image0 rfl 4096 _ (fun b hb => image0_byte b (by omega))]
    rfl

/-- `LaunchesStart`: an image of one word, its plane block and its state block. -/
theorem test_witness_image : (∃ pl, image0.image 3 0 = .ok pl) ∧ image0.imageWaits 3 0 = false ∧ ∃ x l, image0.launchAt 3 0 = some (x, l) ∧
    l.accepting = true ∧ l.staged = false ∧ l.status = none ∧ l.img = 0 ∧ image0.hasPlane x l = false := by
  have h0 : image0.schedRead 3 0 4096 = some (12 :: List.replicate 4095 0) := by
    have hk : image0.keyIdent 1 = some 0 := by decide +kernel
    have hp : image0.main.poison = [] := by decide +kernel
    have hd : image0.lostBlock 0x50 = false := by decide +kernel
    have hb : image0.mainByte 0 0x50000 = 12 := by decide +kernel
    have ht : (image0.translateP 3 .read 0).toOption = some ⟨0x50, 1, true, true⟩ := by decide +kernel
    unfold State.schedRead
    cases hx : image0.translateP 3 .read 0 with
    | error f => simp [hx, Except.toOption] at ht
    | ok m =>
      obtain rfl : m = ⟨0x50, 1, true, true⟩ := by simpa [hx, Except.toOption] using ht
      simp only [State.mainRead, hk, hd, Store.poisoned, hp, List.any_nil, Bool.and_false, Bool.or_false]
      rw [show (4096 : Nat) = 4095 + 1 from rfl, State.mainBytes, mainBytes_zero image0 rfl 4095 _ (fun b hb => image0_byte b (by omega)), hb]
      rfl
  have h1 : image0.schedRead 3 (4096 * 1) 4096 = some (List.replicate 4096 0) :=
    image0_read _ ⟨0x51, 1, true, true⟩ (by decide +kernel) rfl (by decide) (by decide +kernel)
  have h2 : image0.schedRead 3 (4096 * 2) 4096 = some (List.replicate 4096 0) :=
    image0_read _ ⟨0x52, 1, true, true⟩ (by decide +kernel) rfl (by decide) (by decide +kernel)
  have hl : headerLen (12 :: List.replicate 4095 0) = 12 := by
    simp only [headerLen, List.take_succ_cons, List.take_replicate]; decide
  have hn : natOfBytes (((12 : Byte) :: List.replicate 4095 0).drop 4 |>.take 2) = 0 := by
    simp only [List.drop_succ_cons, List.drop_replicate, List.take_replicate]; decide
  have hs : headerSlots (12 :: List.replicate 4095 0) = [] := by
    simp only [headerSlots, hn]; rfl
  have hb : headerBad (12 :: List.replicate 4095 0) = false := by
    simp only [headerBad, hl, hn, hs]
    simp only [List.drop_succ_cons, List.drop_replicate, List.take_replicate, List.any_replicate, List.getElem?_cons_succ, List.getElem?_replicate]
    decide
  have hi : image0.imageBlocks 3 1 2 = some [List.replicate 4096 0, List.replicate 4096 0] := by
    simp only [State.imageBlocks, h1, h2]
  refine ⟨?_, ?_, _, _, rfl, by decide +kernel, by decide +kernel, by decide +kernel, by decide +kernel, by decide +kernel⟩
  · unfold State.image
    simp only [Nat.mul_zero, h0, hb, hl, hs, hi, List.length_nil]
    simp only [show ∀ x y : List Byte, ([x, y][(12 + 4095) / 4096]?.getD []) = y from fun _ _ => rfl, List.drop_replicate, List.any_replicate]
    rw [if_neg (by decide), if_neg (by decide)]
    exact ⟨_, rfl⟩
  · unfold State.imageWaits
    simp only [Nat.mul_zero, h0, hb, hl, hs]
    decide +kernel

/-- `ErrorsRecorded`: an event of a core, of main memory, of a die byte, of a register, of a plane, of a TLB, of a unit that is fused
off; a failed check of an engine; an exchange to abandon; a bank with an event of the tick; a link with something on it; a host that
is up and one that is not. -/
theorem test_witness_errors :
    let ev := plainEvent 0x02 0x01 127 64 0
    let s := onX false 0 id
    let mine := fun (src : BitVec 8) => ({ plainEvent 0x02 src 127 64 0 with ofCore := true, core := 0, eng := 3 } : ErrEv)
    let x : State := pending [{ acc0 with kind := .xch xch0 }] []
    let b : State := { s with fuses := { s.fuses with grade := 2, quads := #v[1, 0, 0, 0] } }
    let post : State := running0 (pending [{ acc0 with kind := .xch { xch0 with xl := [.ok ⟨7, 0, true, true⟩] } }] [])
    let today : State := { s with dies := State.reset.dies.set 0 { Die.reset with today := [(14, Vector.replicate 8 0, [ev])] } }
    ev.src ≠ 0x07 ∧ ev.kind ≠ 0x08 ∧ ev.kind ≠ 0x0A ∧ KeysOk s ∧ State.reset.chanOf (64 / 4096) / 6 < 4 ∧
      s.part? 3 = some (Part.fresh (desc0 0 2) 0) ∧ (plainEvent 0x0A 0x10 3 64 0).part.toNat = 3 ∧ (plainEvent 0x12 0x06 127 64 0).kind = 0x12 ∧
      (mine 0x02).core.toNat = 0 ∧ s.usable 0 = true ∧ b.usable 0 = false ∧ (mine 0x02).addr.toNat < 65536 ∧ (mine 0x04).addr.toNat < 131072 ∧
      (mine 0x07).src = 0x07 ∧ (mine 0x07).eng = 3 ∧ streamCode .x = (3 : BitVec 2).toNat ∧ (∀ e ∈ (s.die 0).today, e.1 ≠ 14) ∧
      (today.die 0).today = [(14, Vector.replicate 8 0, [ev])] ∧ (today.die 0).banks[14]? ≠ none ∧
      (x.coreAt 0).exchangeOf { plainEvent 0x08 0x05 127 0 5 with core := 0 } = some { acc0 with kind := .xch xch0 } ∧
      (x.coreAt 0).seq.traps = [] ∧ KeysOk x ∧ (3 : Nat) % 256 = 3 ∧ s.hostUp = true ∧
      ({ s with host := { s.host with link := false } } : State).hostUp = false ∧ s.onLink (.network 0) = [] ∧
      post.onLink (.oml (post.chanOf 7)) = [(0, 0)] ∧ post.chanOf 7 < 24 ∧ (post.focus 0).core.acc? 0 ≠ none ∧
      ((State.reset.die 0).retries[0]?.getD []).length ≤ 16 ∧ 16 < (List.replicate 16 (0 : Word)).length + 1 := by
  unfold KeysOk; dsimp only; repeat' apply And.intro
  all_goals decide +kernel

/-- `HostAccesses`: an offset in partition 3's slice: translated, faulting, waiting, at a failed home; one of no partition; registers of BAR0. -/
theorem test_witness_host :
    let s := sched [] id State.reset
    let o := 3 * 2 ^ 33 + 8
    let bad : State := { s with chans := Vector.replicate 24 { Channel.off with state := 7 } }
    s.hostUp = true ∧ o < 2 ^ 40 ∧ o / 2 ^ 33 = 3 ∧ s.part? 3 = some (Part.fresh (desc0 0 2) 0) ∧ s.part? 4 = none ∧ s.schedWaits 3 8 = false ∧
      ({ s with locks := [⟨Home.near 0x50, 0, 3, 2⟩] } : State).schedWaits 3 8 = true ∧ (s.translateP 3 .write 8).toOption = some ⟨0x50, 1, true, true⟩ ∧
      (s.translateP 3 .read 8).toOption = some ⟨0x50, 1, true, true⟩ ∧ (s.translateP 3 .write 70000).toOption = none ∧
      (s.translateP 3 .read 70000).toOption = none ∧ s.lostBlock 0x50 = false ∧ bad.lostBlock 0x50 = true ∧ s.keyIdent 1 = some 0 ∧ s.main.wf = true ∧
      Sparse.canon 0 s.seals = true ∧ 4088 + 8 ≤ 4096 ∧ (0x10000 + 4096 * 3) % 8 = 0 ∧ s.nib.mode ≠ 2 ∧ Sparse.canon 0 s.nib.mail = true ∧
      (bytesOfNat 8 5).length = 8 ∧ (2 ^ 49 : Word).getLsbD 49 = true ∧ (bytesOfNat 8 5)[2]? = some 0 := by
  dsimp only; repeat' apply And.intro
  all_goals decide +kernel

/-- `HostRegisters`: a partition, its selected core, a port open for stops and closed. -/
theorem test_witness_host_registers :
    let s := withPart id State.reset
    let opened : State := { s with nib := { s.nib with debugOpen := true, scope := 1 } }
    s.hostUp = true ∧ KeysOk s ∧ s.part? 3 = some (Part.fresh (desc0 0 2) 0) ∧ (s.members (Part.fresh (desc0 0 2) 0))[0]? = some 0 ∧
      s.stopsOpen = false ∧ opened.stopsOpen = true ∧ KeysOk opened ∧ (1 : Word).getLsbD 0 = true ∧ (Part.fresh (desc0 0 2) 0).tren = false := by
  unfold KeysOk; dsimp only; repeat' apply And.intro
  all_goals decide +kernel

/-- `Observes`: a watchdog expired and one not; a frozen blotter; a ring that needs a clock mark and one that does not. -/
theorem test_witness_observe :
    let s := onCore (fun k => { k with obs := { k.obs with wdogCnt := 0x4000000, bfrozen := true } })
    let r := withPart (fun x => { x with tren := true, trsize := 0, trbase := 0, desc := { x.desc with asid := 5 } })
      { tables (ptrs ++ [(0x40000, leaf0 0x50000)]) with
        dies := State.reset.dies.set 0 { Die.reset with rings := [⟨3, 0, 0, 0, false, 2 ^ 20, 0, []⟩] } }
    s.core.obs.wdog ≠ 0 ∧ s.core.obs.wdog.toNat ≤ s.core.obs.wdogCnt ∧ s.core.obs.btrig.getLsbD 2 = true ∧ s.myDie < 4 ∧ s.hostUp = true ∧
      s.core.obs.bfrozen = true ∧ ¬(State.reset.core.obs.wdog.toNat ≤ State.reset.core.obs.wdogCnt) ∧ State.reset.core.obs.bfrozen = false ∧
      State.reset.part? 3 = none ∧
      r.membersOn (Part.fresh (desc0 0 2) 0) 0 ≠ [] ∧ 2 ^ 20 ≤ ((r.die 0).ring 3).sinceMark ∧ (r.part? 3).map Part.tren = some true ∧
      ((r.die 1).ring 3).sinceMark < 2 ^ 20 ∧ r.main.wf = true ∧ Sparse.canon 0 r.seals = true := by
  dsimp only; repeat' apply And.intro
  all_goals decide +kernel

/-- `DebugStops`: each trigger that holds, on a core that runs; a core stopped and settled, one out of steps; a closed port. -/
theorem test_witness_debug :
    let open_ := fun (s : State) => ({ s with nib := { s.nib with debugOpen := true, scope := 7 } } : State)
    let obs := fun (f : Obs → Obs) => onCore (fun k => { k with share := { k.share with phase := .running }, obs := f k.obs })
    let b := onCore (fun k => { k with
      cur := plane0, share := { k.share with phase := .running }
      ex := { k.ex with queue := [{ QEntry.none with secno := 1 }] }, obs := { k.obs with bpn := #v[none, none, some 1] } })
    let d := onSeq (fun q => { q with draining := true, traps := [⟨1, 0, .seq, 0, 0, 0, none, false⟩] })
    let st := open_ (obs (fun o => { o with stopped := true }))
    (open_ State.reset).nib.debugOpen = true ∧ (open_ State.reset).nib.scope.getLsbD 0 = true ∧ State.reset.nib.debugOpen = false ∧
      (obs (fun o => { o with bpc := some 0 })).core.aboutToIssue = true ∧ (∃ e ∈ engines, b.core.countHit e = true) ∧
      (0 : Word) ≤ State.reset.tick ∧ d.core.trapReady = true ∧ d.core.seq.draining = true ∧ d.core.obs.entryStop = false ∧ d.core.quiet = true ∧ (obs (fun o => { o with hit := true })).core.obs.hit = true ∧
      Sparse.canon 0 st.core.mat.cells = true ∧ st.core.mat.loads = [] ∧ st.core.mat.feeds = [] ∧ st.core.obs.stopped = true ∧ st.core.x.flight = [] ∧ st.nib.scope.getLsbD 2 = true ∧ st.core.near.wf = true ∧
      (obs (fun o => { o with steps := some 0 })).core.obs.steps = some 0 ∧ (obs (fun o => { o with steps := some 0 })).core.obs.stopped = false := by
  dsimp only; repeat' apply And.intro
  all_goals decide +kernel

/-- `ClocksSteer`: a part that is up; a count at which the nominal may fall and one at which it may rise; a change planned, and the step
at which it takes effect. -/
theorem test_witness_clocks :
    let s := fun (mhz : BitVec 16) (f : Nib → Nib) => ({ State.reset with nib := f { State.reset.nib with stage := 7, mode := 1, nom := mhz } } : State)
    let low := s 1500 (fun n => { n with lowAt := some (0 - 10000000) })
    let cool := s 1000 (fun n => { n with coolAt := some (0 - 100000000) })
    let due := s 1500 (fun n => { n with newNom := some (0, 1000) })
    low.nib.power = true ∧ low.nib.off = false ∧ low.nib.mode = 1 ∧ 1000 < low.nib.nom.toNat ∧ low.nib.newNom = none ∧
      10 ^ 7 ≤ (low.refCount - (0 - 10000000 : BitVec 48)).toNat ∧ cool.nib.nom.toNat < 1500 ∧ cool.nib.newNom = none ∧
      10 ^ 8 ≤ (cool.refCount - (0 - 100000000 : BitVec 48)).toNat ∧ (s 1500 id).nib.lowAt = none ∧ 1025 % 25 = 0 ∧ ¬(1010 % 25 = 0) ∧
      due.script = [] ∧ (due.refCount - (0 : BitVec 48)).toNat < 2 ^ 47 ∧ (∀ e ∈ due.cores, (due.focus e.1).coreDue = none) ∧ State.reset.nib.mode ≠ 1 := by
  dsimp only; repeat' apply And.intro
  all_goals decide +kernel

/-- `ChannelsRetrain`: a group in-band; a second group; drain-only waiting, idle and used; a wait of ten seconds; a channel off. -/
theorem test_witness_channels :
    let s := fun (c : Channel) (boot : Bool) => ({ State.reset with chans := State.reset.chans.set 2 c, host := { State.reset.host with retrainBoot := boot } } : State)
    let on : Channel := { Channel.off with state := 4 }
    let used := withPart (fun x => { x with valid := true, desc := { x.desc with chanEntries := [1024] } }) (s { on with waiting := true } true)
    (s on false).chanActive 2 = true ∧ (s on false).host.retrainBoot = false ∧ on.group = none ∧ on.state = 4 ∧
      ({ on with state := 6, group := some 0 } : Channel).group = some 0 ∧ (s on true).host.retrainBoot = true ∧ on.waiting = false ∧
      (s { on with waiting := true } true).parts = [] ∧ (∃ e ∈ used.parts, e.2.valid = true ∧ ∃ i ∈ e.2.desc.chanEntries, i / 512 = 2) ∧
      10 ^ 9 ≤ ((1000000000 : BitVec 48) - on.since).toNat ∧ on.expired = false ∧ Channel.off.state = 0 ∧
      4 ≤ on.state.toNat ∧ on.state.toNat ≤ 6 ∧ ({ on with state := 3, group := some 1 } : Channel).state = 3 ∧ on.next ≠ some 1 ∧
      ({ on with state := 3, group := some 1, half := true } : Channel).half = true := by
  dsimp only; repeat' apply And.intro
  all_goals decide +kernel

/-- `PartStarts`: power off, stage 1 of a start, a count of 3; an image too short to be signed; a start that runs. -/
theorem test_witness_starts :
    State.reset.nib.power = true ∧ State.reset.nib.stage = 1 ∧ State.reset.nib.failcnt ≠ 3 ∧
      ({ State.reset.nib with failcnt := 3 } : Nib).failcnt = 3 ∧ ¬(64 + 0 + 3284 ≤ ([] : List Byte).length) ∧ ({ State.reset.nib with stage := 3 } : Nib).stage ≠ 1 := by
  repeat' apply And.intro
  all_goals decide +kernel

/-- `StartStages`: a die and a module to heat; the self-test due, with findings that leave a part and that leave none; 0 °C; a part ready. -/
theorem test_witness_stages :
    let s := fun (n : Nat) => ({ State.reset with nib := { State.reset.nib with stage := n } } : State)
    let cold : State := { s 3 with dies := State.reset.dies.set 1 { Die.reset with warm := false, hot := -20 }, chans := State.reset.chans.set 2 { Channel.off with state := 2 } }
    (cold.die 1).warm = false ∧ (cold.chan 2).state = 2 ∧ ({ cold.chan 2 with state := 1, temp := 0xF6 } : Channel).temp.toInt < 0 ∧ cold.nib.stage = 3 ∧ (∀ e : Fin 4, (s 3).dies[e].warm = true) ∧
      (∀ c : Fin 24, (s 3).chans[c].state ≠ 2) ∧ 0 ∉ (s 3).fuses.cores ∧ 0 ∉ (s 3).fuses.chans ∧ (s 3).nib.mode = 0 ∧ (s 3).nib.power = true ∧
      (s 3).nib.off = false ∧ (s 6).nib.stage = 6 ∧ (s 7).nib.stage = 7 ∧ (∀ c < 24, c ∈ List.range 24) := by
  dsimp only; repeat' apply And.intro
  all_goals decide +kernel

/-- `PartResets`: a part in a start and one that runs, with and without the supply. -/
theorem test_witness_resets :
    let s := fun (n : Nat) (m : BitVec 2) => ({ State.reset with nib := { State.reset.nib with stage := n, mode := m } } : State)
    (s 3 0).nib.power = true ∧ (s 3 0).nib.off = false ∧ (s 3 0).nib.mode = 0 ∧ (s 3 0).nib.stage ≠ 0 ∧ (s 7 1).nib.mode ≠ 0 ∧ (s 7 1).hostUp = true ∧
      ({ (s 7 1).nib with power := false } : Nib).power = false ∧ ({ s 7 1 with host := { State.reset.host with link := false } } : State).hostUp = false := by
  dsimp only; repeat' apply And.intro
  all_goals decide +kernel

/-- A command block: its first bytes, zeros after them. -/
def block0 (l : List Byte) : List Byte := l ++ List.replicate (4096 - l.length) 0

/-- Nib running a command of a route in a mode. -/
def onNib (r : Route) (l : List Byte) (f : Nib → Nib) : State :=
  withPart id { State.reset with nib := f { State.reset.nib with stage := 7, mode := 1, cmd := some ⟨r, block0 l⟩ } }

/-- `NibAnswers`: a block to take and one whose STATUS is not 0; each command, its refusals by route, mode and operand. -/
theorem test_witness_nib :
    let asked := fun (b : List Byte) => ({ State.reset with nib := { State.reset.nib with stage := 7, asked := [.host], mail := Mem.write [] 0 b } } : State)
    let code := fun (s : State) => s.nib.cmd.map (fun c => natOfBytes (c.block.take 2))
    let q := fun (p : Byte) => onNib .host ([3, 0] ++ List.replicate 38 0 ++ [p]) id
    ((asked [1, 0, 0]).nib.cmd = none ∧ (asked [1, 0, 0]).nib.asked.head? = some .host ∧ (asked [1]).routeWaits .host = false ∧
      Sparse.get 0 (asked [1, 0, 2]).nib.mail 2 ≠ 0 ∧ Sparse.get 0 (asked [1, 0, 0]).nib.mail 2 = 0 ∧ State.reset.nib.stage = 1) ∧
      (∀ k ∈ ([1, 2, 3, 5, 9, 0x21] : List Byte), code (onNib .host [k] id) = some k.toNat) ∧ (block0 [1]).length = 4096 ∧
      code (onNib (.part 3) [5] id) = some 5 ∧ (onNib .host [3] (fun n => { n with mode := 2 })).nib.mode = 2 ∧ (onNib .host [0x20] id).nib.mode ≠ 2 ∧
      (q 127).part? 3 ≠ none ∧ (q 3).part? 4 = none ∧ ((q 3).nib.cmd.map (fun c => natOfBytes ((c.block.drop 40).take 1))) = some 3 ∧
      ¬(2 ^ 30 ≤ (q 3).nib.counter.toNat) ∧ 2 ^ 30 ≤ (0x40000000 : Word).toNat ∧
      ((onNib .host ([5, 0] ++ List.replicate 6 0 ++ [6]) id).nib.cmd.map (fun c => natOfBytes ((c.block.drop 8).take 1))) = some 6 := by
  dsimp only; repeat' apply And.intro
  all_goals decide +kernel

/-- `NibPerforms`: a key slot empty, taken, out of range; an image of no type; the two steps of an unlock. -/
theorem test_witness_nib_performs :
    let num := fun (s : State) (i l : Nat) => s.nib.cmd.map (fun c => natOfBytes ((c.block.drop i).take l))
    let key := fun (lo hi p : Byte) => onNib .host ([0x11, 0] ++ List.replicate 6 0 ++ [lo, hi, p]) id
    let m := onNib .host [4] (fun n => { n with moult := true })
    num (key 5 0 3) 8 2 = some 5 ∧ num (key 5 0 3) 10 1 = some 3 ∧ Sparse.find (key 5 0 3).keys 5 = none ∧ num (key 0 8 3) 8 2 = some 2048 ∧
      (key 5 0 4).part? 4 = none ∧ Sparse.canon Core.reset (key 5 0 3).others = true ∧
      (∀ e ∈ (key 5 0 3).cores, e.2.x.wbs = [] ∧ e.2.x.accs = []) ∧ ((key 5 0 3).keys.map Prod.fst).Pairwise (· < ·) ∧ KeysOk (key 5 0 3) ∧ (key 5 0 3).nib.power = true ∧ (key 5 0 3).nib.off = false ∧ (key 5 0 3).nib.stage ≠ 1 ∧
      (block0 ([0x11, 0] ++ List.replicate 6 0 ++ [5, 0, 3])).length = 4096 ∧ imageType ((block0 [0x20]).drop 8) = 0 ∧
      imageType ((block0 ([0x20, 0] ++ List.replicate 6 0 ++ [1])).drop 8) = 1 ∧
      m.nib.moult = true ∧ m.nib.mode ≠ 2 ∧ (∀ e ∈ m.parts, e.2.table = []) ∧ (∀ e ∈ m.cores, RunOut e.2 ∧ e.2.share.live = false ∧ e.2.share.phase ≠ .swapOut) ∧
      (onNib .host [4] id).nib.moult = false ∧ ¬(∀ e ∈ (onX false 0 id).cores, RunOut e.2 ∧ e.2.share.live = false ∧ e.2.share.phase ≠ .swapOut) := by
  unfold KeysOk RunOut; dsimp only; repeat' apply And.intro
  all_goals decide +kernel

/-- `FloatsRoundOnce`, `DecodeAndEncodeAgree`: a value that rounds within a format and one that overflows; a well-formed word of a stream. -/
theorem test_witness_rounding :
    binary16 ∈ [binary32, binary16, bfloat16] ∧ (3 : Nat) ≠ 0 ∧ (roundFp binary16 .rne false 3 (-1) false).2 &&& fOF = 0 ∧
      (roundFp binary16 .rtz true 3 40 false).2 &&& fOF ≠ 0 ∧ (Instr.add h0 ⟨4, 1, 22⟩).stream? = some .seq ∧ wf (.add h0 ⟨4, 1, 22⟩) = true ∧
      decode .seq 0x0100_081B_0000_0000_0000_0000 = some (.add h0 ⟨4, 1, 22⟩) := by
  decide +kernel

/-- `FormsComplete`: a supervisor's register word, fences, near words of the vector engine at a part that does nothing else. -/
theorem test_witness_words_complete :
    let s := onSeq (fun q => { q with sup := true })
    let v := vm0 false
    let f : VM := ⟨0, 5, false, 0, 0x0FFFFE, 1, false, 0, false, 0, 0, 1, 0⟩
    Runs h0 s ∧ s.core.badReg = [] ∧ s.core.seq.sup = true ∧ (∀ e ∈ engines, (s.core.eng e).pipe = false) ∧ v.core.ev.pipe = false ∧
      v.core.badReg = [] ∧ v.core.near.poison = [] ∧ v.core.near.wf = true ∧ f.lvl = false ∧ vmOk f (v.seeSh 10 f.sh) = true ∧ f.reg.toNat < 64 ∧
      (∀ e, vmMoves v f e → vmAddr v f e % 1 = 0 ∧ vmAddr v f e + 1 ≤ 2 ^ 20) ∧ (∃ e, vmMoves v f e) ∧ (∀ a, v.core.nearBusy a = false) ∧
      (0x100000 - 32) % 32 = 0 ∧ 0x100000 - 32 + 32 ≤ 2 ^ 20 := by
  have small : ∀ e, vmMoves (vm0 false) ⟨0, 5, false, 0, 0x0FFFFE, 1, false, 0, false, 0, 0, 1, 0⟩ e → e < 2 := fun e he =>
    lt_of_lt_of_eq he.1 (by decide +kernel)
  dsimp only [Runs, NoLoopEnds]; repeat' apply And.intro
  all_goals first
    | decide +kernel
    | exact fun _ => rfl
    | exact ⟨0, by unfold vmMoves; decide +kernel⟩
    | intro e he; have h := small e he; interval_cases e <;> decide +kernel

/-- `FormsComplete`: a trap, a window, launches to be made ready, aged and staged, and cores for the debugger. -/
theorem test_witness_events_complete :
    let e := trapsIn true true [trap0 1 .seq]
    let c : Ckpt := ⟨Bank.zero, 4, 9, 0, 0, Vector.replicate 2 0, Vector.replicate 3 none, 0⟩
    let w := onSeq (fun q => { q with traps := [trap0 0x19 .m], draining := true, rpl := true, ckpt := some c, count := 2 })
    let run := launch0 (fun l => { l with running := true })
    let l := launch0 (fun l => { l with num := 2, ring := 2, age := 1000 })
    let s := sched [] (fun x => { x with pen := true, age := 1000, table := [run, l] }) State.reset
    let o := fun (f : Obs → Obs) => (fun (s : State) => ({ s with nib := { s.nib with debugOpen := true, scope := 7 } } : State)) (onCore (fun k => { k with obs := f k.obs }))
    e.core.quiet = true ∧ e.core.seq.traps = [trap0 1 .seq] ∧ e.core.seq.draining = true ∧ e.core.seq.sup = false ∧ e.core.seq.sen = true ∧
      e.core.frozen = false ∧ e.core.seq.replays = false ∧ e.stopsOpen = false ∧ ¬(e.core.share.stop = true ∧ e.core.share.fault = true) ∧
      w.core.quiet = true ∧ w.core.seq.rpl = true ∧ w.core.seq.count.toNat < 3 ∧ w.core.seq.ckpt = some c ∧ w.core.frozen = false ∧
      KeysOk s ∧ s.part? 3 = some { Part.fresh (desc0 0 2) 0 with pen := true, age := 1000, table := [run, l] } ∧ l.ready = true ∧ l.status = none ∧
      (∀ m ∈ [run, l], m.resident = false ∧ m.accepting = false ∧ m.outrank = false) ∧ [run, l].find? (fun m => m.running) = some run ∧
      run.status = none ∧ run.prio < l.startPrio ∧ l.bad (s.members (Part.fresh (desc0 0 2) 0)).length = false ∧ l.running = false ∧ l.prio < 3 ∧
      (1000 : BitVec 32).toNat ≤ l.age ∧ (1000 : BitVec 32) ≠ 0 ∧ (∀ j < 3, ((launch0 id).w 6).getLsbD (60 + j) = false) ∧ s.hostUp = true ∧
      (s.die 0).today = [] ∧ (o id).nib.debugOpen = true ∧ (o id).nib.scope = 7 ∧ (o id).core.obs.stopped = false ∧
      (o (fun x => { x with stopped := true })).core.obs.stopped = true ∧ (o id).core.x.flight = [] ∧ (o id).core.mat.loads = [] ∧ (o id).core.mat.feeds = [] := by
  unfold KeysOk; dsimp only; repeat' apply And.intro
  all_goals decide +kernel

/-! ### Small steps and worked values of the spec -/

/-- What holds after a step. -/
def post (r : Host.Outcome State Fault Refusal) (p : State → Bool) : Bool :=
  match r with
  | .next t => p t
  | _ => false

/-- A step leaves one result in flight: this. -/
def lands (r : Host.Outcome State Fault Refusal) (l : Land) : Bool := post r (fun t => t.core.x.flight.map Result.land == [l])

/-- A step gives `s4` a word: it holds it, or the result is in flight. -/
def gives (r : Host.Outcome State Fault Refusal) (v : Word) : Bool :=
  post r (fun t => if t.core.x.flight.isEmpty then t.core.seq.thr.get 4 == v else t.core.x.flight.map Result.land == [.sreg false 4 v])

/-- `s1` and `s22` hold two words. -/
def two (a b : Word) : State := withReg 1 a (withReg 22 b State.reset)

/-- R177: sums and differences wrap; shifts take the low six bits of SB; products' high halves; signed and unsigned order. -/
theorem test_scalar_registers :
    (let m := two 0xFFFFFFFFFFFFFFFF 13
     gives (exec (.add h0 ⟨4, 1, 22⟩) m) 12 = true ∧ gives (exec (.sub h0 ⟨4, 22, 1⟩) m) 14 = true ∧
       gives (exec (.minS h0 ⟨4, 1, 22⟩) m) 0xFFFFFFFFFFFFFFFF = true ∧ gives (exec (.maxS h0 ⟨4, 1, 22⟩) m) 13 = true ∧
       gives (exec (.minu h0 ⟨4, 1, 22⟩) m) 13 = true ∧ gives (exec (.maxu h0 ⟨4, 1, 22⟩) m) 0xFFFFFFFFFFFFFFFF = true ∧
       gives (exec (.mulhu h0 ⟨4, 1, 22⟩) m) 12 = true ∧ gives (exec (.mulh h0 ⟨4, 1, 22⟩) m) 0xFFFFFFFFFFFFFFFF = true ∧
       gives (exec (.mul h0 ⟨4, 1, 22⟩) m) 0xFFFFFFFFFFFFFFF3 = true) ∧
      (let n := two 0x8000000000000001 65
       gives (exec (.shl h0 ⟨4, 1, 22⟩) n) 2 = true ∧ gives (exec (.shr h0 ⟨4, 1, 22⟩) n) 0x4000000000000000 = true ∧
         gives (exec (.sar h0 ⟨4, 1, 22⟩) n) 0xC000000000000000 = true ∧ gives (exec (.andS h0 ⟨4, 1, 22⟩) n) 1 = true ∧
         gives (exec (.orS h0 ⟨4, 1, 22⟩) n) 0x8000000000000041 = true ∧
         gives (exec (.xorS h0 ⟨4, 1, 22⟩) n) 0x8000000000000040 = true) := by
  decide +kernel

/-- R178: the immediate is SB. -/
theorem test_scalar_immediates :
    let m := two 6 0
    gives (exec (.addi h0 ⟨4, 1, 0xFFFFFFFFFFFFFFFE⟩) m) 4 = true ∧ gives (exec (.li h0 ⟨4, 0, 0x123456789ABCDEF0⟩) m) 0x123456789ABCDEF0 = true ∧
      gives (exec (.andi h0 ⟨4, 1, 3⟩) m) 2 = true ∧ gives (exec (.ori h0 ⟨4, 1, 1⟩) m) 7 = true ∧
      gives (exec (.xori h0 ⟨4, 1, 5⟩) m) 3 = true ∧ gives (exec (.shli h0 ⟨4, 1, 66⟩) m) 24 = true ∧
      gives (exec (.shri h0 ⟨4, 1, 1⟩) m) 3 = true ∧ gives (exec (.sari h0 ⟨4, 1, 1⟩) m) 3 = true ∧
      gives (exec (.muli h0 ⟨4, 1, 7⟩) m) 42 = true := by
  decide +kernel

/-- R175, R182-R184: a guard that fails leaves a word without effect but its GAP; a call keeps the index after it, and `ret` goes there. -/
theorem test_control :
    post (exec (.add hp ⟨4, 1, 22⟩) (two 1 2)) (fun t => t.core.x.flight.isEmpty && t.core.seq.pc == 1 && t.core.seq.wait == 4) = true ∧
      post (exec (.br h0 ⟨300⟩) State.reset) (fun t => t.core.seq.pc == 300) = true ∧
      post (exec (.call h0 ⟨300⟩) State.reset) (fun t => t.core.seq.pc == 300 && t.core.seq.thr.depth == 1 && t.core.seq.thr.stack[0] == 1 &&
        post (exec (.ret h0) t) (fun u => u.core.seq.pc == 1 && u.core.seq.thr.depth == 0)) = true := by
  decide +kernel

/-- R120, R193: a scalar store of four bytes to the near store, little-endian, and a load of eight. -/
theorem test_near :
    let s := withReg 5 0x1122334455667788 (withReg 7 64 State.reset)
    post (exec (.st h0 ⟨5, 7, 8, 2, false, 0, 0, 0, 0⟩) s) (fun t => t.core.near.read 72 5 == [0x88, 0x77, 0x66, 0x55, 0]) = true ∧
      lands (exec (.ld h0 ⟨6, 7, 0xFFFFF8, 3, false, 0, 0, 0, 0⟩) { s with core := { s.core with near := Store.empty.write 56 [1, 2, 3, 4, 5, 6, 7, 8] } })
        (.sreg false 6 0x0807060504030201) = true := by
  decide +kernel

/-- R54, R55, the example: dimension 0 of extent 3 and dimension 1 of extent 2 in order 1, 0, serpentine along 0. -/
theorem test_walk_order :
    let h : Share := { Share.idle with dims := [3, 2], order := [1, 0], serp := 1, tiles := 6 }
    (List.range 6).map (fun t => (h.index t 1, h.index t 0)) = [(0, 0), (0, 1), (0, 2), (1, 2), (1, 1), (1, 0)] := by
  decide +kernel

/-- R93, the short case with E4M3F in native mode: 300.0, 0.02 and thirty zeros. -/
theorem test_quantise_short :
    (quantise 6 false false ([0x43960000, 0x3CA3D70A, 0, 0].map (readFp binary32))) = ([0x79, 0x0A, 0, 0], 0x7F, fNX) := by decide +kernel

/-- R93, blocks 0 to 3 of the quantiser kernel: ties to even, subnormals and zeros; saturation; a NaN; an infinity under each INFMODE. -/
theorem test_quantise_blocks :
    quantise 6 false false ([0x43E00000, 0x3F880000, 0x3F980000, 0xBF880000, 0x3BA00000, 0x3BE00000, 0x3C700000, 0x3A800000, 0xBA000000, 0x80000000].map (readFp binary32)) =
      ([0x7E, 0x38, 0x3A, 0xB8, 0x02, 0x04, 0x08, 0, 0, 0], 0x7F, fNX) ∧
    quantise 6 false false ([0x447A0000, 0xC4700000, 0x40400000, 0xBE800000].map (readFp binary32)) = ([0x7F, 0xFF, 0x3C, 0xA0], 0x80, fOF ||| fNX) ∧
    quantise 6 false true ([0, 0x7FC00000, 0x7F800000].map (readFp binary32)) = ([0, 0, 0], 0xFF, fIV) ∧
    quantise 6 false false ([0, 0xFF800000].map (readFp binary32)) = ([0, 0], 0xFF, fIV) ∧
    (quantise 6 false true ([0, 0xFF800000].map (readFp binary32))).2.1 = 0xF6 := by
  decide +kernel

/-- R97, the worked BF16 block. -/
theorem test_feed_bf16 :
    feedBlock 5 [0x4040, 0xBF00, 0x3940, 0x39A0, 0x38C0, 0] 0 = some ([24576, -4096, 2, 2, 1, 0], -13) := by decide +kernel

/-- R96, R99, R264, one column under two ALSB: P = 5,763 at exponent −6. -/
theorem test_contribution :
    feedBlock 0xF [64, 0xC1, 0] 0x80 = some ([64, -63, 0], -5) ∧ contribution 5763 0 = (5763, false) ∧ contribution 5763 (-2) = (1440, false) ∧
      roundInt binary32 .rne false 5763 (-6) = (0x42B41800, 0) ∧ roundInt binary32 .rne false 1440 (-4) = (0x42B40000, 0) ∧
      (roundInt bfloat16 .rne false 5763 (-6)).1 = 0x42B4 := by
  decide +kernel

/-- R107, R108, the worked cell: 2.0, 0.3 and −0.75 in two orders. -/
theorem test_binned :
    let a := cellAdd (cellAdd (cellAdd (cellInit 4) 0x40000000) 0x3E99999A) 0xBF400000
    let b := cellAdd (cellAdd (cellAdd (cellInit 4) 0xBF400000) 0x40000000) 0x3E99999A
    a = b ∧ cellField a 64 64 = 1625292 ∧ cellField a 128 64 = 13631488 ∧ cellField a 192 64 = 0 ∧ cellRead a = 0x3FC66666 ∧
      cellRead (cellAdd (cellAdd (cellInit 4) 0x40000000) 0x3E99999A) = 0x40133333 := by
  decide +kernel

/-- R241-R249, the worked row: its gain of 1.0, and the cosine of a vector of ±1,448 with itself. -/
theorem test_quill_row :
    let q := Quill.of ((List.range 128).map (fun i => if i % 4 < 2 then 1448 else -1448)) 0x38000
    qrmsElem binary32 .rne q 1448 0x3F800000 = (0x3F7FF900, fNX) ∧ (qrmsElem binary32 .rne q (-1448) 0x3F800000).1 = 0xBF7FF900 ∧
      qcosVal .rne q q = (0x3F7FF200, 0) ∧ (qsubVal q q).1 = Quill.zero := by
  decide +kernel

/-- R353-R359, the worked walk, and the same with a leaf where a 2 MiB page is not aligned. -/
theorem test_worked_walk :
    let d : Config.Descriptor := { desc0 0 2 with windows := [(0x100, 0x3FF00)], bindings := [⟨7, 0x1000000, 5, true⟩] }
    let s := fun (e : Nat) => withPart (fun x => { x with desc := d }) { State.reset with
      keys := [(0, ⟨0, none⟩), (5, ⟨0, some 3⟩)]
      main := [(0x1000008, 0x1010001), (0x1010010, 0x1011001), (0x1011018, e), (0x1012020, 0x000A00023456001B)].foldl
        (fun m e => m.write e.1 (bytesOfNat 8 e.2)) Store.empty }
    (match (s 0x1012001).translate 3 7 .write 0x8080640000 with
      | .ok l => l.pbn == 0x234560 && l.key == 5 && l.at_ && l.w
      | .error _ => false) = true ∧
      (s 0x1012003).walk 3 7 0x8080640000 = .error (5, 2) ∧ faultAddr 5 2 0x8080640 0 = 0x0005200008080640 := by
  dsimp only; repeat' apply And.intro
  all_goals decide +kernel

/-- R373-R375, one bank and six events: the record of tick 200 stands until SEEN, and the next of its class replaces it. -/
theorem test_bank :
    let e := fun (k : BitVec 8) => plainEvent k 0x20 3 0 0
    let b4 := recordIn (recordIn (recordIn (recordIn (Vector.replicate 8 0) (e 1) 100) (e 8) 200) (e 1) 210) (e 0x0A) 220
    b4[1] = 200 ∧ b4[0].getLsbD 63 = true ∧ (fieldAt b4[0] 60 2 : BitVec 2) = 1 ∧ b4[0].getLsbD 59 = true ∧
      (recordIn (b4.set 0 (b4[0] ||| (1#64 <<< 62))) (e 8) 1400)[1] = 1400 ∧
      (recordIn (b4.set 0 (b4[0] ||| (1#64 <<< 62))) (e 8) 1400)[0].getLsbD 59 = false := by
  decide +kernel

/-- R154: byte i of a word holds bits 8i + 7 to 8i. -/
theorem test_word_bytes : wordBytes 0x0100_081B_0000_0000_0000_0000 = [0, 0, 0, 0, 0, 0, 0, 0, 0x1B, 0x08, 0x00, 0x01] := by decide +kernel

/-- R42: the headers of the listing, X section 1 and V section 1. -/
theorem test_headers :
    (let h := Header.parse 0xA001001FFFFFF800
     h.secno = 1 ∧ h.len = 1 ∧ h.after1 = 0xFFF ∧ h.after2 = 0xFFF ∧ Header.faulty .x h = false) ∧
      (let h := Header.parse 0xA001004001FFF000
       h.secno = 1 ∧ h.len = 4 ∧ h.after1 = 1 ∧ h.after2 = 0xFFF ∧ Header.faulty .v h = false) := by
  decide +kernel

/-- R249, the worked row: codes ±127 under scale 0x7E, OF set. -/
theorem test_qq8 :
    let q := Quill.of ((List.range 128).map (fun i => if i % 4 < 2 then 1448 else -1448)) 0x38000
    (qq8Val q).1.take 4 = [0x7F, 0x7F, 0x81, 0x81] ∧ (qq8Val q).2.1 = [0x7E, 0x7E, 0x7E, 0x7E] ∧ (qq8Val q).2.2 &&& fOF = fOF := by
  decide +kernel

/-- R240, the worked row: directions ±1,448 and the norm 0x03_8000. -/
theorem test_qfrom :
    canonFp ((List.range 128).map (fun i => readFp binary32 (if i % 4 < 2 then 0x3F800000 else 0xBF800000))) =
      (Quill.of ((List.range 128).map (fun i => if i % 4 < 2 then 1448 else -1448)) 0x38000, 0) := by
  decide +kernel

end Sys2Proof.Tests
end

/-! ## A frozen core (R66)

O9 fails: `State.pass` ticks the cores one after another, and asks whether a core is frozen only when its own turn comes.
The tick of a receiver takes in a push that waited for room and ends the access of its sender, so a sender whose landing
was late for that push alone is frozen as the tick begins and is not when its turn comes: its SCYC counts. -/

section
namespace Sys2Proof.Proofs.FrozenCore

open Sys2Proof Sys2Proof.Machine

/-- A push from core 1 that waits at core 0 (R279). -/
def waitingPush : Payload :=
  { launch := 0, pkg := none, src := 1, tag := 0, len := 16, data := Store.empty, push := true }

/-- What the landing of core 1 claims; it is in its landing buffer (R68, R278). -/
def earlyPayload : Payload :=
  { launch := 0, pkg := none, src := 3, tag := 7, len := 16, data := Store.empty, push := false }

/-- The access of core 1 for its push: not performed while the push waits at its receiver. -/
def pushAcc : Acc :=
  { id := 0, strm := .x, ord := 0, secno := 0, widx := 0, cls := 1, reach := 3, foot := [], acq := 0, rel := 0,
    after := [], due := none, by_ := some 0, sup := false, snap := [], raced := [], kind := .push none 0 Store.empty 16 }

/-- A landing of core 1 in its arrival cycle, ordered after the push, which is of its class (R139). -/
def landAcc : Acc :=
  { id := 1, strm := .x, ord := 0, secno := 0, widx := 1, cls := 1, reach := 3, foot := [], acq := 0, rel := 0,
    after := [pushAcc.id], due := some 0, by_ := none, sup := false, snap := [], raced := [], kind := .land none 3 7 0 16 }

/-- Core 0: a push of core 1 waits, and its inflow queue has room for it again. -/
def receiver : Core :=
  { Core.reset with
    share := { Share.idle with phase := .running },
    x := { XEng.reset with waiting := [(some (1, pushAcc.id), waitingPush)] } }

/-- Core 1: its landing is late for the push alone. -/
def sender : Core :=
  { Core.reset with
    share := { Share.idle with phase := .running },
    x := { XEng.reset with landing := [earlyPayload], accs := [pushAcc, landAcc], nid := 2 } }

/-- The receiver in focus and the sender, on one die. -/
def pushBeforeRoom : State := { State.reset with core := receiver, others := [(1, sender)] }

theorem keysOk_pushBeforeRoom : KeysOk pushBeforeRoom := by
  unfold KeysOk; decide +kernel

theorem sender_frozen : (pushBeforeRoom.coreAt 1).frozen = true := by decide +kernel

/-- The receiver's tick ends the push, and with it what the sender's landing waited for; the sender's own tick, next in the
same pass, is a cycle that counts. -/
theorem sender_thaws_and_counts :
    (pushBeforeRoom.tickCore.coreAt 1).frozen = false ∧ (pushBeforeRoom.coreAt 1).seq.scyc = 0 ∧
      (pushBeforeRoom.pass.coreAt 1).seq.scyc = 1 := by
  decide +kernel

/-- Refutes O9: in `pushBeforeRoom` core 1 is frozen, and its SCYC goes from 0 to 1 as time goes on. -/
theorem not_frozenCoreStands : ¬ Obligations.FrozenCoreStands := by
  unfold Obligations.FrozenCoreStands
  rintro ⟨-, scycHolds, -⟩
  have held := scycHolds pushBeforeRoom 1 keysOk_pushBeforeRoom sender_frozen
  obtain ⟨-, before, after⟩ := sender_thaws_and_counts
  rw [before, after] at held
  exact absurd held (by decide)

end Sys2Proof.Proofs.FrozenCore
end

/-! ## Words of the control stream (R154, R162, R174-R188, R202, R203)

The scalar words, the branches, `wait`, `nop` and the words that trap: how their bits are laid out, what each does and what it
leaves alone, and what any trap of the word at PC does. -/

section
namespace Sys2Proof.Proofs.SequencerWords

open Sys2Proof Sys2Proof.Machine

/-! ### Words laid out field by field (R162) -/

theorem place_toNat {n : Nat} (lo : Nat) (x : BitVec n) : place lo x = BitVec.ofNat 96 (x.toNat * 2 ^ lo) := by
  apply BitVec.eq_of_toNat_eq
  simp [place, Nat.shiftLeft_eq]

theorem place_append {n m : Nat} (lo : Nat) (x : BitVec n) (y : BitVec m) :
    place lo (x ++ y) = place (lo + m) x ||| place lo y := by
  apply BitVec.eq_of_getLsbD_eq
  intro i hi
  rw [bit_or, getLsbD_place, getLsbD_place, getLsbD_place, BitVec.getLsbD_append]
  rcases Nat.lt_or_ge i (lo + m) with low | high
  · by_cases reached : lo ≤ i
    · simp [show i - lo < m by omega, show ¬lo + m ≤ i by omega]
    · simp [reached, show ¬lo + m ≤ i by omega]
  · rw [BitVec.getLsbD_of_ge y (i - lo) (by omega)]
    simp [show ¬i - lo < m by omega, show lo ≤ i by omega, high, Nat.sub_sub]

/-- A field that stands above all that a word holds is added to it. -/
theorem bitsAt_cons {n lo : Nat} (x : BitVec n) {l : List (Nat × Nat)} (h : Low (bitsAt l) lo) :
    bitsAt ((lo, x.toNat) :: l) = place lo x ||| bitsAt l := by
  have apart : place lo x &&& bitsAt l = 0#96 := by
    apply BitVec.eq_of_getLsbD_eq
    intro i _
    rcases Nat.lt_or_ge i lo with below | above
    · simp [bit_off lo x i (.inr below)]
    · simp [h.zero i above]
  rw [← BitVec.add_eq_or_of_and_eq_zero _ _ apart, place_toNat]
  simp [bitsAt, BitVec.ofNat_add]

/-- With the field it still lies below the bit after it. -/
theorem low_bitsAt_cons {n lo : Nat} (x : BitVec n) {l : List (Nat × Nat)} (h : Low (bitsAt l) lo) :
    Low (bitsAt ((lo, x.toNat) :: l)) (lo + n) := by
  rw [bitsAt_cons x h]
  exact low_or (low_place lo _ x (Nat.le_refl _)) (h.mono (Nat.le_add_right _ _))

theorem bitsAt_one {n : Nat} (lo : Nat) (x : BitVec n) : bitsAt [(lo, x.toNat)] = place lo x :=
  (bitsAt_cons (l := []) x (low_zero lo)).trans BitVec.or_zero

theorem bitsAt_three {n m k a b c : Nat} (x : BitVec n) (y : BitVec m) (z : BitVec k) (hb : b + m ≤ a) (hc : c + k ≤ b) :
    bitsAt [(a, x.toNat), (b, y.toNat), (c, z.toNat)] = place a x ||| place b y ||| place c z := by
  have lowZ : Low (bitsAt [(c, z.toNat)]) b := (low_bitsAt_cons (l := []) z (low_zero c)).mono hc
  rw [bitsAt_cons x ((low_bitsAt_cons y lowZ).mono hb), bitsAt_cons y lowZ, bitsAt_one, BitVec.or_assoc]

/-- OP, GAP and guard stand above the fields of a control-stream word. -/
theorem seqBits_eq (op : BitVec 8) (h : Head) {l : List (Nat × Nat)} (hl : Low (bitsAt l) 78) :
    seqBits op.toNat h l = opWord op h ||| bitsAt l := by
  obtain ⟨gap, guard⟩ := h
  cases guard with
  | none =>
    have lowGap := (low_bitsAt_cons gap (hl.mono (show 78 ≤ 83 by omega)))
    show bitsAt ((88, op.toNat) :: (83, gap.toNat) :: l) = place 88 op ||| place 83 gap ||| place 78 0#5 ||| bitsAt l
    rw [bitsAt_cons op lowGap, bitsAt_cons gap (hl.mono (by omega)), show place 78 0#5 = 0#96 from rfl, BitVec.or_zero,
      BitVec.or_assoc]
  | some g =>
    obtain ⟨neg, p⟩ := g
    have lowP := (low_bitsAt_cons p hl)
    have lowNeg := (low_bitsAt_cons (BitVec.ofBool neg) lowP)
    have lowGuard := (low_bitsAt_cons 1#1 lowNeg)
    have lowGap := (low_bitsAt_cons gap lowGuard)
    have guarded : place 78 (guardBits (some ⟨neg, p⟩)) = place 82 1#1 ||| place 81 (BitVec.ofBool neg) ||| place 78 p := by
      rw [guardBits, place_append, place_append]
    show bitsAt ((88, op.toNat) :: (83, gap.toNat) :: (82, (1#1).toNat) :: (81, neg.toNat) :: (78, p.toNat) :: l) =
      place 88 op ||| place 83 gap ||| place 78 (guardBits (some ⟨neg, p⟩)) ||| bitsAt l
    rw [← BitVec.toNat_ofBool, bitsAt_cons op lowGap, bitsAt_cons gap lowGuard, bitsAt_cons 1#1 lowNeg,
      bitsAt_cons (BitVec.ofBool neg) lowP, bitsAt_cons p hl, guarded]
    simp only [BitVec.or_assoc]

/-- The word of each format, as the tables of fields lay it out. -/
theorem seqBits_SR (op : BitVec 8) (h : Head) (f : SR) :
    opWord op h ||| f.enc = seqBits op.toNat h [(73, f.dst.toNat), (68, f.sa.toNat), (63, f.sb.toNat)] := by
  have fields : bitsAt [(73, f.dst.toNat), (68, f.sa.toNat), (63, f.sb.toNat)] = f.enc :=
    bitsAt_three f.dst f.sa f.sb (by omega) (by omega)
  rw [seqBits_eq op h (fields ▸ f.low), fields]

theorem seqBits_SI (op : BitVec 8) (h : Head) (f : SI) :
    opWord op h ||| f.enc = seqBits op.toNat h [(73, f.dst.toNat), (68, f.sa.toNat), (4, f.imm.toNat)] := by
  have fields : bitsAt [(73, f.dst.toNat), (68, f.sa.toNat), (4, f.imm.toNat)] = f.enc :=
    bitsAt_three f.dst f.sa f.imm (by omega) (by omega)
  rw [seqBits_eq op h (fields ▸ f.low), fields]

theorem seqBits_SB (op : BitVec 8) (h : Head) (f : SB) : opWord op h ||| f.enc = seqBits op.toNat h [(59, f.tgt.toNat)] := by
  have fields : bitsAt [(59, f.tgt.toNat)] = f.enc := bitsAt_one 59 f.tgt
  rw [seqBits_eq op h (fields ▸ f.low), fields]

theorem seqBits_SW (op : BitVec 8) (h : Head) (f : SW) : opWord op h ||| f.enc = seqBits op.toNat h [(62, f.cnt.toNat)] := by
  have fields : bitsAt [(62, f.cnt.toNat)] = f.enc := bitsAt_one 62 f.cnt
  rw [seqBits_eq op h (fields ▸ f.low), fields]

/-- A word with no fields besides OP, GAP and guard. -/
theorem seqBits_head (op : BitVec 8) (h : Head) : opWord op h = seqBits op.toNat h [] :=
  ((seqBits_eq op h (l := []) (low_zero 78)).trans BitVec.or_zero).symm

theorem registerWords_bits : ∀ x ∈ srTable.zipIdx, ∀ (h : Head) (f : SR),
    encode (x.1.1 h f) = seqBits (0x01 + x.2) h [(73, f.dst.toNat), (68, f.sa.toNat), (63, f.sb.toNat)] := by
  simp only [srTable, List.zipIdx_cons, List.zipIdx_nil, List.forall_mem_cons]
  exact ⟨seqBits_SR 0x01, seqBits_SR 0x02, seqBits_SR 0x03, seqBits_SR 0x04, seqBits_SR 0x05, seqBits_SR 0x06,
    seqBits_SR 0x07, seqBits_SR 0x08, seqBits_SR 0x09, seqBits_SR 0x0A, seqBits_SR 0x0B, seqBits_SR 0x0C,
    seqBits_SR 0x0D, seqBits_SR 0x0E, seqBits_SR 0x0F, List.forall_mem_nil _⟩

theorem immediateWords_bits : ∀ x ∈ siTable.zipIdx, ∀ (h : Head) (f : SI),
    encode (x.1.1 h f) = seqBits (0x11 + x.2) h [(73, f.dst.toNat), (68, f.sa.toNat), (4, f.imm.toNat)] := by
  simp only [siTable, List.zipIdx_cons, List.zipIdx_nil, List.forall_mem_cons]
  exact ⟨seqBits_SI 0x11, seqBits_SI 0x12, seqBits_SI 0x13, seqBits_SI 0x14, seqBits_SI 0x15, seqBits_SI 0x16,
    seqBits_SI 0x17, seqBits_SI 0x18, seqBits_SI 0x19, List.forall_mem_nil _⟩

/-! ### What a decoded word is (R157) -/

/-- A word that decodes is well formed, and the word of what it decodes to. -/
theorem decode_some {e : Stream} {w : InstrWord} {i : Instr} (h : decode e w = some i) :
    rawParse e w = some i ∧ wf i = true ∧ encode i = w := by
  unfold decode at h
  split at h
  · next j raw =>
    split at h
    · next fits =>
      obtain rfl := Option.some.inj h
      simp only [Bool.and_eq_true, beq_iff_eq] at fits
      exact ⟨raw, fits⟩
    · cases h
  · cases h

/-- `li` has SA zero. -/
theorem decode_li_sa {w : InstrWord} {h : Head} {f : SI} (hd : decode .seq w = some (.li h f)) : f.sa = 0 := by
  have := (decode_some hd).2.1
  simpa [wf] using this

/-- OP 0xFE of the control stream is `nop`, with nothing besides GAP and guard. -/
theorem decode_nop (h : Head) : decode .seq (seqBits 0xFE h []) = some (.nop .seq h) := by
  rw [← show opWord 0xFE h = seqBits 0xFE h [] from seqBits_head 0xFE h]
  exact Laws.RoundTrip.nop .seq h .seq rfl rfl

theorem decode_nop_bits {w : InstrWord} (op : fieldAt w 88 8 = 0xFE#8) (bits : ∀ h : Head, w ≠ seqBits 0xFE h []) :
    decode .seq w = none := by
  refine Option.eq_none_iff_forall_not_mem.2 fun i hi => ?_
  obtain ⟨raw, -, word⟩ := decode_some hi
  have isNop : i = .nop .seq (Head.parse w) := by
    change parseSeq w = some i at raw
    unfold parseSeq at raw
    rw [op] at raw
    exact (Option.some.inj raw).symm
  subst isNop
  exact bits _ (word.symm.trans (seqBits_head 0xFE _))

/-! ### The functions of the scalar words (R177, R178) -/

theorem add_spec (a b : Word) : a + b = BitVec.ofNat 64 (a.toNat + b.toNat) := by
  simp [BitVec.ofNat_add]

theorem sub_spec (a b : Word) : a - b = BitVec.ofInt 64 ((a.toNat : Int) - b.toNat) := by
  rw [Int.sub_eq_add_neg, BitVec.ofInt_add, BitVec.ofInt_neg, BitVec.ofInt_natCast, BitVec.ofInt_natCast, BitVec.ofNat_toNat,
    BitVec.ofNat_toNat, BitVec.setWidth_eq, BitVec.setWidth_eq, BitVec.sub_eq_add_neg]

theorem mul_spec (a b : Word) : a * b = BitVec.ofNat 64 (a.toNat * b.toNat) := by
  simp [BitVec.ofNat_mul]

theorem shiftAmount_eq (b : Word) : (fieldAt b 0 6 : BitVec 6).toNat = b.toNat % 64 := by
  simp [fieldAt, BitVec.extractLsb'_toNat]

theorem shiftLeft64_spec (a b : Word) : shiftLeft64 a b = BitVec.ofNat 64 (a.toNat * 2 ^ (b.toNat % 64)) := by
  apply BitVec.eq_of_toNat_eq
  rw [shiftLeft64, shiftAmount_eq, BitVec.toNat_shiftLeft, Nat.shiftLeft_eq, BitVec.toNat_ofNat]

theorem shiftRight64_spec (a b : Word) : shiftRight64 a b = BitVec.ofNat 64 (a.toNat / 2 ^ (b.toNat % 64)) := by
  have small : a.toNat / 2 ^ (b.toNat % 64) < 2 ^ 64 := Nat.lt_of_le_of_lt (Nat.div_le_self _ _) a.isLt
  apply BitVec.eq_of_toNat_eq
  rw [shiftRight64, shiftAmount_eq, BitVec.toNat_ushiftRight, Nat.shiftRight_eq_div_pow, BitVec.toNat_ofNat, Nat.mod_eq_of_lt small]

theorem shiftArith64_spec (a b : Word) : shiftArith64 a b = BitVec.ofInt 64 (a.toInt / 2 ^ (b.toNat % 64)) := by
  rw [shiftArith64, shiftAmount_eq, BitVec.sshiftRight, Int.shiftRight_eq_div_pow]
  norm_cast

/-- Two values in order of a key: which of two with the same key comes out does not matter where they are then the same. -/
theorem ite_lt_eq_ite_le {α β : Type} [LinearOrder β] {x y : β} {a b : α} (same : x = y → a = b) :
    (if x < y then a else b) = if x ≤ y then a else b := by
  rcases lt_trichotomy x y with less | equal | more
  · rw [if_pos less, if_pos less.le]
  · rw [if_neg equal.not_lt, if_pos equal.le, same equal]
  · rw [if_neg more.asymm, if_neg (not_le.2 more)]

theorem minS64_spec (a b : Word) : minS64 a b = if a.toInt ≤ b.toInt then a else b := by
  simp only [minS64, BitVec.slt, decide_eq_true_eq]
  exact ite_lt_eq_ite_le BitVec.eq_of_toInt_eq

theorem maxS64_spec (a b : Word) : maxS64 a b = if a.toInt ≤ b.toInt then b else a := by
  simp only [maxS64, BitVec.slt, decide_eq_true_eq]
  exact ite_lt_eq_ite_le fun equal => (BitVec.eq_of_toInt_eq equal).symm

theorem minU64_spec (a b : Word) : minU64 a b = if a.toNat ≤ b.toNat then a else b := by
  simp only [minU64, BitVec.ult, decide_eq_true_eq]
  exact ite_lt_eq_ite_le BitVec.eq_of_toNat_eq

theorem maxU64_spec (a b : Word) : maxU64 a b = if a.toNat ≤ b.toNat then b else a := by
  simp only [maxU64, BitVec.ult, decide_eq_true_eq]
  exact ite_lt_eq_ite_le fun equal => (BitVec.eq_of_toNat_eq equal).symm

/-! ### Going on past no loop's end (R174, R185) -/

/-- Where no active loop ends at PC, none is the innermost that does. -/
theorem innermost_of_noLoopEnds {s : State} (h : NoLoopEnds s) : innermost s.core.seq.bank s.core.seq.pc = none := by
  have idle : ∀ i : Fin 4, (s.core.seq.bank.lc[i] != 0 && s.core.seq.bank.lend[i] == s.core.seq.pc) = false := by
    intro i
    simpa using h i
  simp only [innermost, List.foldl_cons, List.foldl_nil, idle, Bool.false_eq_true, if_false]

/-! ### The scalars a word reads (R367) -/

/-- A scalar is held poisoned where a mark names it; s0 never is. -/
theorem badScalar_iff (s : State) (i : BitVec 5) :
    s.badScalar i = true ↔ i ≠ 0 ∧ ∃ b ∈ s.core.badReg, (b.1, b.2.1) = (if s.core.seq.sup = true then 6 else 5, i.toNat) := by
  simp [State.badScalar, State.badRegs]

theorem reads_any_badScalar {s : State} {l : List (BitVec 5)} (h : RegsClean s (scalars s l)) : l.any s.badScalar = false := by
  rw [List.any_eq_false]
  intro i hi bad
  obtain ⟨nonzero, b, hb, names⟩ := (badScalar_iff s i).1 bad
  exact h b hb (names ▸ List.mem_map.2 ⟨i, List.mem_filter.2 ⟨hi, by simpa using nonzero⟩, rfl⟩)

/-! ### A scalar's result (R22, R31, R45) -/

theorem unraced_markRaced (r : Result) (fs : List Result) : (markRaced r fs).map Result.unraced = fs.map Result.unraced := by
  rw [markRaced, List.map_map]
  refine List.map_congr_left fun x _ => ?_
  simp only [Function.comp_apply]
  split <;> rfl

theorem unraced_markAccs (l : Land) (as : List Acc) : (markAccs l as).map Acc.unraced = as.map Acc.unraced := by
  rw [markAccs, List.map_map]
  refine List.map_congr_left fun a _ => ?_
  simp only [Function.comp_apply]
  split
  · split <;> rfl
  · rfl

theorem Bank.get_put (b : Bank) (d i : BitVec 5) (v : Word) : (b.put d v).get i = if i = d ∧ i ≠ 0 then v else b.get i := by
  by_cases zero : i = 0#5
  · simp [Bank.get, zero]
  · by_cases same : i = d
    · subst same
      simp [Bank.get, Bank.put, zero]
    · have apart : d.toNat ≠ i.toNat := fun e => same (BitVec.eq_of_toNat_eq e.symm)
      unfold Bank.put
      split <;> simp [Bank.get, zero, same, apart]

theorem Bank.put_frame (b : Bank) (d : BitVec 5) (v : Word) : { b.put d v with s := b.s } = b := by
  unfold Bank.put; split <;> rfl

/-- A poisoned mark goes with the whole writing of its register; the rest of the core stays. -/
theorem heal_core (s : State) (l : Land) :
    s.heal l = s.onCore (fun k => { k with badReg := k.badReg.filter (fun r => !l.whole r) }) := by
  unfold State.heal
  split
  · next none =>
    rw [List.isEmpty_iff] at none
    have : s.core.badReg.filter (fun r => !l.whole r) = s.core.badReg := by rw [none]; rfl
    simp only [State.onCore, this]
  · rfl

/-- A scalar result of bound 1 is written at once, and its marks go. -/
theorem give_scalar_now (s : State) (d : BitVec 5) (v : Word) :
    s.give .seq 1 0 (.sreg s.core.seq.sup d v) = s.onCore (fun k => { k with
      seq := k.seq.setBank (k.seq.bank.put d v),
      badReg := k.badReg.filter (fun r => !(Land.sreg s.core.seq.sup d v).whole r),
      x := { k.x with flight := markRaced (seqResult s 1 (.sreg s.core.seq.sup d v)) k.x.flight,
                      accs := markAccs (.sreg s.core.seq.sup d v) k.x.accs } }) := by
  generalize hl : Land.sreg s.core.seq.sup d v = l
  have noFlags : s.core.vec.flg ||| (seqResult s 1 l).flags = s.core.vec.flg := BitVec.or_zero
  have written : s.applyLand [] l = s.putS s.core.seq.sup d v := by rw [← hl]; rfl
  calc s.give .seq 1 0 l = s.landResult (seqResult s 1 l) := rfl
    _ = _ := by
      unfold State.landResult
      rw [show (seqResult s 1 l).raced = [] from rfl, show (seqResult s 1 l).land = l from rfl, written, heal_core]
      simp only [State.onCore, State.putS, noFlags]
      rfl

theorem innermost_put (b : Bank) (d : BitVec 5) (v : Word) (e : BitVec 14) : innermost (b.put d v) e = innermost b e := by
  simp only [innermost, Bank.put_lc, Bank.put_lend, Bank.put_lstart]

theorem setBank_thread {q : Seq} (b : Bank) (sup : q.sup = false) : q.setBank b = { q with thr := b } := by
  simp [Seq.setBank, sup]

theorem setBank_supervisor {q : Seq} (b : Bank) (sup : q.sup = true) : q.setBank b = { q with svr := b } := by
  simp [Seq.setBank, sup]

/-- Where the bank in use, PC, the cycles to the next boundary, the wait half and a check's end are all that is new of the
sequencer, its other state stays (R174). -/
theorem seqSame_of_setBank {s t : State} {b : Bank} {pc : BitVec 14} {wait : Nat} {half pipe : Bool}
    (h : t.core.seq = { s.core.seq.setBank b with pc := pc, wait := wait, half := half, pipe := pipe }) :
    SeqSame s t ∧ t.core.seq.bank = b := by
  have bank : t.core.seq.bank = (s.core.seq.setBank b).bank := by rw [h]; rfl
  refine ⟨?_, bank.trans (Seq.bank_setBank _ b)⟩
  cases sup : s.core.seq.sup with
  | false =>
    rw [SeqSame, h, setBank_thread b sup]
    exact ⟨rfl, by simp [Seq.bankOf, sup]⟩
  | true =>
    rw [SeqSame, h, setBank_supervisor b sup]
    exact ⟨rfl, by simp [Seq.bankOf, sup]⟩

/-- The marks that a whole writing of a scalar leaves. -/
theorem mem_marks_left (l : List (Nat × Nat × Nat)) (sup : Bool) (d : BitVec 5) (v : Word) (b : Nat × Nat × Nat) :
    b ∈ l.filter (fun r => !(Land.sreg sup d v).whole r) ↔
      b ∈ l ∧ ¬(b.1 = (if sup = true then 6 else 5) ∧ b.2.1 = d.toNat) := by
  simp [Land.whole, List.mem_filter, imp_iff_not_or]

/-- A word whose effect is one scalar result. -/
def scalarWord (l : List (BitVec 5)) (n : Nat) (d : BitVec 5) (v : State → Word) (h : Head) (s : State) : State :=
  s.issueSeq { reads := l } h fun t => .next (t.give .seq n 0 (.sreg t.core.seq.sup d (v t)))

section
variable {h : Head} {l : List (BitVec 5)} {s : State} (runs : RunsOn h l s) (d : BitVec 5) (v : State → Word)
include runs

/-- Once its effect is done, it goes on to the next word. -/
theorem scalarWord_goes {n : Nat} {t : State}
    (given : s.issues.give .seq n 0 (.sreg s.core.seq.sup d (v s.issues)) = t)
    (bounds : innermost t.core.seq.bank t.core.seq.pc = innermost s.core.seq.bank s.core.seq.pc) :
    scalarWord l n d v h s = (t.goTo (t.core.seq.pc + 1) (1 + h.gap.toNat)).seqChecked.bump := by
  obtain ⟨⟨⟨guard, check⟩, noEnd⟩, clean⟩ := runs
  exact issueSeq_next (fun priv => Bool.noConfusion priv) guard (reads_any_badScalar (s := s.issues) clean) check
    (congrArg SRes.next given) (bounds.trans (innermost_of_noLoopEnds noEnd))

theorem scalarWord_now : GivesScalar s (scalarWord l 1 d v h s) h d 1 (v s.issues) := by
  have bounds : innermost ((s.core.seq.setBank (s.core.seq.bank.put d (v s.issues))).bank)
      (s.core.seq.setBank (s.core.seq.bank.put d (v s.issues))).pc = innermost s.core.seq.bank s.core.seq.pc := by
    rw [Seq.bank_setBank, innermost_put, Seq.setBank_pc]
  rw [scalarWord_goes runs d v (give_scalar_now s.issues d (v s.issues)) bounds]
  generalize v s.issues = x
  generalize moved : ((s.issues.onCore _).goTo _ _).seqChecked.bump = t
  obtain ⟨seqSame, bank⟩ := seqSame_of_setBank (s := s) (t := t) (b := s.core.seq.bank.put d x) (by rw [← moved]; rfl)
  have bankSame : BankSame s t := by rw [BankSame, bank, Bank.put_frame]
  subst moved
  refine ⟨⟨?_, rfl, rfl⟩, ⟨fun i => ?_, fun b => ?_, ?_⟩, rfl, ?_, ⟨rfl, rfl⟩, seqSame, bankSame, rfl, rfl, ?_⟩
  · show (s.core.seq.setBank _).pc + 1 = s.core.seq.pc + 1
    rw [Seq.setBank_pc]
  · rw [bank, Bank.get_put]
    simp only [true_and]
  · simp only [true_and]
    exact mem_marks_left s.core.badReg s.core.seq.sup d x b
  · exact unraced_markRaced _ s.core.x.flight
  · exact OutsideSame.memory rfl rfl
  · exact unraced_markAccs _ s.core.x.accs

theorem scalarWord_later {n : Nat} (later : 1 < n) : GivesScalar s (scalarWord l n d v h s) h d n (v s.issues) := by
  rw [scalarWord_goes runs d v (give_flight (s := s.issues) 0 (.sreg s.core.seq.sup d (v s.issues)) later) rfl]
  have notNow : n ≠ 1 := by omega
  refine ⟨⟨rfl, rfl, rfl⟩, ⟨fun i => ?_, fun b => ?_, ?_⟩, rfl, ?_, ⟨rfl, rfl⟩, ⟨rfl, rfl⟩, rfl, rfl, rfl, rfl⟩
  · simp only [notNow, false_and, if_false]; rfl
  · simp only [notNow, false_and, not_false_eq_true, and_true]; rfl
  · rw [if_neg notNow]; rfl
  · exact OutsideSame.memory rfl rfl

/-- A scalar word of whatever bound gives its result and leaves the rest alone. -/
theorem scalarWord_gives {n : Nat} (hn : 1 ≤ n) : GivesScalar s (scalarWord l n d v h s) h d n (v s.issues) := by
  rcases Nat.eq_or_lt_of_le hn with rfl | later
  · exact scalarWord_now runs d v
  · exact scalarWord_later runs d v later

end

/-! ### Register and immediate words (R177, R178) -/

/-- A register word of the model, where its function is the table's. -/
theorem registerWord_gives {n : Nat} (hn : 1 ≤ n) {op f : Word → Word → Word} (spec : ∀ a b, op a b = f a b)
    (h : Head) (r : SR) (s : State) (runs : RunsOn h [r.sa, r.sb] s) :
    ∃ t, srWord n op h r s = .next t ∧ GivesScalar s t h r.dst n (f (s.reg 0 r.sa) (s.reg 1 r.sb)) :=
  ⟨_, rfl, spec _ _ ▸ scalarWord_gives runs r.dst (fun t => op (t.reg 0 r.sa) (t.reg 1 r.sb)) hn⟩

/-- The same of an immediate word. -/
theorem immediateWord_gives {n : Nat} (hn : 1 ≤ n) {op f : Word → Word → Word} (spec : ∀ a b, op a b = f a b)
    (h : Head) (r : SI) (s : State) (runs : Runs h s) (clean : RegsClean s (scalars s [r.sa])) :
    ∃ t, siWord n op h r s = .next t ∧ GivesScalar s t h r.dst n (f (s.reg 0 r.sa) r.imm) :=
  ⟨_, rfl, spec _ _ ▸ scalarWord_gives ⟨runs, clean⟩ r.dst (fun t => op (t.reg 0 r.sa) r.imm) hn⟩

theorem registerWords_give : ∀ row ∈ srTable, ∀ (h : Head) (f : SR) (s : State), RunsOn h [f.sa, f.sb] s →
    ∃ t, exec (row.1 h f) s = .next t ∧ GivesScalar s t h f.dst row.2.1 (row.2.2 (s.reg 0 f.sa) (s.reg 1 f.sb)) := by
  simp only [srTable, List.forall_mem_cons]
  have one : 1 ≤ 1 := Nat.le_refl 1
  have three : 1 ≤ 3 := by omega
  exact ⟨registerWord_gives one add_spec, registerWord_gives one sub_spec, registerWord_gives one fun _ _ => rfl,
    registerWord_gives one fun _ _ => rfl, registerWord_gives one fun _ _ => rfl, registerWord_gives one shiftLeft64_spec,
    registerWord_gives one shiftRight64_spec, registerWord_gives one shiftArith64_spec,
    registerWord_gives three mul_spec, registerWord_gives three fun _ _ => rfl,
    registerWord_gives three fun _ _ => rfl, registerWord_gives one minS64_spec, registerWord_gives one maxS64_spec,
    registerWord_gives one minU64_spec, registerWord_gives one maxU64_spec, List.forall_mem_nil _⟩

theorem li_gives (h : Head) (f : SI) (s : State) (runs : Runs h s) :
    ∃ t, exec (.li h f) s = .next t ∧ GivesScalar s t h f.dst 1 f.imm :=
  immediateWord_gives (Nat.le_refl 1) (op := fun _ b => b) (fun _ _ => rfl) h { f with sa := 0 } s runs fun _ _ => by simp [scalars]

theorem immediateWords_give : ∀ row ∈ siTable, ∀ (h : Head) (f : SI) (s : State), Runs h s →
    RegsClean s (scalars s (scalarReads false (row.1 h f))) →
    ∃ t, exec (row.1 h f) s = .next t ∧ GivesScalar s t h f.dst row.2.1 (row.2.2 (s.reg 0 f.sa) f.imm) := by
  simp only [siTable, List.forall_mem_cons]
  have one : 1 ≤ 1 := Nat.le_refl 1
  have three : 1 ≤ 3 := by omega
  exact ⟨immediateWord_gives one add_spec, fun h f s runs _ => li_gives h f s runs, immediateWord_gives one fun _ _ => rfl,
    immediateWord_gives one fun _ _ => rfl, immediateWord_gives one fun _ _ => rfl, immediateWord_gives one shiftLeft64_spec,
    immediateWord_gives one shiftRight64_spec, immediateWord_gives one shiftArith64_spec, immediateWord_gives three mul_spec,
    List.forall_mem_nil _⟩

/-! ### Trace records and error events leave a core as it is (R372-R376, R383, R389) -/

/-- Of the core in focus only the counters and records of observation differ. -/
def ObsOnly (s t : State) : Prop := ∃ o : Obs, t.core = { s.core with obs := o }

theorem ObsOnly.of_core {s t : State} (h : t.core = s.core) : ObsOnly s t := ⟨s.core.obs, h⟩

theorem ObsOnly.trans {s t u : State} (h : ObsOnly s t) (g : ObsOnly t u) : ObsOnly s u := by
  obtain ⟨o, ho⟩ := h
  obtain ⟨p, hp⟩ := g
  exact ⟨p, by rw [hp, ho]⟩

theorem ObsOnly.modCore (s : State) (c : Nat) (f : Obs → Core → Obs) :
    ObsOnly s (s.modCore c (fun k => { k with obs := f k.obs k })) := by
  unfold State.modCore State.setCore State.coreAt
  split
  · exact ⟨f s.core.obs s.core, rfl⟩
  · exact .of_core rfl

theorem ObsOnly.blot (s : State) (c type eng secno widx : Nat) (arg : Word) : ObsOnly s (s.blot c type eng secno widx arg) :=
  ObsOnly.modCore s c fun o k => o.log (s.die (dieOf c)).tick (s.markWord (dieOf c)) type k.share.lcore eng secno widx arg

theorem ObsOnly.blotTrigger (s : State) (c bit : Nat) : ObsOnly s (s.blotTrigger c bit) :=
  ObsOnly.modCore s c fun o _ => o.trigger bit

theorem ObsOnly.foldl {α : Type} (f : State → α → State) (hf : ∀ t a, ObsOnly t (f t a)) (l : List α) (s : State) :
    ObsOnly s (l.foldl f s) := by
  induction l generalizing s with
  | nil => exact .of_core rfl
  | cons a l ih => exact (hf s a).trans (ih (f s a))

theorem ObsOnly.blotDie (s : State) (d bit type : Nat) (own : Option Nat) (arg : Word) :
    ObsOnly s (s.blotDie d bit type own arg) := by
  refine ObsOnly.foldl _ (fun t i => ?_) _ s
  dsimp only
  split
  · refine ObsOnly.trans ?_ (ObsOnly.blotTrigger _ _ _)
    split
    · exact .of_core rfl
    · exact ObsOnly.blot ..
  · exact .of_core rfl

theorem ObsOnly.blotError (s : State) (d : Nat) (ev : ErrEv) : ObsOnly s (s.blotError d ev) := by
  unfold State.blotError
  dsimp only
  generalize hs1 : (if ev.ofCore = true then s.blot ev.core.toNat 0xB ev.eng.toNat ev.sec.toNat ev.widx.toNat (errWord0 ev) else s) = s1
  generalize hs2 : (if (ev.ofCore && errIsEcc ev) = true then s1.blotTrigger ev.core.toNat 2 else s1) = s2
  have own : ObsOnly s s1 := by
    rw [← hs1]
    split
    · exact ObsOnly.blot ..
    · exact .of_core rfl
  have ecc : ObsOnly s1 s2 := by
    rw [← hs2]
    split
    · exact ObsOnly.blotTrigger ..
    · exact .of_core rfl
  refine (own.trans ecc).trans ?_
  split
  · exact ObsOnly.blotDie ..
  · split
    · exact ObsOnly.blotDie ..
    · exact .of_core rfl

theorem report_core (s : State) (c : Nat) : (s.report c).core = s.core := by
  unfold State.report
  dsimp only
  rw [apply_ite State.core]
  exact ite_self _

/-- A trace record waits in its ring: of the state only the rings differ, and none where no ring records. -/
theorem ringLog_trace (s : State) (p d type lcore eng secno widx : Nat) (arg : Word) :
    TraceOnly s (s.ringLog p d type lcore eng secno widx arg) ∧ (s.ringLog p d type lcore eng secno widx arg).core = s.core := by
  unfold State.ringLog
  split
  · exact ⟨⟨rfl, fun _ => rfl, fun _ => rfl⟩, rfl⟩
  · next x part =>
    split
    · exact ⟨⟨rfl, fun _ => rfl, fun _ => rfl⟩, rfl⟩
    · next records =>
      refine ⟨⟨rfl, (RingsOnly.modRing s p d _).dies, fun none => ?_⟩, rfl⟩
      simp [none p x part] at records

/-- An event that reaches an error bank changes nothing of the core in focus but its blotter. -/
theorem ObsOnly.raise (s : State) (d b : Nat) (ev : ErrEv) : ObsOnly s (s.raise d b ev) := by
  refine ObsOnly.trans ?_ (.of_core (ringLog_trace _ _ _ _ _ _ _ _ _).2)
  refine ObsOnly.trans ?_ (ObsOnly.blotError _ d ev)
  exact .of_core (report_core _ _)

/-! ### Where only trace records are written -/

theorem TraceOnly.onCore {s t : State} (h : TraceOnly s t) (f : Core → Core) : TraceOnly s (t.onCore f) := by
  obtain ⟨rest, dies, quiet⟩ := h
  exact ⟨rest, dies, quiet⟩

theorem TraceOnly.of_onCore {s t : State} {f : Core → Core} (h : TraceOnly (s.onCore f) t) : TraceOnly s t := by
  obtain ⟨rest, dies, quiet⟩ := h
  exact ⟨congrArg (fun x : State => { x with core := s.core }) rest, dies,
    fun none => (OutsideSame.onCore s f).trans (quiet none)⟩

theorem TraceOnly.memory {s t : State} (h : TraceOnly s t) (near : t.core.near = s.core.near) : MemorySame s t := by
  have same {α : Type} (f : State → α) := congrArg f h.1
  exact MemorySame.of_eq (same State.here) (same State.others) near (same State.dieStore) (same State.main) (same State.remote)

/-- A record of the core in focus goes to its blotter and to its partition's ring. -/
theorem note_trace (s : State) (type : Nat) (e : Stream) (secno widx : Nat) (arg : Word) :
    TraceOnly s (s.note type e secno widx arg) ∧ ObsOnly s (s.note type e secno widx arg) := by
  obtain ⟨ring, core⟩ := ringLog_trace (s.blot s.here type (streamCode e) secno widx arg) s.partNum s.myDie type
    s.core.share.lcore (streamCode e) secno widx arg
  refine ⟨TraceOnly.of_onCore (f := fun k => (s.blot s.here type (streamCode e) secno widx arg).core) ?_,
    (ObsOnly.blot s s.here type (streamCode e) secno widx arg).trans (.of_core core)⟩
  have here : s.blot s.here type (streamCode e) secno widx arg =
      s.onCore (fun _ => (s.blot s.here type (streamCode e) secno widx arg).core) := by
    unfold State.blot State.modCore State.setCore State.coreAt
    rw [if_pos rfl, if_pos rfl]
    rfl
  rw [← here]
  exact ring

/-! ### TINFO (R307) -/

theorem fieldAt_ofNat {n lo k : Nat} {x : BitVec k} (small : n < 2 ^ 64) (value : n / 2 ^ lo % 2 ^ k = x.toNat) :
    fieldAt (BitVec.ofNat 64 n) lo k = x := by
  apply BitVec.eq_of_toNat_eq
  rw [fieldAt, BitVec.extractLsb'_toNat, BitVec.toNat_ofNat, Nat.mod_eq_of_lt small, Nat.shiftRight_eq_div_pow, value]

theorem getLsbD_ofNat {n lo : Nat} {b : Bool} (inside : lo < 64) (value : n / 2 ^ lo % 2 = b.toNat) :
    (BitVec.ofNat 64 n).getLsbD lo = b := by
  rw [BitVec.getLsbD_ofNat, Nat.testBit_eq_decide_div_mod_eq, value]
  cases b <;> simp [inside]

/-- TINFO holds each part of the record in its field. -/
theorem tinfoOf_fields (r : TrapRec) (forced more : Bool) :
    TinfoIs (tinfoOf r forced more) r.cause r.sub (streamCode r.eng) forced more r.secno r.widx := by
  obtain ⟨cause, sub, eng, secno, widx, addr, resume, sup⟩ := r
  have boundC := cause.isLt
  have boundS := sub.isLt
  have boundE : streamCode eng < 4 := by cases eng <;> decide
  have boundF := forced.toNat_lt
  have boundM := more.toNat_lt
  have boundN := secno.isLt
  have boundW := widx.isLt
  obtain ⟨n, hn⟩ : ∃ n, n = packHi [(8, cause.toNat), (8, sub.toNat), (2, streamCode eng), (1, forced.toNat), (1, more.toNat),
    (12, secno.toNat), (14, widx.toNat), (18, 0)] := ⟨_, rfl⟩
  have word : tinfoOf ⟨cause, sub, eng, secno, widx, addr, resume, sup⟩ forced more = BitVec.ofNat 64 n := by rw [hn]; rfl
  simp only [packHi, List.foldl_cons, List.foldl_nil] at hn
  have small : n < 2 ^ 64 := by omega
  have engine : fieldAt (BitVec.ofNat 64 n) 46 2 = BitVec.ofNat 2 (streamCode eng) :=
    fieldAt_ofNat small (by rw [BitVec.toNat_ofNat]; omega)
  rw [word, TinfoIs, engine, BitVec.toNat_ofNat]
  exact ⟨fieldAt_ofNat small (by dsimp only; omega), fieldAt_ofNat small (by dsimp only; omega), Nat.mod_eq_of_lt boundE,
    getLsbD_ofNat (by omega) (by omega), getLsbD_ofNat (by omega) (by omega), fieldAt_ofNat small (by dsimp only; omega),
    fieldAt_ofNat small (by dsimp only; omega), fieldAt_ofNat small (by show _ = 0; omega)⟩

/-! ### A trap of the word at PC (R176, R304, R310, R311) -/

theorem stopsOpen_iff (s : State) : s.stopsOpen = true ↔ DebugStops s := by
  simp [State.stopsOpen, DebugStops]

/-- Causes that replay does not cure and that no pre-emption raises. -/
abbrev OrdinaryCause (cause : BitVec 8) : Prop := cause ≠ 0x19 ∧ cause ≠ 0x1A ∧ cause ≠ 0x1B

theorem seqRec_not_bad {cause : BitVec 8} (ordinary : OrdinaryCause cause) (s : State) (addr : Word) (after : Bool) :
    (seqRec s cause addr after).bad = false := by
  obtain ⟨notPoison, notPipe, -⟩ := ordinary
  simp only [TrapRec.bad, seqRec, Bool.or_eq_false_iff, beq_eq_false_iff_ne]
  exact ⟨notPoison, notPipe⟩

/-- A record of the control stream that is no POISON and no PIPE stands beside every other. -/
theorem record_append {q : Seq} {r : TrapRec} (eng : r.eng = .seq) (good : r.bad = false) :
    q.record r = { q with traps := q.traps ++ [r] } := by
  have alone : q.traps.any r.same = false := by
    rw [List.any_eq_false]
    intro t _
    simp [TrapRec.same, eng, good]
  simp only [Seq.record, alone]
  rfl

/-- The core in focus drains with these traps recorded. -/
def drainsWith (s : State) (l : List TrapRec) : State :=
  s.onCore (fun k => { k with seq := { k.seq with traps := l, draining := true } })

theorem drainsWith_quiet (s : State) (l : List TrapRec) : (drainsWith s l).core.quiet = s.core.quiet := rfl

theorem drainsWith_stopsOpen (s : State) (l : List TrapRec) : (drainsWith s l).stopsOpen = s.stopsOpen := rfl

theorem drainsWith_replays (s : State) {r : TrapRec} (good : r.bad = false) : (drainsWith s [r]).core.seq.replays = false := by
  have none : (drainsWith s [r]).core.seq.traps.any TrapRec.bad = false := by
    show [r].any TrapRec.bad = false
    simp [good]
  simp [Seq.replays, none]

/-- The one trap recorded, raised in the present state, is the one taken. -/
theorem drainsWith_takeNext (s : State) {r : TrapRec} (sup : r.sup = s.core.seq.sup) :
    (drainsWith s [r]).takeNext = (drainsWith s []).takeTrap r false := by
  have takes : (drainsWith s [r]).core.seq.takes r = true := by
    show (!s.core.seq.sup || r.sup) = true
    rw [sup]
    cases s.core.seq.sup <;> rfl
  have first : firstTrap ((drainsWith s [r]).core.seq.traps.filter (drainsWith s [r]).core.seq.takes) = some r := by
    show firstTrap ([r].filter (drainsWith s [r]).core.seq.takes) = some r
    rw [List.filter_cons_of_pos takes]
    rfl
  have rest : (drainsWith s [r]).core.seq.traps.erase r = [] := by
    show [r].erase r = []
    simp
  unfold State.takeNext
  rw [Seq.nextTrap, first, Option.map_some, rest]
  rfl

section
variable {cause : BitVec 8} (ordinary : OrdinaryCause cause) (s : State) (addr : Word) (after : Bool)
include ordinary

/-- A word's trap is recorded; it is taken at once on a drained core that no debug stop waits for. -/
theorem seqTrap_eq {t : State} (ht : t = drainsWith s (s.core.seq.traps ++ [seqRec s cause addr after])) :
    s.seqTrap cause 0 addr after = if t.core.quiet && !t.core.seq.replays && !t.stopsOpen then t.takeNext else t := by
  have recorded := record_append (q := s.core.seq) (r := seqRec s cause addr after) rfl (seqRec_not_bad ordinary s addr after)
  have drains : s.onCore (fun k => { k with seq := { s.core.seq.record (seqRec s cause addr after) with draining := true } }) = t := by
    rw [recorded, ht]
    rfl
  rw [← drains]
  rfl

theorem seqTrap_stops (stops : DebugStops s) :
    Recorded s (s.seqTrap cause 0 addr after).seqChecked (seqRec s cause addr after) := by
  rw [seqTrap_eq ordinary s addr after rfl, drainsWith_stopsOpen, (stopsOpen_iff s).2 stops, if_neg (by simp)]
  exact ⟨rfl, OutsideSame.memory rfl rfl, rfl, rfl, rfl⟩

/-- On a drained core with no other trap recorded, it is the trap taken. -/
theorem seqTrap_taken (quiet : s.core.quiet = true) (stops : ¬DebugStops s) (none : NoTraps s) :
    s.seqTrap cause 0 addr after = (drainsWith s []).takeTrap (seqRec s cause addr after) false := by
  have alone : s.core.seq.traps ++ [seqRec s cause addr after] = [seqRec s cause addr after] := by rw [none]; rfl
  have closed : s.stopsOpen = false := by rwa [← Bool.not_eq_true, stopsOpen_iff]
  rw [seqTrap_eq ordinary s addr after rfl, alone, drainsWith_quiet, quiet,
    drainsWith_replays s (seqRec_not_bad ordinary s addr after), drainsWith_stopsOpen, closed, if_pos (by rfl),
    drainsWith_takeNext s rfl]

end

/-! What taking it does (R304, R311). -/

theorem takeTrap_enters {s : State} {r : TrapRec} (good : r.bad = false) (user : s.core.seq.sup = false)
    (sen : s.core.seq.sen = true) (forced : Bool) {ti : Word}
    (hti : tinfoOf r forced (s.core.seq.trapped || (s.core.seq.req && r.cause != 0x1B)) = ti) :
    s.takeTrap r forced =
      (s.note 0x3 r.eng r.secno.toNat r.widx.toNat ti).onCore
        (fun k => k.enterSup ti r.addr (r.resume.getD s.core.seq.pc) (s.core.seq.ended && r.resume.isNone)) := by
  unfold State.takeTrap
  simp only [good, user, sen, hti, Bool.false_and, Bool.not_true, Bool.false_eq_true, if_false]

/-- With no supervisor, or in supervisor state, the share ends with FAULT; the core has at most noted an event. -/
theorem takeTrap_faults {s : State} {r : TrapRec} (good : r.bad = false) (noSup : s.core.seq.sup = true ∨ s.core.seq.sen = false)
    (forced : Bool) : ∃ u : State, ObsOnly s u ∧ s.takeTrap r forced = u.endFault := by
  cases sup : s.core.seq.sup with
  | true =>
    simp only [State.takeTrap, good, sup, Bool.false_and, Bool.false_eq_true, if_false, if_true]
    exact ⟨_, ObsOnly.raise _ _ _ _, rfl⟩
  | false =>
    have sen : s.core.seq.sen = false := by simpa [sup] using noSup
    simp only [State.takeTrap, good, sup, sen, Bool.false_and, Bool.not_false, Bool.false_eq_true, if_false, if_true]
    exact ⟨s, .of_core rfl, rfl⟩

theorem endFault_of_late {s : State} (late : s.core.seq.late = none) : s.endFault = s.onCore Core.endFault := by
  rw [State.endFault, late]

/-- What was recorded of a word as it issues is recorded of the word. -/
theorem Recorded.of_issues {s t : State} {r : TrapRec} (h : Recorded s.issues t r) : Recorded s t.bump r := by
  obtain ⟨outside, -, core, obs, seq⟩ := h
  have same : OutsideSame s t.bump := OutsideSame.trans (OutsideSame.onCore s _) (t := s.issues) outside
  have near : t.core.near = s.core.near := by simpa using congrArg Core.near core
  have coreSame := congrArg (fun k : Core => { k with obs := s.core.obs }) core
  have obsSame := congrArg (fun o : Obs =>
    { o with issued := s.core.obs.issued, wdogCnt := s.core.obs.wdogCnt, beats := s.core.obs.beats }) obs
  exact ⟨same, same.memory near, coreSame, obsSame, seq⟩

/-- The supervisor entered from the word at PC, once the trace record is written. -/
theorem enters_of_note {s n : State} (trace : TraceOnly s n) (obs : ObsOnly (drainsWith s.issues []) n) (ti addr : Word)
    (tpc : BitVec 14) (atEnd : Bool) :
    let t := (n.onCore fun k => k.enterSup ti addr tpc atEnd).seqChecked.bump
    Enters s t tpc addr ∧ t.core.seq.tinfo = ti := by
  obtain ⟨o, core⟩ := obs
  obtain ⟨t, ht⟩ : ∃ t, t = (n.onCore fun k => k.enterSup ti addr tpc atEnd).seqChecked.bump := ⟨_, rfl⟩
  have coreT : t.core = (fun k : Core => { k with seq := { k.seq with pipe := false } })
      (Core.enterSup { (drainsWith s.issues []).core with obs := o } ti addr tpc atEnd) := by
    rw [← core, ht]
    rfl
  have traceT : TraceOnly s t := by
    rw [ht]
    exact TraceOnly.onCore (TraceOnly.onCore trace (fun k => k.enterSup ti addr tpc atEnd))
      (fun k => { k with seq := { k.seq with pipe := false } })
  rw [← ht]
  refine ⟨⟨?_, traceT, TraceOnly.memory traceT (by rw [coreT]; rfl)⟩, by rw [coreT]; rfl⟩
  rw [EntersCore, coreT]
  refine ⟨rfl, rfl, rfl, rfl, rfl, rfl, rfl, rfl, rfl, rfl, rfl, rfl, rfl, fun e _ => ?_⟩
  cases e <;> rfl

/-- The share ended from the word at PC. -/
theorem endsFault_of_obsOnly {s u : State} (obs : ObsOnly (drainsWith s.issues []) u) :
    EndsFault s (u.onCore Core.endFault).seqChecked.bump := by
  obtain ⟨o, core⟩ := obs
  obtain ⟨t, ht⟩ : ∃ t, t = (u.onCore Core.endFault).seqChecked.bump := ⟨_, rfl⟩
  have coreT : t.core = (fun k : Core => { k with seq := { k.seq with pipe := false } })
      (Core.endFault { (drainsWith s.issues []).core with obs := o }) := by
    rw [← core, ht]
    rfl
  rw [← ht, EndsFault, coreT]
  refine ⟨rfl, rfl, rfl, fun e _ => ?_, rfl, rfl, rfl, rfl, rfl, rfl⟩
  cases e <;> rfl

/-- Any trap of the word at PC that is no POISON, no PIPE and no pre-emption (R176, R304, R310, R311). -/
theorem seqTrap_seqTraps {cause : BitVec 8} (ordinary : OrdinaryCause cause) (s : State) (addr : Word) (after : Bool) :
    SeqTraps s (s.issues.seqTrap cause 0 addr after).seqChecked.bump cause addr after := by
  refine ⟨fun waits => ?_, fun quiet stops none => ?_⟩
  · apply Recorded.of_issues
    by_cases stops : DebugStops s
    · exact seqTrap_stops ordinary s.issues addr after stops
    · exact seqTrap_recorded addr after ⟨ordinary.1, ordinary.2.1⟩ (waits.resolve_right stops)
  · have good := seqRec_not_bad ordinary s.issues addr after
    rw [seqTrap_taken ordinary s.issues addr after quiet stops none]
    refine ⟨fun user sen => ?_, fun noSup late => ?_⟩
    · have notPreempt : (cause != 0x1B) = true := by simpa using ordinary.2.2
      have more : tinfoOf (seqRec s.issues cause addr after) false ((drainsWith s.issues []).core.seq.trapped ||
          ((drainsWith s.issues []).core.seq.req && cause != 0x1B)) = tinfoOf (seqRec s cause addr after) false s.core.seq.req := by
        rw [notPreempt, Bool.and_true]
        rfl
      rw [takeTrap_enters (s := drainsWith s.issues []) good user sen false more]
      obtain ⟨trace, obs⟩ := note_trace (drainsWith s.issues []) 0x3 .seq 0 s.core.seq.pc.toNat
        (tinfoOf (seqRec s cause addr after) false s.core.seq.req)
      have traceS : TraceOnly s _ := TraceOnly.of_onCore (TraceOnly.of_onCore (s := s.issues) trace)
      obtain ⟨enters, tinfo⟩ := enters_of_note traceS obs (tinfoOf (seqRec s cause addr after) false s.core.seq.req) addr
        (if after then s.core.seq.pc + 1 else s.core.seq.pc) (s.core.seq.ended && false)
      refine ⟨enters, ?_⟩
      have fields := tinfoOf_fields (seqRec s cause addr after) false s.core.seq.req
      rw [← tinfo] at fields
      exact fields
    · obtain ⟨u, obs, ends⟩ := takeTrap_faults (s := drainsWith s.issues []) good noSup false
      have lateU : u.core.seq.late = Option.none := by
        obtain ⟨o, core⟩ := obs
        rw [core]
        exact late
      rw [ends, endFault_of_late lateU]
      exact endsFault_of_obsOnly obs

/-! ### The bytes of a word (R154) -/

/-- The little-endian number of the bytes of a word from byte `k` on. -/
theorem natOfBytes_fields (w : InstrWord) (n k : Nat) :
    natOfBytes ((List.range n).map fun i => fieldAt w (8 * (k + i)) 8) = w.toNat / 2 ^ (8 * k) % 2 ^ (8 * n) := by
  induction n generalizing k with
  | zero => simp [natOfBytes, Nat.mod_one]
  | succ n ih =>
    have rest := ih (k + 1)
    have first : (fieldAt w (8 * k) 8 : Byte).toNat = w.toNat / 2 ^ (8 * k) % 256 := by
      rw [fieldAt, BitVec.extractLsb'_toNat, Nat.shiftRight_eq_div_pow]
    have shift : w.toNat / 2 ^ (8 * (k + 1)) = w.toNat / 2 ^ (8 * k) / 256 := by
      rw [Nat.div_div_eq_div_mul, show 8 * (k + 1) = 8 * k + 8 by omega, Nat.pow_add]
    rw [shift] at rest
    rw [List.range_succ_eq_map, List.map_cons, List.map_map, natOfBytes]
    have tail : ((List.range n).map ((fun i => (fieldAt w (8 * (k + i)) 8 : Byte)) ∘ Nat.succ)) =
        (List.range n).map fun i => fieldAt w (8 * (k + 1 + i)) 8 := by
      refine List.map_congr_left fun i _ => ?_
      show fieldAt w (8 * (k + (i + 1))) 8 = _
      rw [show k + (i + 1) = k + 1 + i by omega]
    rw [tail, rest, Nat.add_zero, first, show 8 * (n + 1) = 8 + 8 * n by omega, Nat.pow_add, Nat.mod_mul]

theorem wordOfBytes_wordBytes (w : InstrWord) : wordOfBytes (wordBytes w) = some w := by
  have value : natOfBytes (wordBytes w) = w.toNat := by
    have fields := natOfBytes_fields w 12 0
    simp only [Nat.zero_add, Nat.mul_zero, Nat.pow_zero, Nat.div_one] at fields
    rw [wordBytes, fields, Nat.mod_eq_of_lt w.isLt]
  have len : (wordBytes w).length = 12 := rfl
  rw [wordOfBytes, if_pos (by rw [len]), List.take_of_length_le (by rw [len]), value, BitVec.ofNat_toNat, BitVec.setWidth_eq]

/-! ### A step that runs the word at PC of the core in focus (R155, R157) -/

/-- What the control stream fetches where it may issue. -/
theorem seqMove_of_fetched {k : Core} {bs : List Byte} (h : fetched k .seq = some bs) : k.seqMove = some (Core.wordMove .seq bs) := by
  dsimp only [fetched] at h
  split at h
  · next may =>
    obtain ⟨ready, below, good⟩ := may
    have inside : (!k.seq.sup && decide (k.seq.sbase ≤ k.seq.pc)) = false := by
      rcases below with sup | lt
      · simp [sup]
      · simp [BitVec.not_le.2 lt]
    rw [Core.seqMove, if_pos ready, Core.seqFetch, h]
    simp only [inside, good, Bool.false_eq_true, if_false]
  · cases h

theorem focus_here (s : State) : s.focus s.here = s := by simp [State.focus]

/-- A quiet machine whose core in focus has a word to issue makes that word's move. -/
theorem step_of_words {s : State} {m : Move} (quiet : Quiet s) (words : s.core.words = some m) : step s = s.perform m := by
  obtain ⟨script, power, on, package, cores⟩ := quiet
  have noneDue : s.anyCore State.coreDue = none := by
    rw [State.anyCore, List.findSome?_eq_none_iff]
    intro c hc
    obtain ⟨e, he, rfl⟩ := List.mem_map.1 hc
    rw [cores e he]
    rfl
  have word : s.anyCore (fun t => t.core.words) = some (s.here, m) := by
    rw [State.anyCore, State.cores, List.map_cons, List.findSome?_cons, focus_here, words]
    rfl
  have move : s.nextMove false = (s.here, m) := by
    rw [State.nextMove, noneDue, package, word]
    rfl
  have alive : s.dead = false := by simp [State.dead, power, on]
  rw [step, State.advance, script]
  dsimp only
  rw [State.own, alive, if_neg (by simp), move, focus_here]

/-- A word that decodes to nothing is refused with ILLOP. -/
theorem step_illop {s : State} {w : InstrWord} (quiet : Quiet s) (turn : TurnOf s.core .seq)
    (word : fetched s.core .seq = some (wordBytes w)) (bad : decode .seq w = none) :
    step s = .next (s.issues.seqTrap 0x01 0 0 false).seqChecked.bump := by
  obtain ⟨noX, noFeed, noM, noV⟩ := turn
  have move : Core.wordMove .seq (wordBytes w) = .illop .seq := by
    rw [Core.wordMove, decodeBytes, wordOfBytes_wordBytes]
    dsimp only
    rw [bad]
  have words : s.core.words = some (.illop .seq) := by
    rw [Core.words, noX, noFeed, noM, noV, seqMove_of_fetched word, move]
    rfl
  rw [step_of_words quiet words]
  rfl

/-! ### Control-stream words that jump, idle, trap or have no effect (R174-R176) -/

section
variable {h : Head} {s : State} {o : SKind} {body : State → SRes}

/-- A word that names the next word and sets the bank in use. -/
theorem issueSeq_jump (acts : Acts h s) {pc : BitVec 14} {b : Bank}
    (effect : body s.issues = .jump pc (s.issues.onCore fun k => { k with seq := k.seq.setBank b })) :
    let t := s.issueSeq {} h body
    WentTo t pc (1 + h.gap.toNat) ∧ t.core.seq.bank = b ∧ ControlFrame s t := by
  obtain ⟨guard, check⟩ := acts
  have issued : s.issueSeq {} h body =
      ((s.issues.onCore fun k => { k with seq := k.seq.setBank b }).goTo pc (1 + h.gap.toNat)).seqChecked.bump := by
    rw [issueSeq_body body (fun priv => Bool.noConfusion priv) guard rfl check, effect]
    rfl
  intro t
  obtain ⟨seqSame, bank⟩ := seqSame_of_setBank (s := s) (t := t) (b := b) (by rw [show t = _ from issued]; rfl)
  rw [show t = _ from issued] at seqSame bank ⊢
  exact ⟨⟨rfl, rfl, rfl⟩, bank, rfl, OutsideSame.memory rfl rfl, ⟨rfl, rfl⟩, seqSame, rfl⟩

/-- A word that raises a trap of its own raises it whether or not the check beside it fails (R368). -/
theorem issueSeq_trap (priv : o.priv = false) (reads : o.reads = []) (guard : guardHolds s.core.seq.bank h.guard = true)
    {cause : BitVec 8} (ordinary : OrdinaryCause cause) {addr : Word} {after : Bool}
    (effect : body s.issues = .trap cause 0 addr after) : SeqTraps s (s.issueSeq o h body) cause addr after := by
  have guardI : guardHolds s.issues.core.seq.bank h.guard = true := guard
  have issued : s.issueSeq o h body = (s.issues.seqTrap cause 0 addr after).seqChecked.bump := by
    cases check : s.issues.core.seq.pipe <;>
      simp only [State.issueSeq, priv, reads, guardI, check, effect, SRes.spoil, SRes.finish, List.any_nil, Bool.false_and,
        Bool.false_eq_true, if_false, if_true]
  rw [issued]
  exact seqTrap_seqTraps ordinary s addr after

theorem goTo_onlyMoved (s : State) (n : Nat) :
    let t := (s.issues.goTo (s.core.seq.pc + 1) n).seqChecked.bump
    WentOn s t n ∧ OnlyMoved s t :=
  ⟨⟨rfl, rfl, rfl⟩, rfl, OutsideSame.memory rfl rfl, rfl, rfl, rfl⟩

/-- A word whose only effect is the idle it spends, which it spends too where its guard fails (R188). -/
theorem issueSeq_idle (priv : o.priv = false) (reads : o.reads = []) (excl : o.excl = false) (noEnd : NoLoopEnds s)
    (check : s.core.seq.pipe = false)
    (effect : (body s.issues).finish s.issues h.gap.toNat = s.issues.fallThrough (1 + h.gap.toNat + o.idle)) :
    WentOn s (s.issueSeq o h body) (1 + h.gap.toNat + o.idle) ∧ OnlyMoved s (s.issueSeq o h body) := by
  have noPriv : o.priv = true → s.core.seq.sup = true := fun p => Bool.noConfusion (priv.symm.trans p)
  have issued : s.issueSeq o h body = (s.issues.fallThrough (1 + h.gap.toNat + o.idle)).seqChecked.bump := by
    cases guard : guardHolds s.core.seq.bank h.guard with
    | true => rw [issueSeq_body body noPriv guard (by rw [reads]; rfl) check, effect]
    | false =>
      rw [issueSeq_skip body noPriv guard, excl]
      rfl
  rw [issued, fallThrough_none (s := s.issues) (innermost_of_noLoopEnds noEnd)]
  exact goTo_onlyMoved s _

/-- A word that no iteration may end at goes on to the next word where its guard fails. -/
theorem issueSeq_skipped (priv : o.priv = false) (excl : o.excl = true) (guard : guardHolds s.core.seq.bank h.guard = false) :
    WentOn s (s.issueSeq o h body) (1 + h.gap.toNat) ∧ OnlyMoved s (s.issueSeq o h body) := by
  rw [issueSeq_skip body (fun p => Bool.noConfusion (priv.symm.trans p)) guard, excl]
  exact goTo_onlyMoved s _

end

/-! ### Branches (R182) -/

section
variable {h : Head} {s : State} (acts : Acts h s)
include acts

theorem br_goes (f : SB) : ∃ t, exec (.br h f) s = .next t ∧
    WentTo t f.tgt (1 + h.gap.toNat) ∧ t.core.seq.bank = s.core.seq.bank ∧ ControlFrame s t := by
  have same : s.issues = s.issues.onCore fun k => { k with seq := k.seq.setBank s.core.seq.bank } := by
    show s.issues = { s.issues with core := { s.issues.core with seq := s.core.seq.setBank s.core.seq.bank } }
    rw [Seq.setBank_bank]
    rfl
  exact ⟨_, rfl, issueSeq_jump acts (congrArg (SRes.jump f.tgt) same)⟩

theorem call_goes (f : SB) (room : s.core.seq.bank.depth.toNat < 16) : ∃ t, exec (.call h f) s = .next t ∧
    WentTo t f.tgt (1 + h.gap.toNat) ∧ t.core.seq.bank = s.core.seq.bank.push (s.core.seq.pc + 1) ∧ ControlFrame s t :=
  ⟨_, rfl, issueSeq_jump acts (if_neg (Nat.not_le.2 room))⟩

theorem call_full (f : SB) (full : 16 ≤ s.core.seq.bank.depth.toNat) :
    ∃ t, exec (.call h f) s = .next t ∧ SeqTraps s t 0x08 0 false :=
  ⟨_, rfl, issueSeq_trap rfl rfl acts.1 (by decide) (if_pos full)⟩

theorem ret_goes (filled : s.core.seq.bank.depth ≠ 0) : ∃ t, exec (.ret h) s = .next t ∧
    WentTo t (s.core.seq.bank.stack[s.core.seq.bank.depth.toNat - 1]?.getD 0) (1 + h.gap.toNat) ∧
    t.core.seq.bank = { s.core.seq.bank with depth := s.core.seq.bank.depth - 1 } ∧ ControlFrame s t := by
  have top : (s.core.seq.bank.depth - 1).toNat = s.core.seq.bank.depth.toNat - 1 := by
    have : s.core.seq.bank.depth.toNat ≠ 0 := fun e => filled (BitVec.eq_of_toNat_eq e)
    bv_omega
  rw [← top]
  exact ⟨_, rfl, issueSeq_jump acts (if_neg filled)⟩

theorem ret_empty (empty : s.core.seq.bank.depth = 0) : ∃ t, exec (.ret h) s = .next t ∧ SeqTraps s t 0x09 0 false :=
  ⟨_, rfl, issueSeq_trap rfl rfl acts.1 (by decide) (if_pos empty)⟩

end

/-! ### The statements -/

/-- Settles O10: each word is `scalarWord` with its own f, and its fields stand where the table puts them. -/
theorem scalarArithmetic : Obligations.ScalarArithmetic :=
  ⟨⟨registerWords_give, registerWords_bits⟩, immediateWords_give, immediateWords_bits,
    fun _ _ _ decoded => decode_li_sa decoded⟩

/-- Settles O13: a branch goes to its target with the bank it leaves; a full or an empty return stack is a trap of the word. -/
theorem branches : Obligations.Branches := by
  unfold Obligations.Branches
  exact fun h s acts => ⟨br_goes acts, call_goes acts, ret_goes acts, call_full acts, ret_empty acts,
    fun f => ⟨seqBits_SB 0x30 h f, seqBits_SB 0x31 h f⟩, seqBits_head 0x32 h⟩

/-- Settles O16: the idle of `wait` and of `nop` is all their effect; other words with OP 0xFE decode to nothing, and a step
refuses them. -/
theorem waitAndNop : Obligations.WaitAndNop := by
  unfold Obligations.WaitAndNop
  refine ⟨fun h s noEnd check => ⟨fun f => ⟨_, rfl, ?_⟩, _, rfl, ?_⟩, seqBits_SW 0x41, decode_nop,
    fun w s op bits quiet turn word => ?_⟩
  · rw [Nat.add_right_comm]
    exact issueSeq_idle rfl rfl rfl noEnd check rfl
  · exact issueSeq_idle rfl rfl rfl noEnd check rfl
  · exact ⟨_, step_illop quiet turn word (decode_nop_bits op bits), seqTrap_seqTraps (by decide) s 0 false⟩

/-- Settles O23: both words raise their trap whatever is under way, and a failed guard leaves only the way to the next word. -/
theorem trapWords : Obligations.TrapWords := by
  unfold Obligations.TrapWords
  refine ⟨fun h s guard => ⟨fun f => ⟨_, rfl, issueSeq_trap rfl rfl guard (by decide) rfl⟩,
      _, rfl, issueSeq_trap rfl rfl guard (by decide) rfl⟩,
    fun h s guard => ⟨fun f => ⟨_, rfl, issueSeq_skipped rfl rfl guard⟩, _, rfl, issueSeq_skipped rfl rfl guard⟩,
    seqBits_SW 0x70, seqBits_head 0x71⟩

end Sys2Proof.Proofs.SequencerWords
end
